-- ==== Sys2Proof/Word.lean ====
section
/-!
DEFINITION. The word types of the part and the sparse maps the state is made of (spec 00 R1).
-/
namespace Sys2Proof

/-- A sequencer register, 64 bits (R180). -/
abbrev Word := BitVec 64

/-- A lane register, 32 bits (R411). -/
abbrev Lane := BitVec 32

abbrev Byte := BitVec 8

/-- A map with number keys: keys strictly rising; an unlisted key has the reader's default. -/
abbrev SMap (α : Type) := List (Nat × α)

/-- Byte memory: (address, byte) pairs, addresses strictly rising, no byte 0 listed. -/
abbrev Memory := List (Nat × BitVec 8)

end Sys2Proof
end

