-- ==== Sys2Proof/Syntax.lean ====
section
/-!
DEFINITION. The instructions: one constructor per row of the opcode table. Control words (R332 to R340), lane words
(R341 to R347), section headers (R348), engine commands (R353 to R356), and the module's operations and events, which carry what
the outside or another unit supplies as operands (log 23).
-/
namespace Sys2Proof

/-- A register field of a control word (R333). -/
abbrev Reg := BitVec 6

/-- Access sizes of the M format: 1, 2, 4 or 8 bytes (R312). -/
inductive MemSize where
  | b | h | w | d
  deriving DecidableEq, Repr

/-- Scopes (R281). -/
inductive Scope where
  | core | device | system
  deriving DecidableEq, Repr

/-- Orders with their scopes: the assigned ordering codes of R337. -/
inductive MemOrd where
  | plain
  | acq (s : Scope)
  | rel (s : Scope)
  | acqRel (s : Scope)
  | seq (s : Scope)
  deriving DecidableEq, Repr

/-- AMO operations (R337, R387). -/
inductive AmoOp where
  | add | and | or | xor | min | max | swap | fadd
  deriving DecidableEq, Repr

/-- The fields of a lane word below its op (R341). -/
structure LaneFields where
  d : BitVec 8
  a : BitVec 8
  b : BitVec 8
  c : BitVec 8
  lat : BitVec 4
  pred : BitVec 4
  id : Bool
  ia : Bool
  ib : Bool
  sat : Bool
  rnd : BitVec 4
  f1 : BitVec 4
  f2 : BitVec 4
  imm : BitVec 32
  deriving DecidableEq, Repr

/-- The fields of a section header below its marker (R348). -/
structure HeaderFields where
  num : BitVec 16
  length : BitVec 12
  kind : BitVec 2
  full : Bool
  last : Bool
  reserved : BitVec 26
  deriving DecidableEq, Repr

/-- An engine command: flags, words A and B, and the control-text offset of its CMD (R353, R355, R445). -/
structure EngineFields where
  flags : BitVec 6
  wa : BitVec 64
  wb : BitVec 64
  deriving DecidableEq, Repr

/-- Units a machine-check names, in the coding of R206. -/
inductive Unit8 where
  | core | slice | link | row | mem | hostPort | module | bridge | complex
  deriving DecidableEq, Repr

/-- The access that meets an error, if one does (R24, R206): a sequencer's, a lane word's, an engine unit's. -/
inductive ErrSite where
  | noAccess
  | access (ctx : Nat) (addr : Word)
  | lanes (ctx : Nat) (addr : Word)
  | engine (core unit : Nat) (addr : Word)
  deriving DecidableEq, Repr

/-- What a patrol read finds (R233). -/
inductive ScrubResult where
  | clean | corrected | uncorrectable
  deriving DecidableEq, Repr

/-- Kinds of a remote access (R45). -/
inductive RemoteKind where
  | load | store | amo (op : AmoOp) | cas
  deriving DecidableEq, Repr

/-- A remote request (R43, R45, R46): modules, the port it leaves on, the issuer's mark, VNPU, kind, physical address at its home, bytes; the bytes it writes
or an atomic's operand, and a CAS's compare value. -/
structure RemoteMsg where
  src : Nat
  dest : Nat
  port : Nat
  tag : Nat
  v : Nat
  kind : RemoteKind
  pa : Nat
  bytes : Nat
  data : List Byte
  compare : Word
  deriving DecidableEq, Repr

/-- What an outside event carries (log 23): the operands of the constructors of `Instr` that have none of their own. Each event's
docstring in Machine/ names the parts it reads. -/
structure EventArg where
  value : Word
  n : Nat
  m : Nat
  off : Nat
  len : Nat
  write : Bool
  flag : Bool
  flag2 : Bool
  flag3 : Bool
  unit : Unit8
  site : ErrSite
  data : List Byte
  nums : List Nat
  nums2 : List Nat
  lost : BitVec 256
  scrub : ScrubResult
  msg : RemoteMsg
  deriving DecidableEq, Repr

/-- One constructor per row of the opcode table; the constructors with operands stand first. An event without operands of its own
reads them from `EventArg`. -/
inductive Instr where
  /-- GUEST_RESET (R94). -/
  | guestReset (v : Nat)
  /-- WINDOW_START (R130). -/
  | windowStart (w : Nat)
  /-- WINDOW_END (R139). -/
  | windowEnd (w : Nat)
  /-- CLASS_A_STOP (R146). -/
  | classAStop (w : Nat)
  /-- DISPATCH_DECISION (R130). -/
  | dispatchDecision (w : Nat)
  /-- EVICTION (R141). -/
  | eviction (ctx : Nat)
  /-- RESTORE (R145). -/
  | restore (save ctx : Nat)
  /-- OVERLAY_LOAD (R123). -/
  | overlayLoad (ctx : Nat)
  /-- TEAM_RETIRE (R208). -/
  | teamRetire (ctx : Nat)
  /-- TAIL_WRITE (R101). -/
  | tailWrite (v ring : Nat) (value : Word)
  /-- RING_ENABLE (R99). -/
  | ringEnable (v ring : Nat) (value : Word)
  /-- RING_DISABLE (R99). -/
  | ringDisable (v ring : Nat) (value : Word)
  /-- LQ_CTL_EN (R107). -/
  | lqCtlEn (v q : Nat) (value : Word)
  /-- LQ_RINGS (R107). -/
  | lqRings (v q : Nat) (value : Word)
  /-- DESTROY (R124). -/
  | destroy (v q : Nat)
  /-- DESTROY_DONE (R124). -/
  | destroyDone (v q : Nat)
  /-- PACKET_TAKE (R108). -/
  | packetTake (v q : Nat)
  /-- NOP (R104). -/
  | nop (v q : Nat)
  /-- LAUNCH (R116). -/
  | launch (v q : Nat)
  /-- LAUNCH_INDIRECT (R117). -/
  | launchIndirect (v q : Nat)
  /-- PROLOGUE_RUN (R117). -/
  | prologueRun (v q : Nat)
  /-- PROLOGUE_BUDGET_EXCEEDED (R119). -/
  | prologueBudgetExceeded (die : Nat)
  /-- WAIT (R111). -/
  | wait (v q : Nat)
  /-- WAIT_POLL (R111). -/
  | waitPoll (v q : Nat)
  /-- SIGNAL (R111). -/
  | signal (v q : Nat)
  /-- PKT_FENCE (R109). -/
  | pktFence (v q : Nat)
  /-- TIMESTAMP (R111). -/
  | timestamp (v q : Nat)
  /-- COPY (R111). -/
  | copy (v q : Nat)
  /-- COPY_PACKET_COMPLETE (R110). -/
  | copyPacketComplete (v q : Nat)
  /-- LAUNCH_COMPLETE (R114). -/
  | launchComplete (id : Nat)
  /-- BUCKET_REQUEST (R153). -/
  | bucketRequest (die point v bytes ctx : Nat) (engine : Bool)
  /-- QUOTA_EXHAUSTED (R163). -/
  | quotaExhausted (v : Nat)
  /-- STATIC_CHARGE (R162). -/
  | staticCharge (core : Nat)
  /-- CHARGE_RETURN (R161). -/
  | chargeReturn (ctx team v units : Nat)
  /-- LEVEL_RAMP_STEP (R170). -/
  | levelRampStep (k : Nat)
  /-- DROOP_ALARM (R173). -/
  | droopAlarm (k : Nat)
  /-- DROOP_RESPONSE_END (R472). -/
  | droopResponseEnd (k : Nat)
  /-- BALLAST (R175). -/
  | ballast (k cycles : Nat)
  /-- SLOPE_CONFLICT_STEP (R176). -/
  | slopeConflictStep (k : Nat)
  /-- GATE (R178). -/
  | gate (k : Nat) (value : Word)
  /-- GATING_STATE_CHANGE (R178). -/
  | gatingStateChange (k : Nat)
  /-- WAKE (R178). -/
  | wake (k : Nat) (value : Word)
  /-- TI_CTL_GO (R221). -/
  | tiCtlGo (value : Word)
  /-- TD_CMT_GO (R214). -/
  | tdCmtGo (v size : Nat) (value : Word)
  /-- TABLE_WALK (R215). -/
  | tableWalk (core v : Nat) (va : Word)
  /-- NOT_PRESENT_FAULT (R223). -/
  | notPresentFault (ctx : Nat) (va : Word) (kind : Nat) (malf engine : Bool)
  /-- PF_ANS (R226). -/
  | pfAns (value : Word)
  /-- SLICE_ACCESS (R228). -/
  | sliceAccess (ctx idx : Nat)
  /-- ATOMIC_EXECUTE (R230). -/
  | atomicExecute (ctx idx : Nat)
  /-- MEMORY_REPLY (R284). -/
  | memoryReply (ctx idx : Nat)
  /-- FLIT_DELIVER (R199). -/
  | flitDeliver (ctx port : Nat)
  /-- BLOCKED_WAIT_END (R202). -/
  | blockedWaitEnd (ctx : Nat)
  /-- ACCUMULATOR_SPILL (R278). -/
  | accumulatorSpill (core set ctx : Nat)
  /-- ENGINE_COMMAND_COMPLETE (R444). -/
  | engineCommandComplete (core unit : Nat)
  /-- EPILOGUE_RELEASE (R276). -/
  | epilogueRelease (core : Nat)
  /-- COLLECTIVE_INSTANCE_MATCH (R461). -/
  | collectiveInstanceMatch (launch cid : Nat)
  /-- SECTION_HEADER (R420). -/
  | sectionHeader (h : HeaderFields)
  /-- REGISTER_WRITE (R3). -/
  | registerWrite (fn bar off : Nat) (value : Word)
  /-- ADD (R360). -/
  | add (d a b : Reg)
  /-- SUB (R360). -/
  | sub (d a b : Reg)
  /-- MUL (R360). -/
  | mul (d a b : Reg)
  /-- MULH (R360). -/
  | mulh (d a b : Reg)
  /-- MULHU (R360). -/
  | mulhu (d a b : Reg)
  /-- DIV (R361). -/
  | div (d a b : Reg)
  /-- DIVU (R361). -/
  | divu (d a b : Reg)
  /-- REM (R361). -/
  | rem (d a b : Reg)
  /-- REMU (R361). -/
  | remu (d a b : Reg)
  /-- AND (R360). -/
  | and (d a b : Reg)
  /-- OR (R360). -/
  | or (d a b : Reg)
  /-- XOR (R360). -/
  | xor (d a b : Reg)
  /-- ANDN (R360). -/
  | andn (d a b : Reg)
  /-- ORN (R360). -/
  | orn (d a b : Reg)
  /-- SLL (R360). -/
  | sll (d a b : Reg)
  /-- SRL (R360). -/
  | srl (d a b : Reg)
  /-- SRA (R360). -/
  | sra (d a b : Reg)
  /-- ROR (R360). -/
  | ror (d a b : Reg)
  /-- MIN (R360). -/
  | min (d a b : Reg)
  /-- MAX (R360). -/
  | max (d a b : Reg)
  /-- MINU (R360). -/
  | minu (d a b : Reg)
  /-- MAXU (R360). -/
  | maxu (d a b : Reg)
  /-- SLT (R360). -/
  | slt (d a b : Reg)
  /-- SLTU (R360). -/
  | sltu (d a b : Reg)
  /-- SEQ (R360). -/
  | seq (d a b : Reg)
  /-- SEL (R360). -/
  | sel (d a b : Reg)
  /-- SHADD (R360). -/
  | shadd (d a b : Reg) (sh : BitVec 2)
  /-- CLZ (R362). -/
  | clz (d a : Reg)
  /-- CTZ (R362). -/
  | ctz (d a : Reg)
  /-- POPC (R362). -/
  | popc (d a : Reg)
  /-- BREV (R362). -/
  | brev (d a : Reg)
  /-- BSWAP (R362). -/
  | bswap (d a : Reg)
  /-- SEXT (R362). -/
  | sext (d a b : Reg)
  /-- ZEXT (R362). -/
  | zext (d a b : Reg)
  /-- EXTR (R363). -/
  | extr (d a : Reg) (pos : BitVec 6) (wid : BitVec 6)
  /-- INSR (R363). -/
  | insr (d a : Reg) (pos : BitVec 6) (wid : BitVec 6)
  /-- ADDI (R364). -/
  | addi (d a : Reg) (imm : BitVec 14)
  /-- ANDI (R364). -/
  | andi (d a : Reg) (imm : BitVec 14)
  /-- ORI (R364). -/
  | ori (d a : Reg) (imm : BitVec 14)
  /-- XORI (R364). -/
  | xori (d a : Reg) (imm : BitVec 14)
  /-- SLTI (R364). -/
  | slti (d a : Reg) (imm : BitVec 14)
  /-- SLTIU (R364). -/
  | sltiu (d a : Reg) (imm : BitVec 14)
  /-- SLLI (R364). -/
  | slli (d a : Reg) (sh : BitVec 6)
  /-- SRLI (R364). -/
  | srli (d a : Reg) (sh : BitVec 6)
  /-- SRAI (R364). -/
  | srai (d a : Reg) (sh : BitVec 6)
  /-- LUI (R365). -/
  | lui (d : Reg) (imm : BitVec 20)
  /-- PCADD (R365). -/
  | pcadd (d : Reg) (imm : BitVec 20)
  /-- BEQ (R366). -/
  | beq (a b : Reg) (off : BitVec 14)
  /-- BNE (R366). -/
  | bne (a b : Reg) (off : BitVec 14)
  /-- BLT (R366). -/
  | blt (a b : Reg) (off : BitVec 14)
  /-- BGE (R366). -/
  | bge (a b : Reg) (off : BitVec 14)
  /-- BLTU (R366). -/
  | bltu (a b : Reg) (off : BitVec 14)
  /-- BGEU (R366). -/
  | bgeu (a b : Reg) (off : BitVec 14)
  /-- J (R367). -/
  | j (off : BitVec 26)
  /-- JAL (R367). -/
  | jal (off : BitVec 26)
  /-- JR (R368). -/
  | jr (d a : Reg) (imm : BitVec 14)
  /-- JTAB (R370). -/
  | jtab (d a : Reg) (len : BitVec 13)
  /-- LOOP (R372). -/
  | loop (a : Reg) (off : BitVec 14)
  /-- SWP (R169). -/
  | swp (imm : BitVec 20)
  /-- LD (R380). -/
  | ld (d base : Reg) (size : MemSize) (off : BitVec 12)
  /-- ST (R380). -/
  | st (src base : Reg) (size : MemSize) (off : BitVec 12)
  /-- LDSP (R381). -/
  | ldsp (d base : Reg) (size : MemSize) (off : BitVec 12)
  /-- STSP (R381). -/
  | stsp (src base : Reg) (size : MemSize) (off : BitVec 12)
  /-- PREF (R382). -/
  | pref (base : Reg) (off : BitVec 12)
  /-- IPREF (R384). -/
  | ipref (d a : Reg) (level : BitVec 1)
  /-- IPIN (R384). -/
  | ipin (d a : Reg) (level : BitVec 1)
  /-- IUNPIN (R384). -/
  | iunpin (d a : Reg) (level : BitVec 1)
  /-- AMO (R387). -/
  | amo (d a b : Reg) (op : AmoOp) (wide : Bool) (ord : MemOrd)
  /-- CAS (R388). -/
  | cas (d a b : Reg) (wide : Bool) (ord : MemOrd)
  /-- LDACQ (R390). -/
  | ldacq (d a : Reg) (size : MemSize) (ord : MemOrd)
  /-- STREL (R390). -/
  | strel (a b : Reg) (size : MemSize) (ord : MemOrd)
  /-- FENCE (R391). -/
  | fence (ord : MemOrd)
  /-- TMASK (R392). -/
  | tmask (a : Reg)
  /-- TTRIP (R392). -/
  | ttrip (a : Reg)
  /-- TOUT (R392). -/
  | tout (a : Reg)
  /-- TDATA (R392). -/
  | tdata (a : Reg)
  /-- LWAIT (R393). -/
  | lwait (a : Reg)
  /-- CMD (R395). -/
  | cmd (eng : BitVec 2) (a b : Reg) (op : BitVec 6) (flags : BitVec 6)
  /-- KWAIT (R396). -/
  | kwait (k : BitVec 4) (b : Reg)
  /-- KSIG (R396). -/
  | ksig (k : BitVec 4) (b : Reg)
  /-- KRD (R396). -/
  | krd (d : Reg) (k : BitVec 4)
  /-- OWNX (R397). -/
  | ownx (a b : Reg)
  /-- OWNW (R397). -/
  | ownw (a b : Reg)
  /-- TAGWA (R396). -/
  | tagwa (a : Reg)
  /-- TAGWL (R396). -/
  | tagwl (a : Reg)
  /-- TAGFF (R396). -/
  | tagff (d a : Reg)
  /-- TAGCLR (R396). -/
  | tagclr (a : Reg)
  /-- PHASE (R200). -/
  | phase (glb : Bool)
  /-- GETS (R400). -/
  | gets (d : Reg) (imm : BitVec 14)
  /-- SETS (R400). -/
  | sets (a : Reg) (imm : BitVec 14)
  /-- TRAP (R401). -/
  | trap (imm : BitVec 20)
  /-- TSTAMP (R406). -/
  | tstamp (d : Reg)
  /-- TLBINV (R408). -/
  | tlbinv (a b : Reg)
  /-- TLBLK (R409). -/
  | tlblk (a b : Reg)
  /-- LDOVT (R407). -/
  | ldovt (a : Reg)
  /-- VADD (R423). -/
  | vadd (f : LaneFields)
  /-- VSUB (R423). -/
  | vsub (f : LaneFields)
  /-- VMUL (R423). -/
  | vmul (f : LaneFields)
  /-- VMULH (R423). -/
  | vmulh (f : LaneFields)
  /-- VMAD (R423). -/
  | vmad (f : LaneFields)
  /-- VAND (R423). -/
  | vand (f : LaneFields)
  /-- VOR (R423). -/
  | vor (f : LaneFields)
  /-- VXOR (R423). -/
  | vxor (f : LaneFields)
  /-- VSHL (R423). -/
  | vshl (f : LaneFields)
  /-- VSHR (R423). -/
  | vshr (f : LaneFields)
  /-- VSRA (R423). -/
  | vsra (f : LaneFields)
  /-- VMIN (R423). -/
  | vmin (f : LaneFields)
  /-- VMAX (R423). -/
  | vmax (f : LaneFields)
  /-- VABS (R423). -/
  | vabs (f : LaneFields)
  /-- VCLZ (R423). -/
  | vclz (f : LaneFields)
  /-- VPOPC (R423). -/
  | vpopc (f : LaneFields)
  /-- VCMP (R424). -/
  | vcmp (f : LaneFields)
  /-- VSEL (R424). -/
  | vsel (f : LaneFields)
  /-- VMOV (R424). -/
  | vmov (f : LaneFields)
  /-- VIMM (R424). -/
  | vimm (f : LaneFields)
  /-- VLID (R424). -/
  | vlid (f : LaneFields)
  /-- VTOK (R424). -/
  | vtok (f : LaneFields)
  /-- FADD (R425). -/
  | fadd (f : LaneFields)
  /-- FSUB (R425). -/
  | fsub (f : LaneFields)
  /-- FMUL (R425). -/
  | fmul (f : LaneFields)
  /-- FDIV (R425). -/
  | fdiv (f : LaneFields)
  /-- FFMA (R425). -/
  | ffma (f : LaneFields)
  /-- FSQRT (R425). -/
  | fsqrt (f : LaneFields)
  /-- FMIN (R425). -/
  | fmin (f : LaneFields)
  /-- FMAX (R425). -/
  | fmax (f : LaneFields)
  /-- FSGN (R425). -/
  | fsgn (f : LaneFields)
  /-- FCMP (R425). -/
  | fcmp (f : LaneFields)
  /-- FSPEC (R426). -/
  | fspec (f : LaneFields)
  /-- FDOT2 (R427). -/
  | fdot2 (f : LaneFields)
  /-- FCLASS (R427). -/
  | fclass (f : LaneFields)
  /-- VCVT (R428). -/
  | vcvt (f : LaneFields)
  /-- VRND (R428). -/
  | vrnd (f : LaneFields)
  /-- VQNT (R254). -/
  | vqnt (f : LaneFields)
  /-- VDQNT (R429). -/
  | vdqnt (f : LaneFields)
  /-- VBSCALE (R430). -/
  | vbscale (f : LaneFields)
  /-- VBPACK (R431). -/
  | vbpack (f : LaneFields)
  /-- VBUNPK (R432). -/
  | vbunpk (f : LaneFields)
  /-- VPERM (R433). -/
  | vperm (f : LaneFields)
  /-- VROT (R433). -/
  | vrot (f : LaneFields)
  /-- VSHUF (R433). -/
  | vshuf (f : LaneFields)
  /-- VBCAST (R433). -/
  | vbcast (f : LaneFields)
  /-- VRED (R434). -/
  | vred (f : LaneFields)
  /-- VSCAN (R434). -/
  | vscan (f : LaneFields)
  /-- VIDXR (R435). -/
  | vidxr (f : LaneFields)
  /-- VIDXW (R435). -/
  | vidxw (f : LaneFields)
  /-- VLD (R437). -/
  | vld (f : LaneFields)
  /-- VLDBC (R437). -/
  | vldbc (f : LaneFields)
  /-- VST (R437). -/
  | vst (f : LaneFields)
  /-- VSTP (R437). -/
  | vstp (f : LaneFields)
  /-- VLDG (R438). -/
  | vldg (f : LaneFields)
  /-- VSTX (R438). -/
  | vstx (f : LaneFields)
  /-- MPUSH (R440). -/
  | mpush (f : LaneFields)
  /-- MPUSHQ (R440). -/
  | mpushq (f : LaneFields)
  /-- MINV (R440). -/
  | minv (f : LaneFields)
  /-- MPOP (R440). -/
  | mpop (f : LaneFields)
  /-- MTOQ (R440). -/
  | mtoq (f : LaneFields)
  /-- MCLR (R440). -/
  | mclr (f : LaneFields)
  /-- VNOP (R441). -/
  | vnop (f : LaneFields)
  /-- VSEED (R441). -/
  | vseed (f : LaneFields)
  /-- VSTAT (R441). -/
  | vstat (f : LaneFields)
  /-- MWL (R448). -/
  | mwl (c : EngineFields)
  /-- MWA (R448). -/
  | mwa (c : EngineFields)
  /-- MST (R449). -/
  | mst (c : EngineFields)
  /-- MEP (R450). -/
  | mep (c : EngineFields)
  /-- MACL (R451). -/
  | macl (c : EngineFields)
  /-- MASV (R451). -/
  | masv (c : EngineFields)
  /-- MARS (R451). -/
  | mars (c : EngineFields)
  /-- CPL (R454). -/
  | cpl (c : EngineFields)
  /-- CPW (R454). -/
  | cpw (c : EngineFields)
  /-- CPG (R457). -/
  | cpg (c : EngineFields)
  /-- CPX (R458). -/
  | cpx (c : EngineFields)
  /-- CPF (R454). -/
  | cpf (c : EngineFields)
  /-- CPR (R458). -/
  | cpr (c : EngineFields)
  /-- CPH (R457). -/
  | cph (c : EngineFields)
  /-- CLRS (R462). -/
  | clrs (c : EngineFields)
  /-- CLAG (R462). -/
  | clag (c : EngineFields)
  /-- CLAR (R462). -/
  | clar (c : EngineFields)
  /-- CLBC (R462). -/
  | clbc (c : EngineFields)
  /-- ILLEGAL_INSTRUCTION (R340). -/
  | illegalInstruction (w : BitVec 32)
  /-- ILLEGAL_LANE_WORD (R347). -/
  | illegalLaneWord (w : BitVec 96)
  /-- UNASSIGNED_ENGINE_COMMAND (R356). -/
  | unassignedEngineCommand (eng : BitVec 2) (op : BitVec 6) (c : EngineFields)
  /-- GUEST_RESET_DONE (R94). -/
  | guestResetDone (v : Nat)
  /-- POWER_ON_RESET (R18). -/
  | powerOnReset
  /-- FUNDAMENTAL_RESET (R18). -/
  | fundamentalReset
  /-- MGMT_RESET (R19). -/
  | mgmtReset
  /-- BOOT_SEQUENCE (R62). -/
  | bootSequence
  /-- CHARD_BOOT_TIMEOUT (R76). -/
  | chardBootTimeout
  /-- STAGE (R67). -/
  | stage
  /-- ACTIVATE (R70). -/
  | activate
  /-- COMMIT (R69). -/
  | commit
  /-- SELECT (R67). -/
  | select
  /-- STATUS (R67). -/
  | status
  /-- LIVE_UPDATE_TAKEOVER (R70). -/
  | liveUpdateTakeover
  /-- LIVE_UPDATE_TIMEOUT (R71). -/
  | liveUpdateTimeout
  /-- COMPLEX_LASTING_ERROR (R75). -/
  | complexLastingError
  /-- SPDM_GET_VERSION (R78). -/
  | spdmGetVersion
  /-- SPDM_GET_CAPABILITIES (R78). -/
  | spdmGetCapabilities
  /-- SPDM_NEGOTIATE_ALGORITHMS (R78). -/
  | spdmNegotiateAlgorithms
  /-- SPDM_GET_DIGESTS (R78). -/
  | spdmGetDigests
  /-- SPDM_GET_CERTIFICATE (R78). -/
  | spdmGetCertificate
  /-- SPDM_CHALLENGE (R79). -/
  | spdmChallenge
  /-- SPDM_GET_MEASUREMENTS (R79). -/
  | spdmGetMeasurements
  /-- SPDM_UNSUPPORTED_REQUEST (R78). -/
  | spdmUnsupportedRequest
  /-- THERMAL_SAMPLE (R20). -/
  | thermalSample
  /-- LASTING_ERROR (R22). -/
  | lastingError
  /-- TRANSIENT_THRESHOLD (R23). -/
  | transientThreshold
  /-- CORE_RETIREMENT (R25). -/
  | coreRetirement
  /-- SLICE_RETIREMENT (R25). -/
  | sliceRetirement
  /-- FRAME_REMAP (R234). -/
  | frameRemap
  /-- PATROL_SCRUB (R233). -/
  | patrolScrub
  /-- BAR4_ACCESS (R19). -/
  | bar4Access
  /-- HOST_COMPLETION_TIMEOUT (R33). -/
  | hostCompletionTimeout
  /-- UCIE_MODULE_FAILURE (R37). -/
  | ucieModuleFailure
  /-- MODCFG (R42). -/
  | modcfg
  /-- FLIT_RECEIVE (R39). -/
  | flitReceive
  /-- FLIT_TRANSMIT (R41). -/
  | flitTransmit
  /-- NAK_REPLAY (R40). -/
  | nakReplay
  /-- LINK_RETRAIN (R40). -/
  | linkRetrain
  /-- REMOTE_REQUEST (R46). -/
  | remoteRequest
  /-- REMOTE_RESPONSE (R45). -/
  | remoteResponse
  /-- MIGREQ (R48). -/
  | migreq
  /-- MIGRATION_POLICY_PROPOSAL (R48). -/
  | migrationPolicyProposal
  /-- PAGE_MIGRATION_DONE (R48). -/
  | pageMigrationDone
  /-- CT_CTL_GO (R88). -/
  | ctCtlGo
  /-- CONTRACT_VALIDATED (R89). -/
  | contractValidated
  /-- FT_CTL_GO (R128). -/
  | ftCtlGo
  /-- FRAME_TABLE_VALIDATED (R128). -/
  | frameTableValidated
  /-- FRAME_BOUNDARY (R91). -/
  | frameBoundary
  /-- REGULATOR_TICK (R153). -/
  | regulatorTick
  /-- POWER_GRANT (R166). -/
  | powerGrant
  /-- VL_STEP (R273). -/
  | vlStep
  /-- TLB_INVALIDATION_DONE (R221). -/
  | tlbInvalidationDone
  /-- FAULT_RECORD_POST (R224). -/
  | faultRecordPost
  /-- LEXIT (R374). -/
  | lexit
  /-- HCALL_END (R208). -/
  | hcallEnd
  /-- HCALL_QUOTA (R403). -/
  | hcallQuota
  /-- HCALL_LEVEL (R403). -/
  | hcallLevel
  /-- ERET (R404). -/
  | eret
  /-- WFE (R405). -/
  | wfe
  /-- BRK (R402). -/
  | brk
  /-- HALT (R407). -/
  | halt
  /-- MALFORMED_MAILBOX_COMMAND (R68). -/
  | malformedMailboxCommand
  /-- MAILBOX_ANSWER (R67). -/
  | mailboxAnswer
  /-- LINK_TRAINING_COMPLETE (R44). -/
  | linkTrainingComplete
  deriving DecidableEq, Repr

end Sys2Proof
end

