-- ==== Sys2Proof/Machine/Forms.lean ====
section
/-!
DEFINITION. Which encodings are assigned: ordering codes (R337), and the fields, formats and bounds each lane word accepts
(R343 to R347, R417, R423 to R441).
-/
namespace Sys2Proof.Machine

/-- R337: the 4-bit ordering code of an order and scope. -/
def ordCode : MemOrd → BitVec 4
  | .plain => 0
  | .acq .core => 1 | .acq .device => 2 | .acq .system => 3
  | .rel .core => 4 | .rel .device => 5 | .rel .system => 6
  | .acqRel .core => 7 | .acqRel .device => 8 | .acqRel .system => 9
  | .seq .core => 10 | .seq .device => 11 | .seq .system => 12

/-- R337: codes 13 to 15 are unassigned. -/
def ordOfCode (c : BitVec 4) : Option MemOrd :=
  match c.toNat with
  | 0 => some .plain
  | 1 => some (.acq .core) | 2 => some (.acq .device) | 3 => some (.acq .system)
  | 4 => some (.rel .core) | 5 => some (.rel .device) | 6 => some (.rel .system)
  | 7 => some (.acqRel .core) | 8 => some (.acqRel .device) | 9 => some (.acqRel .system)
  | 10 => some (.seq .core) | 11 => some (.seq .device) | 12 => some (.seq .system)
  | _ => none

def sizeCode : MemSize → BitVec 2
  | .b => 0 | .h => 1 | .w => 2 | .d => 3

def sizeOfCode (c : BitVec 2) : MemSize :=
  match c.toNat with
  | 0 => .b | 1 => .h | 2 => .w | _ => .d

def sizeBytes : MemSize → Nat
  | .b => 1 | .h => 2 | .w => 4 | .d => 8

def amoCode : AmoOp → BitVec 3
  | .add => 0 | .and => 1 | .or => 2 | .xor => 3 | .min => 4 | .max => 5 | .swap => 6 | .fadd => 7

def amoOfCode (c : BitVec 3) : AmoOp :=
  match c.toNat with
  | 0 => .add | 1 => .and | 2 => .or | 3 => .xor | 4 => .min | 5 => .max | 6 => .swap | _ => .fadd

/-- R283: the orders LDACQ, STREL and FENCE allow. -/
def ldacqOrd : MemOrd → Bool
  | .acq _ => true | .seq _ => true | _ => false
def strelOrd : MemOrd → Bool
  | .rel _ => true | .seq _ => true | _ => false
def fenceOrd : MemOrd → Bool
  | .plain => false | _ => true

/-! ## Lane word forms -/

/-- What a register field of a lane word names; a field a word does not use must be 0. -/
inductive FieldUse where
  | unused | v | q
  deriving DecidableEq, Repr

/-- What the immediate may hold. -/
inductive ImmUse where
  | zero
  | any
  | upTo (n : Nat)
  | load
  | store
  | reduce
  deriving DecidableEq, Repr

/-- The formats accepted: none (fmt 0x00), one format in both halves, a pair (destination, source). -/
inductive FmtUse where
  | unused
  | one (allowed : List Nat)
  | two (dst src : List Nat)
  deriving DecidableEq, Repr

/-- The preds accepted: 0 to 8; 0 alone (R440); 0 to 8 or 15 (R344). -/
inductive PredUse where
  | masked | topOnly | withNone
  deriving DecidableEq, Repr

structure LaneForm where
  d : FieldUse := .unused
  a : FieldUse := .unused
  b : FieldUse := .unused
  c : FieldUse := .unused
  id : Bool := false
  ia : Bool := false
  ib : Bool := false
  sat : Bool := false
  rnd : Bool := false
  imm : ImmUse := .zero
  fmt : FmtUse := .unused
  pred : PredUse := .masked
  flush : Nat
  full : Nat
  deriving DecidableEq, Repr

def fdab (flush full : Nat) : LaneForm :=
  { d := .v, a := .v, b := .v, id := true, ia := true, ib := true, flush, full }
def fda (flush full : Nat) : LaneForm :=
  { d := .v, a := .v, id := true, ia := true, flush, full }

def i32Only : FmtUse := .one [6]
def floats3 : FmtUse := .one [0, 1, 2]

/-- R345, R417, R423 to R441: the form and the minimum bounds of each assigned lane op. -/
def laneForm (op : Nat) : Option LaneForm :=
  match op with
  | 0x01 | 0x02 => some { fdab 1 1 with fmt := i32Only, sat := true }
  | 0x03 => some { fdab 3 3 with fmt := i32Only, sat := true }
  | 0x04 => some { fdab 3 3 with fmt := i32Only }
  | 0x05 => some { fdab 3 3 with c := .v, fmt := i32Only, sat := true }
  | 0x06 | 0x07 | 0x08 | 0x09 | 0x0A | 0x0B | 0x0C | 0x0D => some { fdab 1 1 with fmt := i32Only }
  | 0x0E | 0x0F | 0x10 => some { fda 1 1 with fmt := i32Only }
  | 0x18 => some { d := .q, a := .v, b := .v, ia := true, ib := true, imm := .upTo 7, fmt := i32Only, flush := 1, full := 1 }
  | 0x19 => some { fdab 1 1 with c := .q }
  | 0x1A => some (fda 1 1)
  | 0x1B => some { d := .v, id := true, imm := .any, flush := 1, full := 1 }
  | 0x1C => some { d := .v, id := true, flush := 1, full := 1 }
  | 0x1D => some { d := .v, id := true, imm := .upTo 1, flush := 1, full := 1 }
  | 0x20 | 0x21 | 0x22 => some { fdab 3 4 with fmt := floats3, rnd := true }
  | 0x23 => some { fdab 4 5 with c := .v, fmt := floats3, rnd := true }
  | 0x24 | 0x25 => some { fdab 3 4 with fmt := floats3 }
  | 0x26 => some { fdab 3 4 with fmt := floats3, imm := .upTo 2 }
  | 0x27 => some { d := .q, a := .v, b := .v, ia := true, ib := true, imm := .upTo 7, fmt := floats3, flush := 3, full := 4 }
  | 0x28 => some { fdab 12 14 with fmt := floats3, rnd := true }
  | 0x29 => some { fda 12 14 with fmt := floats3, rnd := true }
  | 0x2A => some { fda 8 10 with fmt := floats3, imm := .upTo 7 }
  | 0x2B => some { fdab 4 5 with c := .v, fmt := .two [0] [1, 2], rnd := true }
  | 0x2C => some { fda 3 4 with fmt := .one [0, 1, 2, 3, 4] }
  | 0x30 => some { fda 3 4 with fmt := .two [0, 1, 2, 3, 4, 5, 6] [0, 1, 2, 3, 4, 5, 6], rnd := true, sat := true }
  | 0x31 => some { fdab 12 12 with fmt := .one [0, 1, 2, 3, 4, 5, 6], rnd := true }
  | 0x32 => some { fdab 3 4 with fmt := .one [0, 1, 2, 3, 4, 5, 6] }
  | 0x33 => some { fda 8 8 with fmt := .one [7, 8] }
  | 0x34 => some { fdab 4 4 with c := .v, fmt := .one [7, 8], rnd := true }
  | 0x35 => some { fdab 4 4 with fmt := .one [7, 8] }
  | 0x36 => some { fda 3 4 with fmt := floats3, rnd := true }
  | 0x40 => some (fdab 4 4)
  | 0x41 | 0x42 | 0x43 => some { fda 4 4 with imm := .upTo 63 }
  | 0x44 | 0x45 => some { fda 8 8 with fmt := .one [0, 6], imm := .reduce }
  | 0x46 | 0x47 => some (fdab 4 4)
  | 0x50 | 0x54 => some { fda 5 5 with imm := .load }
  | 0x51 | 0x55 => some { a := .v, b := .v, ia := true, ib := true, imm := .store, flush := 5, full := 5 }
  | 0x52 => some (fda 5 5)
  | 0x53 => some { a := .v, b := .v, ia := true, ib := true, flush := 5, full := 5 }
  | 0x60 | 0x62 | 0x63 | 0x65 => some { pred := .topOnly, flush := 1, full := 1 }
  | 0x61 => some { a := .q, pred := .topOnly, flush := 1, full := 1 }
  | 0x64 => some { d := .q, pred := .topOnly, flush := 1, full := 1 }
  | 0x70 => some { pred := .withNone, flush := 1, full := 1 }
  | 0x71 => some { a := .v, ia := true, pred := .withNone, flush := 1, full := 1 }
  | 0x72 => some { d := .v, id := true, imm := .upTo 2, flush := 1, full := 1 }
  | _ => none

def fieldOk (u : FieldUse) (r : BitVec 8) : Bool :=
  match u with
  | .unused => r == 0
  | .v => true
  | .q => r.toNat < 8

def immOk (u : ImmUse) (f1 : BitVec 4) (i : BitVec 32) : Bool :=
  match u with
  | .zero => i == 0
  | .any => true
  | .upTo n => i.toNat ≤ n
  | .load =>
    let w := (i.extractLsb' 20 2).toNat
    i.extractLsb' 23 9 == 0 && w != 3 && (!i.getLsbD 22 || w != 0)
  | .store => i.extractLsb' 22 10 == 0 && i.extractLsb' 20 2 != 3
  | .reduce => i.toNat ≤ (if f1 == 6 then 5 else 2)

def fmtOk (u : FmtUse) (f1 f2 : BitVec 4) : Bool :=
  match u with
  | .unused => f1 == 0 && f2 == 0
  | .one l => f1 == f2 && l.contains f1.toNat
  | .two d s => d.contains f1.toNat && s.contains f2.toNat

def predOk (u : PredUse) (p : BitVec 4) : Bool :=
  match u with
  | .masked => p.toNat ≤ 8
  | .topOnly => p == 0
  | .withNone => p.toNat ≤ 8 || p == 15

/-- R347 but for its last item: the word's fields are all as its form allows. -/
def laneFieldsOk (m : LaneForm) (f : LaneFields) : Bool :=
  fieldOk m.d f.d && fieldOk m.a f.a && fieldOk m.b f.b && fieldOk m.c f.c
  && (m.id || !f.id) && (m.ia || !f.ia) && (m.ib || !f.ib) && (m.sat || !f.sat)
  && (if m.rnd then decide (f.rnd.toNat ≤ 5) else f.rnd == 0)
  && immOk m.imm f.f1 f.imm && fmtOk m.fmt f.f1 f.f2 && predOk m.pred f.pred

def laneLegal (op : Nat) (f : LaneFields) : Bool :=
  match laneForm op with
  | none => false
  | some m => laneFieldsOk m f

/-- R417: the minimum bound in the section's mode; VRED and VSCAN on f32 take 12. -/
def laneMinBound (op : Nat) (full : Bool) (f : LaneFields) : Nat :=
  match laneForm op with
  | none => 0
  | some m =>
    if (op == 0x44 || op == 0x45) && f.f1 == 0 then 12
    else if full then m.full else m.flush

/-- R236: the element width of a format, in bits. -/
def fmtWidth (f : Nat) : Nat :=
  match f with
  | 0 | 6 => 32
  | 1 | 2 => 16
  | 8 => 4
  | _ => 8

end Sys2Proof.Machine
end

