-- ==== Sys2Proof/WellFormed.lean ====
section
/-!
DEFINITION. Which instructions are well formed: control words whose fields R337 and R339 allow, lane words whose fields their
forms allow (R347; the bound is checked at issue, in the section's mode), and events whose operands name units the module has (R13).
-/
namespace Sys2Proof

/-- Well-formedness of an instruction, decidable. -/
def Instr.wf : Instr → Bool
  | .powerOnReset => true
  | .fundamentalReset => true
  | .mgmtReset => true
  | .guestReset v => decide (1 ≤ v ∧ v ≤ 16)
  | .bootSequence => true
  | .chardBootTimeout => true
  | .stage => true
  | .activate => true
  | .commit => true
  | .select => true
  | .status => true
  | .liveUpdateTakeover => true
  | .liveUpdateTimeout => true
  | .complexLastingError => true
  | .spdmGetVersion => true
  | .spdmGetCapabilities => true
  | .spdmNegotiateAlgorithms => true
  | .spdmGetDigests => true
  | .spdmGetCertificate => true
  | .spdmChallenge => true
  | .spdmGetMeasurements => true
  | .spdmUnsupportedRequest => true
  | .thermalSample => true
  | .lastingError => true
  | .transientThreshold => true
  | .coreRetirement => true
  | .sliceRetirement => true
  | .frameRemap => true
  | .patrolScrub => true
  | .bar4Access => true
  | .hostCompletionTimeout => true
  | .ucieModuleFailure => true
  | .modcfg => true
  | .flitReceive => true
  | .flitTransmit => true
  | .nakReplay => true
  | .linkRetrain => true
  | .remoteRequest => true
  | .remoteResponse => true
  | .migreq => true
  | .migrationPolicyProposal => true
  | .pageMigrationDone => true
  | .ctCtlGo => true
  | .contractValidated => true
  | .ftCtlGo => true
  | .frameTableValidated => true
  | .frameBoundary => true
  | .windowStart w => decide (w < 32)
  | .windowEnd w => decide (w < 32)
  | .classAStop w => decide (w < 32)
  | .dispatchDecision w => decide (w < 32)
  | .eviction ctx => decide (ctx < 192)
  | .restore _ ctx => decide (ctx < 192)
  | .overlayLoad ctx => decide (ctx < 192)
  | .teamRetire ctx => decide (ctx < 192)
  | .tailWrite v ring _ => decide (v ≤ 16 ∧ ring < 64)
  | .ringEnable v ring _ => decide (v ≤ 16 ∧ ring < 64)
  | .ringDisable v ring _ => decide (v ≤ 16 ∧ ring < 64)
  | .lqCtlEn v q _ => decide (v ≤ 16 ∧ q < 16)
  | .lqRings v q _ => decide (v ≤ 16 ∧ q < 16)
  | .destroy v q => decide (v ≤ 16 ∧ q < 16)
  | .destroyDone v q => decide (v ≤ 16 ∧ q < 16)
  | .packetTake v q => decide (v ≤ 16 ∧ q < 16)
  | .nop v q => decide (v ≤ 16 ∧ q < 16)
  | .launch v q => decide (v ≤ 16 ∧ q < 16)
  | .launchIndirect v q => decide (v ≤ 16 ∧ q < 16)
  | .prologueRun v q => decide (v ≤ 16 ∧ q < 16)
  | .prologueBudgetExceeded die => decide (die < 2)
  | .wait v q => decide (v ≤ 16 ∧ q < 16)
  | .waitPoll v q => decide (v ≤ 16 ∧ q < 16)
  | .signal v q => decide (v ≤ 16 ∧ q < 16)
  | .pktFence v q => decide (v ≤ 16 ∧ q < 16)
  | .timestamp v q => decide (v ≤ 16 ∧ q < 16)
  | .copy v q => decide (v ≤ 16 ∧ q < 16)
  | .copyPacketComplete v q => decide (v ≤ 16 ∧ q < 16)
  | .launchComplete _ => true
  | .regulatorTick => true
  | .bucketRequest die point v _ ctx _ => decide (die < 2 ∧ point < 80 ∧ v ≤ 16 ∧ ctx < 202)
  | .quotaExhausted v => decide (1 ≤ v ∧ v ≤ 16)
  | .staticCharge core => decide (core < 96)
  | .chargeReturn ctx _ v _ => decide (ctx < 192 ∧ v ≤ 16)
  | .powerGrant => true
  | .vlStep => true
  | .levelRampStep k => decide (k < 12)
  | .droopAlarm k => decide (k < 12)
  | .droopResponseEnd k => decide (k < 12)
  | .ballast k _ => decide (k < 12)
  | .slopeConflictStep k => decide (k < 12)
  | .gate k _ => decide (k < 12)
  | .gatingStateChange k => decide (k < 12)
  | .wake k _ => decide (k < 12)
  | .tiCtlGo _ => true
  | .tlbInvalidationDone => true
  | .tdCmtGo v size _ => decide (v ≤ 16 ∧ size < 3)
  | .tableWalk core v _ => decide (core < 96 ∧ v ≤ 16)
  | .notPresentFault ctx _ kind _ _ => decide (ctx < 192 ∧ kind < 4)
  | .faultRecordPost => true
  | .pfAns _ => true
  | .sliceAccess ctx _ => decide (ctx < 192)
  | .atomicExecute ctx _ => decide (ctx < 192)
  | .memoryReply ctx _ => decide (ctx < 192)
  | .flitDeliver ctx port => decide (ctx < 192 ∧ port < 4)
  | .blockedWaitEnd ctx => decide (ctx < 192)
  | .accumulatorSpill core set ctx => decide (core < 96 ∧ set < 4 ∧ ctx < 192)
  | .engineCommandComplete core unit => decide (core < 96 ∧ unit < 6)
  | .epilogueRelease core => decide (core < 96)
  | .collectiveInstanceMatch _ _ => true
  | .sectionHeader _ => true
  | .registerWrite fn bar _ _ => decide (fn ≤ 16 ∧ (bar = 0 ∨ bar = 2 ∨ bar = 7))
  | .add _ _ _ => true
  | .sub _ _ _ => true
  | .mul _ _ _ => true
  | .mulh _ _ _ => true
  | .mulhu _ _ _ => true
  | .div _ _ _ => true
  | .divu _ _ _ => true
  | .rem _ _ _ => true
  | .remu _ _ _ => true
  | .and _ _ _ => true
  | .or _ _ _ => true
  | .xor _ _ _ => true
  | .andn _ _ _ => true
  | .orn _ _ _ => true
  | .sll _ _ _ => true
  | .srl _ _ _ => true
  | .sra _ _ _ => true
  | .ror _ _ _ => true
  | .min _ _ _ => true
  | .max _ _ _ => true
  | .minu _ _ _ => true
  | .maxu _ _ _ => true
  | .slt _ _ _ => true
  | .sltu _ _ _ => true
  | .seq _ _ _ => true
  | .sel _ _ _ => true
  | .shadd _ _ _ _ => true
  | .clz _ _ => true
  | .ctz _ _ => true
  | .popc _ _ => true
  | .brev _ _ => true
  | .bswap _ _ => true
  | .sext _ _ _ => true
  | .zext _ _ _ => true
  | .extr _ _ pos wid => decide (pos.toNat + wid.toNat + 1 ≤ 64)
  | .insr _ _ pos wid => decide (pos.toNat + wid.toNat + 1 ≤ 64)
  | .addi _ _ _ => true
  | .andi _ _ _ => true
  | .ori _ _ _ => true
  | .xori _ _ _ => true
  | .slti _ _ _ => true
  | .sltiu _ _ _ => true
  | .slli _ _ _ => true
  | .srli _ _ _ => true
  | .srai _ _ _ => true
  | .lui _ _ => true
  | .pcadd _ _ => true
  | .beq _ _ _ => true
  | .bne _ _ _ => true
  | .blt _ _ _ => true
  | .bge _ _ _ => true
  | .bltu _ _ _ => true
  | .bgeu _ _ _ => true
  | .j _ => true
  | .jal _ => true
  | .jr _ _ _ => true
  | .jtab _ _ _ => true
  | .loop _ off => decide (1 ≤ off.toNat ∧ off.toNat ≤ 8191)
  | .lexit => true
  | .swp _ => true
  | .ld _ _ _ _ => true
  | .st _ _ _ _ => true
  | .ldsp _ _ _ _ => true
  | .stsp _ _ _ _ => true
  | .pref _ _ => true
  | .ipref _ _ _ => true
  | .ipin _ _ _ => true
  | .iunpin _ _ _ => true
  | .amo _ _ _ op wide _ => !(op == .fadd && wide)
  | .cas _ _ _ _ _ => true
  | .ldacq _ _ _ ord => Machine.ldacqOrd ord
  | .strel _ _ _ ord => Machine.strelOrd ord
  | .fence ord => Machine.fenceOrd ord
  | .tmask _ => true
  | .ttrip _ => true
  | .tout _ => true
  | .tdata _ => true
  | .lwait _ => true
  | .cmd _ _ _ _ _ => true
  | .kwait _ _ => true
  | .ksig _ _ => true
  | .krd _ _ => true
  | .ownx _ _ => true
  | .ownw _ _ => true
  | .tagwa _ => true
  | .tagwl _ => true
  | .tagff _ _ => true
  | .tagclr _ => true
  | .phase _ => true
  | .gets _ _ => true
  | .sets _ _ => true
  | .trap _ => true
  | .hcallEnd => true
  | .hcallQuota => true
  | .hcallLevel => true
  | .eret => true
  | .wfe => true
  | .brk => true
  | .tstamp _ => true
  | .tlbinv _ _ => true
  | .tlblk _ _ => true
  | .ldovt _ => true
  | .halt => true
  | .vadd f => Machine.laneLegal 0x01 f
  | .vsub f => Machine.laneLegal 0x02 f
  | .vmul f => Machine.laneLegal 0x03 f
  | .vmulh f => Machine.laneLegal 0x04 f
  | .vmad f => Machine.laneLegal 0x05 f
  | .vand f => Machine.laneLegal 0x06 f
  | .vor f => Machine.laneLegal 0x07 f
  | .vxor f => Machine.laneLegal 0x08 f
  | .vshl f => Machine.laneLegal 0x09 f
  | .vshr f => Machine.laneLegal 0x0a f
  | .vsra f => Machine.laneLegal 0x0b f
  | .vmin f => Machine.laneLegal 0x0c f
  | .vmax f => Machine.laneLegal 0x0d f
  | .vabs f => Machine.laneLegal 0x0e f
  | .vclz f => Machine.laneLegal 0x0f f
  | .vpopc f => Machine.laneLegal 0x10 f
  | .vcmp f => Machine.laneLegal 0x18 f
  | .vsel f => Machine.laneLegal 0x19 f
  | .vmov f => Machine.laneLegal 0x1a f
  | .vimm f => Machine.laneLegal 0x1b f
  | .vlid f => Machine.laneLegal 0x1c f
  | .vtok f => Machine.laneLegal 0x1d f
  | .fadd f => Machine.laneLegal 0x20 f
  | .fsub f => Machine.laneLegal 0x21 f
  | .fmul f => Machine.laneLegal 0x22 f
  | .fdiv f => Machine.laneLegal 0x28 f
  | .ffma f => Machine.laneLegal 0x23 f
  | .fsqrt f => Machine.laneLegal 0x29 f
  | .fmin f => Machine.laneLegal 0x24 f
  | .fmax f => Machine.laneLegal 0x25 f
  | .fsgn f => Machine.laneLegal 0x26 f
  | .fcmp f => Machine.laneLegal 0x27 f
  | .fspec f => Machine.laneLegal 0x2a f
  | .fdot2 f => Machine.laneLegal 0x2b f
  | .fclass f => Machine.laneLegal 0x2c f
  | .vcvt f => Machine.laneLegal 0x30 f
  | .vrnd f => Machine.laneLegal 0x36 f
  | .vqnt f => Machine.laneLegal 0x31 f
  | .vdqnt f => Machine.laneLegal 0x32 f
  | .vbscale f => Machine.laneLegal 0x33 f
  | .vbpack f => Machine.laneLegal 0x34 f
  | .vbunpk f => Machine.laneLegal 0x35 f
  | .vperm f => Machine.laneLegal 0x40 f
  | .vrot f => Machine.laneLegal 0x41 f
  | .vshuf f => Machine.laneLegal 0x42 f
  | .vbcast f => Machine.laneLegal 0x43 f
  | .vred f => Machine.laneLegal 0x44 f
  | .vscan f => Machine.laneLegal 0x45 f
  | .vidxr f => Machine.laneLegal 0x46 f
  | .vidxw f => Machine.laneLegal 0x47 f
  | .vld f => Machine.laneLegal 0x50 f
  | .vldbc f => Machine.laneLegal 0x54 f
  | .vst f => Machine.laneLegal 0x51 f
  | .vstp f => Machine.laneLegal 0x55 f
  | .vldg f => Machine.laneLegal 0x52 f
  | .vstx f => Machine.laneLegal 0x53 f
  | .mpush f => Machine.laneLegal 0x60 f
  | .mpushq f => Machine.laneLegal 0x61 f
  | .minv f => Machine.laneLegal 0x62 f
  | .mpop f => Machine.laneLegal 0x63 f
  | .mtoq f => Machine.laneLegal 0x64 f
  | .mclr f => Machine.laneLegal 0x65 f
  | .vnop f => Machine.laneLegal 0x70 f
  | .vseed f => Machine.laneLegal 0x71 f
  | .vstat f => Machine.laneLegal 0x72 f
  | .mwl _ => true
  | .mwa _ => true
  | .mst _ => true
  | .mep _ => true
  | .macl _ => true
  | .masv _ => true
  | .mars _ => true
  | .cpl _ => true
  | .cpw _ => true
  | .cpg _ => true
  | .cpx _ => true
  | .cpf _ => true
  | .cpr _ => true
  | .cph _ => true
  | .clrs _ => true
  | .clag _ => true
  | .clar _ => true
  | .clbc _ => true
  | .illegalInstruction _ => true
  | .illegalLaneWord _ => true
  | .unassignedEngineCommand _ _ _ => true
  | .malformedMailboxCommand => true
  | .mailboxAnswer => true
  | .guestResetDone v => decide (1 ≤ v ∧ v ≤ 16)
  | .linkTrainingComplete => true

/-- The operands an event reads from its `EventArg` name units the module has. -/
def EventArg.fits (i : Instr) (x : EventArg) : Bool :=
  match i with
  | .thermalSample => decide (x.nums.length = 12)
  | .powerGrant => decide (x.nums.length = 12)
  | .lastingError => decide (x.n < 4096)
  | .transientThreshold => decide (x.n < 4096)
  | .coreRetirement => decide (x.n < 96)
  | .sliceRetirement => decide (x.n < 96)
  | .frameRemap => decide (x.n < 32 * 507904)
  | .patrolScrub => decide (x.n < 32 * 130023424)
  | .bar4Access => x.len == 1 || x.len == 2 || x.len == 4 || x.len == 8
  | .hostCompletionTimeout => decide (x.n < 192 ∨ x.n = 200 ∨ x.n = 201)
  | .ucieModuleFailure => decide (x.n < 16)
  | .flitReceive => decide (x.n < 2 ∧ x.data.length = 256)
  | .flitTransmit => decide (x.n < 2)
  | .nakReplay => decide (x.n < 2 ∧ x.m < 1024)
  | .linkRetrain => decide (x.n < 2)
  | .linkTrainingComplete => decide (x.n < 2 ∧ (x.m = 16 ∨ x.m = 8 ∨ x.m = 0) ∧ x.len < 8)
  | .remoteRequest =>
    match x.msg.kind with
    | .load | .store => decide (1 ≤ x.msg.bytes ∧ x.msg.pa % 64 + x.msg.bytes ≤ 64)
    | .amo _ | .cas => (x.msg.bytes == 4 || x.msg.bytes == 8) && decide (x.msg.pa % x.msg.bytes = 0)
  | .remoteResponse => decide (x.n < 192)
  | .migrationPolicyProposal => decide (x.n ≤ 16 ∧ x.off < 2 ^ 34 ∧ x.len < 2 ∧ x.m < 4)
  | _ => true

end Sys2Proof
end

