-- ==== Sys2Proof/Decode.lean ====
section
/-!
DEFINITION. The decoder and the encoder, both written from the encoding tables of chapter 14 (R332 to R357).
-/
namespace Sys2Proof

/-- Why a byte string is no instruction of the asked kind. -/
inductive DecodeError where
  /-- fewer bytes than the item occupies -/
  | tooShort
  /-- byte 7 does not hold the section marker (R349) -/
  | notAHeader
  deriving DecidableEq, Repr

/-! ## Fields of a control word (R332) -/

def fMajor (w : BitVec 32) : BitVec 6 := w.extractLsb' 26 6
def fD (w : BitVec 32) : Reg := w.extractLsb' 20 6
def fA (w : BitVec 32) : Reg := w.extractLsb' 14 6
def fB (w : BitVec 32) : Reg := w.extractLsb' 8 6
def fFn (w : BitVec 32) : BitVec 8 := w.extractLsb' 0 8
def fImm14 (w : BitVec 32) : BitVec 14 := w.extractLsb' 0 14
def fImm20 (w : BitVec 32) : BitVec 20 := w.extractLsb' 0 20
def fOff26 (w : BitVec 32) : BitVec 26 := w.extractLsb' 0 26

def fmtR (major : BitVec 6) (d a b : Reg) (fn : BitVec 8) : BitVec 32 := major ++ d ++ a ++ b ++ fn
def fmtI (major : BitVec 6) (d a : Reg) (imm : BitVec 14) : BitVec 32 := major ++ d ++ a ++ imm
def fmtU (major : BitVec 6) (d : Reg) (imm : BitVec 20) : BitVec 32 := major ++ d ++ imm
def fmtJ (major : BitVec 6) (off : BitVec 26) : BitVec 32 := major ++ off
def fmtM (major : BitVec 6) (d base : Reg) (size : BitVec 2) (off : BitVec 12) : BitVec 32 := major ++ d ++ base ++ size ++ off
def fmtC (eng : BitVec 2) (a b : Reg) (op flags : BitVec 6) : BitVec 32 := (0x30#6) ++ eng ++ a ++ b ++ op ++ flags

/-! ## The decoder of control words: R335 to R340. Steps 1 and 2 of R340 give `illegalInstruction`. -/

/-- `i` when `c` holds, else the illegal instruction (R340 steps 1 and 2). -/
def onlyIf (w : BitVec 32) (c : Bool) (i : Instr) : Instr := if c then i else .illegalInstruction w

def decodeInt (w : BitVec 32) : Instr :=
  match (fFn w).toNat with
  | 0x00 => .add (fD w) (fA w) (fB w)
  | 0x01 => .sub (fD w) (fA w) (fB w)
  | 0x02 => .mul (fD w) (fA w) (fB w)
  | 0x03 => .mulh (fD w) (fA w) (fB w)
  | 0x04 => .mulhu (fD w) (fA w) (fB w)
  | 0x05 => .div (fD w) (fA w) (fB w)
  | 0x06 => .divu (fD w) (fA w) (fB w)
  | 0x07 => .rem (fD w) (fA w) (fB w)
  | 0x08 => .remu (fD w) (fA w) (fB w)
  | 0x09 => .and (fD w) (fA w) (fB w)
  | 0x0a => .or (fD w) (fA w) (fB w)
  | 0x0b => .xor (fD w) (fA w) (fB w)
  | 0x0c => .andn (fD w) (fA w) (fB w)
  | 0x0d => .orn (fD w) (fA w) (fB w)
  | 0x0e => .sll (fD w) (fA w) (fB w)
  | 0x0f => .srl (fD w) (fA w) (fB w)
  | 0x10 => .sra (fD w) (fA w) (fB w)
  | 0x11 => .ror (fD w) (fA w) (fB w)
  | 0x12 => .min (fD w) (fA w) (fB w)
  | 0x13 => .max (fD w) (fA w) (fB w)
  | 0x14 => .minu (fD w) (fA w) (fB w)
  | 0x15 => .maxu (fD w) (fA w) (fB w)
  | 0x16 => .slt (fD w) (fA w) (fB w)
  | 0x17 => .sltu (fD w) (fA w) (fB w)
  | 0x18 => .seq (fD w) (fA w) (fB w)
  | 0x19 => .sel (fD w) (fA w) (fB w)
  | 0x1C | 0x1D | 0x1E | 0x1F => .shadd (fD w) (fA w) (fB w) (w.extractLsb' 0 2)
  | _ => .illegalInstruction w

def decodeBit (w : BitVec 32) : Instr :=
  match (fFn w).toNat with
  | 0x00 => onlyIf w (fB w == 0) (.clz (fD w) (fA w))
  | 0x01 => onlyIf w (fB w == 0) (.ctz (fD w) (fA w))
  | 0x02 => onlyIf w (fB w == 0) (.popc (fD w) (fA w))
  | 0x03 => onlyIf w (fB w == 0) (.brev (fD w) (fA w))
  | 0x04 => onlyIf w (fB w == 0) (.bswap (fD w) (fA w))
  | 0x05 => .sext (fD w) (fA w) (fB w)
  | 0x06 => .zext (fD w) (fA w) (fB w)
  | _ => .illegalInstruction w

/-- R339: position in imm bits 5:0, width minus 1 in bits 11:6, bits 13:12 zero, position plus width at most 64. -/
def decodeField (w : BitVec 32) (mk : Reg → Reg → BitVec 6 → BitVec 6 → Instr) : Instr :=
  onlyIf w (w.extractLsb' 12 2 == 0#2
      && decide ((w.extractLsb' 0 6).toNat + (w.extractLsb' 6 6).toNat + 1 ≤ 64))
    (mk (fD w) (fA w) (w.extractLsb' 0 6) (w.extractLsb' 6 6))

def decodeShift (w : BitVec 32) (mk : Reg → Reg → BitVec 6 → Instr) : Instr :=
  onlyIf w (w.extractLsb' 6 8 == 0#8) (mk (fD w) (fA w) (w.extractLsb' 0 6))

def decodeMem (w : BitVec 32) (mk : Reg → Reg → MemSize → BitVec 12 → Instr) : Instr :=
  mk (fD w) (fA w) (Machine.sizeOfCode (w.extractLsb' 12 2)) (w.extractLsb' 0 12)

def decodeResidency (w : BitVec 32) (mk : Reg → Reg → BitVec 1 → Instr) : Instr :=
  onlyIf w (w.extractLsb' 1 13 == 0#13) (mk (fD w) (fA w) (w.extractLsb' 0 1))

/-- The ordering code in function bits 3:0 (R337). -/
def decodeOrd (w : BitVec 32) (mk : MemOrd → Instr) : Instr :=
  match Machine.ordOfCode (w.extractLsb' 0 4) with
  | some o => mk o
  | none => .illegalInstruction w

def decodeAmo (w : BitVec 32) : Instr :=
  decodeOrd w fun o =>
    let op := Machine.amoOfCode (w.extractLsb' 5 3)
    let wide := w.getLsbD 4
    onlyIf w (!(op == .fadd && wide)) (.amo (fD w) (fA w) (fB w) op wide o)

def decodeCas (w : BitVec 32) : Instr :=
  decodeOrd w fun o => onlyIf w (w.extractLsb' 5 3 == 0#3) (.cas (fD w) (fA w) (fB w) (w.getLsbD 4) o)

def decodeLdacq (w : BitVec 32) : Instr :=
  decodeOrd w fun o => onlyIf w (w.extractLsb' 6 2 == 0#2 && Machine.ldacqOrd o && fB w == 0)
    (.ldacq (fD w) (fA w) (Machine.sizeOfCode (w.extractLsb' 4 2)) o)

def decodeStrel (w : BitVec 32) : Instr :=
  decodeOrd w fun o => onlyIf w (w.extractLsb' 6 2 == 0#2 && Machine.strelOrd o && fD w == 0)
    (.strel (fA w) (fB w) (Machine.sizeOfCode (w.extractLsb' 4 2)) o)

def decodeFence (w : BitVec 32) : Instr :=
  decodeOrd w fun o => onlyIf w (w.extractLsb' 4 22 == 0#22 && Machine.fenceOrd o) (.fence o)

/-- Only the `a` field used (R338). -/
def onlyA (w : BitVec 32) (i : Reg → Instr) : Instr := onlyIf w (fD w == 0 && fB w == 0) (i (fA w))
def onlyAB (w : BitVec 32) (i : Reg → Reg → Instr) : Instr := onlyIf w (fD w == 0) (i (fA w) (fB w))
def noFields (w : BitVec 32) (i : Instr) : Instr := onlyIf w (fD w == 0 && fA w == 0 && fB w == 0) i

def decodeToken (w : BitVec 32) : Instr :=
  match (fFn w).toNat with
  | 0x00 => onlyA w .tmask
  | 0x01 => onlyA w .ttrip
  | 0x02 => onlyA w .tout
  | 0x03 => onlyA w .tdata
  | 0x08 => onlyA w .lwait
  | _ => .illegalInstruction w

/-- R396: a k register field holds 0 to 15. -/
def kField (w : BitVec 32) (i : BitVec 4 → Instr) : Instr := onlyIf w (w.extractLsb' 18 2 == 0#2) (i (w.extractLsb' 14 4))

def decodeSync (w : BitVec 32) : Instr :=
  match (fFn w).toNat with
  | 0x00 => onlyIf w (fD w == 0) (kField w fun k => .kwait k (fB w))
  | 0x01 => onlyIf w (fD w == 0) (kField w fun k => .ksig k (fB w))
  | 0x02 => onlyIf w (fB w == 0) (kField w fun k => .krd (fD w) k)
  | 0x03 => onlyAB w .ownx
  | 0x04 => onlyAB w .ownw
  | 0x05 => onlyA w .tagwa
  | 0x06 => onlyA w .tagwl
  | 0x07 => onlyIf w (fB w == 0) (.tagff (fD w) (fA w))
  | 0x08 => onlyA w .tagclr
  | 0x10 => noFields w (.phase false)
  | 0x11 => noFields w (.phase true)
  | _ => .illegalInstruction w

/-- R403: calls 0, 1 and 2 exist. -/
def decodeHcall (w : BitVec 32) : Instr :=
  match (w.extractLsb' 0 26).toNat with
  | 0 => .hcallEnd
  | 1 => .hcallQuota
  | 2 => .hcallLevel
  | _ => .illegalInstruction w

def decodeSystem (w : BitVec 32) : Instr :=
  match (fFn w).toNat with
  | 0x00 => noFields w .eret
  | 0x01 => noFields w .wfe
  | 0x02 => noFields w .brk
  | 0x03 => onlyIf w (fA w == 0 && fB w == 0) (.tstamp (fD w))
  | _ => .illegalInstruction w

def decodePrivileged (w : BitVec 32) : Instr :=
  match (fFn w).toNat with
  | 0x00 => onlyAB w .tlbinv
  | 0x01 => onlyAB w .tlblk
  | 0x02 => onlyA w .ldovt
  | 0x03 => noFields w .halt
  | _ => .illegalInstruction w

def decodeControl (w : BitVec 32) : Instr :=
  match (fMajor w).toNat with
  | 0x01 => decodeInt w
  | 0x02 => decodeBit w
  | 0x03 => decodeField w .extr
  | 0x04 => decodeField w .insr
  | 0x05 => .addi (fD w) (fA w) (fImm14 w)
  | 0x06 => .andi (fD w) (fA w) (fImm14 w)
  | 0x07 => .ori (fD w) (fA w) (fImm14 w)
  | 0x08 => .xori (fD w) (fA w) (fImm14 w)
  | 0x09 => .slti (fD w) (fA w) (fImm14 w)
  | 0x0A => .sltiu (fD w) (fA w) (fImm14 w)
  | 0x0B => decodeShift w .slli
  | 0x0C => decodeShift w .srli
  | 0x0D => decodeShift w .srai
  | 0x0E => .lui (fD w) (fImm20 w)
  | 0x0F => .pcadd (fD w) (fImm20 w)
  | 0x10 => .beq (fD w) (fA w) (fImm14 w)
  | 0x11 => .bne (fD w) (fA w) (fImm14 w)
  | 0x12 => .blt (fD w) (fA w) (fImm14 w)
  | 0x13 => .bge (fD w) (fA w) (fImm14 w)
  | 0x14 => .bltu (fD w) (fA w) (fImm14 w)
  | 0x15 => .bgeu (fD w) (fA w) (fImm14 w)
  | 0x16 => .j (fOff26 w)
  | 0x17 => .jal (fOff26 w)
  | 0x18 => .jr (fD w) (fA w) (fImm14 w)
  | 0x19 => onlyIf w (!w.getLsbD 13) (.jtab (fD w) (fA w) (w.extractLsb' 0 13))
  | 0x1A => onlyIf w (fA w == 0 && decide (1 ≤ (fImm14 w).toNat) && decide ((fImm14 w).toNat ≤ 8191)) (.loop (fD w) (fImm14 w))
  | 0x1B => onlyIf w (fOff26 w == 0) .lexit
  | 0x1C => onlyIf w (fD w == 0) (.swp (fImm20 w))
  | 0x20 => decodeMem w .ld
  | 0x21 => decodeMem w .st
  | 0x22 => decodeMem w .ldsp
  | 0x23 => decodeMem w .stsp
  | 0x24 => onlyIf w (fD w == 0 && w.extractLsb' 12 2 == 3#2) (.pref (fA w) (w.extractLsb' 0 12))
  | 0x25 => decodeResidency w .ipref
  | 0x26 => decodeResidency w .ipin
  | 0x27 => decodeResidency w .iunpin
  | 0x28 => decodeAmo w
  | 0x29 => decodeCas w
  | 0x2A => decodeLdacq w
  | 0x2B => decodeStrel w
  | 0x2C => decodeFence w
  | 0x2D => decodeToken w
  | 0x30 => .cmd (w.extractLsb' 24 2) (w.extractLsb' 18 6) (w.extractLsb' 12 6) (w.extractLsb' 6 6) (w.extractLsb' 0 6)
  | 0x31 => decodeSync w
  | 0x32 => onlyIf w (fA w == 0) (.gets (fD w) (fImm14 w))
  | 0x33 => onlyIf w (fD w == 0) (.sets (fA w) (fImm14 w))
  | 0x34 => onlyIf w (fD w == 0) (.trap (fImm20 w))
  | 0x35 => decodeHcall w
  | 0x36 => decodeSystem w
  | 0x3E => decodePrivileged w
  | _ => .illegalInstruction w

/-! ## Lane words and section headers (R341, R342, R348, R349) -/

def laneFieldsOf (w : BitVec 96) : LaneFields :=
  { d := w.extractLsb' 80 8, a := w.extractLsb' 72 8, b := w.extractLsb' 64 8, c := w.extractLsb' 56 8
    lat := w.extractLsb' 52 4, pred := w.extractLsb' 48 4
    id := w.getLsbD 47, ia := w.getLsbD 46, ib := w.getLsbD 45, sat := w.getLsbD 44
    rnd := w.extractLsb' 40 4, f1 := w.extractLsb' 36 4, f2 := w.extractLsb' 32 4, imm := w.extractLsb' 0 32 }

def laneBits (op : BitVec 8) (f : LaneFields) : BitVec 96 :=
  op ++ f.d ++ f.a ++ f.b ++ f.c ++ f.lat ++ f.pred ++ BitVec.ofBool f.id ++ BitVec.ofBool f.ia ++ BitVec.ofBool f.ib
    ++ BitVec.ofBool f.sat ++ f.rnd ++ f.f1 ++ f.f2 ++ f.imm

/-- The instruction of an assigned lane op (R345). -/
def laneInstr (op : Nat) (f : LaneFields) : Option Instr :=
  match op with
  | 0x01 => some (.vadd f)
  | 0x02 => some (.vsub f)
  | 0x03 => some (.vmul f)
  | 0x04 => some (.vmulh f)
  | 0x05 => some (.vmad f)
  | 0x06 => some (.vand f)
  | 0x07 => some (.vor f)
  | 0x08 => some (.vxor f)
  | 0x09 => some (.vshl f)
  | 0x0a => some (.vshr f)
  | 0x0b => some (.vsra f)
  | 0x0c => some (.vmin f)
  | 0x0d => some (.vmax f)
  | 0x0e => some (.vabs f)
  | 0x0f => some (.vclz f)
  | 0x10 => some (.vpopc f)
  | 0x18 => some (.vcmp f)
  | 0x19 => some (.vsel f)
  | 0x1a => some (.vmov f)
  | 0x1b => some (.vimm f)
  | 0x1c => some (.vlid f)
  | 0x1d => some (.vtok f)
  | 0x20 => some (.fadd f)
  | 0x21 => some (.fsub f)
  | 0x22 => some (.fmul f)
  | 0x28 => some (.fdiv f)
  | 0x23 => some (.ffma f)
  | 0x29 => some (.fsqrt f)
  | 0x24 => some (.fmin f)
  | 0x25 => some (.fmax f)
  | 0x26 => some (.fsgn f)
  | 0x27 => some (.fcmp f)
  | 0x2a => some (.fspec f)
  | 0x2b => some (.fdot2 f)
  | 0x2c => some (.fclass f)
  | 0x30 => some (.vcvt f)
  | 0x36 => some (.vrnd f)
  | 0x31 => some (.vqnt f)
  | 0x32 => some (.vdqnt f)
  | 0x33 => some (.vbscale f)
  | 0x34 => some (.vbpack f)
  | 0x35 => some (.vbunpk f)
  | 0x40 => some (.vperm f)
  | 0x41 => some (.vrot f)
  | 0x42 => some (.vshuf f)
  | 0x43 => some (.vbcast f)
  | 0x44 => some (.vred f)
  | 0x45 => some (.vscan f)
  | 0x46 => some (.vidxr f)
  | 0x47 => some (.vidxw f)
  | 0x50 => some (.vld f)
  | 0x54 => some (.vldbc f)
  | 0x51 => some (.vst f)
  | 0x55 => some (.vstp f)
  | 0x52 => some (.vldg f)
  | 0x53 => some (.vstx f)
  | 0x60 => some (.mpush f)
  | 0x61 => some (.mpushq f)
  | 0x62 => some (.minv f)
  | 0x63 => some (.mpop f)
  | 0x64 => some (.mtoq f)
  | 0x65 => some (.mclr f)
  | 0x70 => some (.vnop f)
  | 0x71 => some (.vseed f)
  | 0x72 => some (.vstat f)
  | _ => none

/-- R345, R347: a lane word; one whose op is unassigned or whose fields its form does not allow is illegal. The bound is
checked at issue. -/
def decodeLane (w : BitVec 96) : Instr :=
  let op := (w.extractLsb' 88 8).toNat
  let f := laneFieldsOf w
  match laneInstr op f with
  | some i => if Machine.laneLegal op f then i else .illegalLaneWord w
  | none => .illegalLaneWord w

def headerFieldsOf (w : BitVec 64) : HeaderFields :=
  { num := w.extractLsb' 42 16, length := w.extractLsb' 30 12, kind := w.extractLsb' 28 2
    full := w.getLsbD 27, last := w.getLsbD 26, reserved := w.extractLsb' 0 26 }

def headerBits (h : HeaderFields) : BitVec 64 :=
  (0b101101#6) ++ h.num ++ h.length ++ h.kind ++ BitVec.ofBool h.full ++ BitVec.ofBool h.last ++ h.reserved

/-- R349: the marker in the top six bits makes an item a header. -/
def isHeader (w : BitVec 64) : Bool := w.extractLsb' 58 6 == 0b101101#6

/-- R353, R354: the command an engine reads from a queue entry; every other pair of engine and code is unassigned. -/
def decodeCommand (eng : BitVec 2) (op : BitVec 6) (c : EngineFields) : Instr :=
  match eng.toNat, op.toNat with
  | 0, 0x01 => .mwl c
  | 0, 0x02 => .mwa c
  | 0, 0x03 => .mst c
  | 0, 0x04 => .mep c
  | 0, 0x05 => .macl c
  | 0, 0x06 => .masv c
  | 0, 0x07 => .mars c
  | 1, 0x11 => .cpl c
  | 1, 0x12 => .cpw c
  | 1, 0x13 => .cpg c
  | 1, 0x14 => .cpx c
  | 1, 0x15 => .cpf c
  | 1, 0x16 => .cpr c
  | 1, 0x17 => .cph c
  | 2, 0x21 => .clrs c
  | 2, 0x22 => .clag c
  | 2, 0x23 => .clar c
  | 2, 0x24 => .clbc c
  | _, _ => .unassignedEngineCommand eng op c

/-! ## Bytes (R1, R342) -/

def word32 (b0 b1 b2 b3 : Byte) : BitVec 32 := b3 ++ b2 ++ b1 ++ b0
def word64 (b0 b1 b2 b3 b4 b5 b6 b7 : Byte) : BitVec 64 := b7 ++ b6 ++ b5 ++ b4 ++ b3 ++ b2 ++ b1 ++ b0

/-- One control word from its bytes, with the bytes left. -/
def decodeControlBytes : List Byte → Except DecodeError (Instr × List Byte)
  | b0 :: b1 :: b2 :: b3 :: rest => .ok (decodeControl (word32 b0 b1 b2 b3), rest)
  | _ => .error .tooShort

/-- One section header from its 8 bytes. -/
def decodeHeaderBytes : List Byte → Except DecodeError (Instr × List Byte)
  | b0 :: b1 :: b2 :: b3 :: b4 :: b5 :: b6 :: b7 :: rest =>
    let w := word64 b0 b1 b2 b3 b4 b5 b6 b7
    if isHeader w then .ok (.sectionHeader (headerFieldsOf w), rest) else .error .notAHeader
  | _ => .error .tooShort

/-- One item of the lane stream: a header of 8 bytes or a lane word of 12 (R349). -/
def decodeItemBytes : List Byte → Except DecodeError (Instr × List Byte)
  | b0 :: b1 :: b2 :: b3 :: b4 :: b5 :: b6 :: b7 :: rest =>
    let w := word64 b0 b1 b2 b3 b4 b5 b6 b7
    if isHeader w then .ok (.sectionHeader (headerFieldsOf w), rest)
    else match rest with
      | c0 :: c1 :: c2 :: c3 :: rest' => .ok (decodeLane (w ++ word32 c0 c1 c2 c3), rest')
      | _ => .error .tooShort
  | _ => .error .tooShort

/-- The n low bytes of a number, least significant first. -/
def leBytes : Nat → Nat → List Byte
  | 0, _ => []
  | n + 1, w => BitVec.ofNat 8 w :: leBytes n (w / 256)

/-! ## The encoder -/

/-- The word of a control instruction. -/
def encodeControl : Instr → Option (BitVec 32)
  | .add d a b => some (fmtR 0x01 d a b 0x00)
  | .sub d a b => some (fmtR 0x01 d a b 0x01)
  | .mul d a b => some (fmtR 0x01 d a b 0x02)
  | .mulh d a b => some (fmtR 0x01 d a b 0x03)
  | .mulhu d a b => some (fmtR 0x01 d a b 0x04)
  | .div d a b => some (fmtR 0x01 d a b 0x05)
  | .divu d a b => some (fmtR 0x01 d a b 0x06)
  | .rem d a b => some (fmtR 0x01 d a b 0x07)
  | .remu d a b => some (fmtR 0x01 d a b 0x08)
  | .and d a b => some (fmtR 0x01 d a b 0x09)
  | .or d a b => some (fmtR 0x01 d a b 0x0a)
  | .xor d a b => some (fmtR 0x01 d a b 0x0b)
  | .andn d a b => some (fmtR 0x01 d a b 0x0c)
  | .orn d a b => some (fmtR 0x01 d a b 0x0d)
  | .sll d a b => some (fmtR 0x01 d a b 0x0e)
  | .srl d a b => some (fmtR 0x01 d a b 0x0f)
  | .sra d a b => some (fmtR 0x01 d a b 0x10)
  | .ror d a b => some (fmtR 0x01 d a b 0x11)
  | .min d a b => some (fmtR 0x01 d a b 0x12)
  | .max d a b => some (fmtR 0x01 d a b 0x13)
  | .minu d a b => some (fmtR 0x01 d a b 0x14)
  | .maxu d a b => some (fmtR 0x01 d a b 0x15)
  | .slt d a b => some (fmtR 0x01 d a b 0x16)
  | .sltu d a b => some (fmtR 0x01 d a b 0x17)
  | .seq d a b => some (fmtR 0x01 d a b 0x18)
  | .sel d a b => some (fmtR 0x01 d a b 0x19)
  | .shadd d a b sh => some (fmtR 0x01 d a b ((0b000111#6) ++ sh))
  | .clz d a => some (fmtR 0x02 d a 0 0)
  | .ctz d a => some (fmtR 0x02 d a 0 1)
  | .popc d a => some (fmtR 0x02 d a 0 2)
  | .brev d a => some (fmtR 0x02 d a 0 3)
  | .bswap d a => some (fmtR 0x02 d a 0 4)
  | .sext d a b => some (fmtR 0x02 d a b 5)
  | .zext d a b => some (fmtR 0x02 d a b 6)
  | .extr d a pos wid => some (fmtI 0x03 d a ((0#2) ++ wid ++ pos))
  | .insr d a pos wid => some (fmtI 0x04 d a ((0#2) ++ wid ++ pos))
  | .addi d a imm => some (fmtI 0x05 d a imm)
  | .andi d a imm => some (fmtI 0x06 d a imm)
  | .ori d a imm => some (fmtI 0x07 d a imm)
  | .xori d a imm => some (fmtI 0x08 d a imm)
  | .slti d a imm => some (fmtI 0x09 d a imm)
  | .sltiu d a imm => some (fmtI 0x0a d a imm)
  | .slli d a sh => some (fmtI 0x0b d a ((0#8) ++ sh))
  | .srli d a sh => some (fmtI 0x0c d a ((0#8) ++ sh))
  | .srai d a sh => some (fmtI 0x0d d a ((0#8) ++ sh))
  | .lui d imm => some (fmtU 0x0E d imm)
  | .pcadd d imm => some (fmtU 0x0F d imm)
  | .beq a b off => some (fmtI 0x10 a b off)
  | .bne a b off => some (fmtI 0x11 a b off)
  | .blt a b off => some (fmtI 0x12 a b off)
  | .bge a b off => some (fmtI 0x13 a b off)
  | .bltu a b off => some (fmtI 0x14 a b off)
  | .bgeu a b off => some (fmtI 0x15 a b off)
  | .j off => some (fmtJ 0x16 off)
  | .jal off => some (fmtJ 0x17 off)
  | .jr d a imm => some (fmtI 0x18 d a imm)
  | .jtab d a len => some (fmtI 0x19 d a ((0#1) ++ len))
  | .loop a off => some (fmtI 0x1A a 0 off)
  | .lexit => some (fmtJ 0x1B 0)
  | .swp imm => some (fmtU 0x1C 0 imm)
  | .ld d base size off => some (fmtM 0x20 d base (Machine.sizeCode size) off)
  | .st src base size off => some (fmtM 0x21 src base (Machine.sizeCode size) off)
  | .ldsp d base size off => some (fmtM 0x22 d base (Machine.sizeCode size) off)
  | .stsp src base size off => some (fmtM 0x23 src base (Machine.sizeCode size) off)
  | .pref base off => some (fmtM 0x24 0 base 3 off)
  | .ipref d a level => some (fmtI 0x25 d a ((0#13) ++ level))
  | .ipin d a level => some (fmtI 0x26 d a ((0#13) ++ level))
  | .iunpin d a level => some (fmtI 0x27 d a ((0#13) ++ level))
  | .amo d a b op wide ord => some (fmtR 0x28 d a b (Machine.amoCode op ++ BitVec.ofBool wide ++ Machine.ordCode ord))
  | .cas d a b wide ord => some (fmtR 0x29 d a b ((0#3) ++ BitVec.ofBool wide ++ Machine.ordCode ord))
  | .ldacq d a size ord => some (fmtR 0x2A d a 0 ((0#2) ++ Machine.sizeCode size ++ Machine.ordCode ord))
  | .strel a b size ord => some (fmtR 0x2B 0 a b ((0#2) ++ Machine.sizeCode size ++ Machine.ordCode ord))
  | .fence ord => some (fmtR 0x2C 0 0 0 ((0#4) ++ Machine.ordCode ord))
  | .tmask a => some (fmtR 0x2D 0 a 0 0)
  | .ttrip a => some (fmtR 0x2D 0 a 0 1)
  | .tout a => some (fmtR 0x2D 0 a 0 2)
  | .tdata a => some (fmtR 0x2D 0 a 0 3)
  | .lwait a => some (fmtR 0x2D 0 a 0 8)
  | .cmd eng a b op flags => some (fmtC eng a b op flags)
  | .kwait k b => some (fmtR 0x31 0 ((0#2) ++ k) b 0)
  | .ksig k b => some (fmtR 0x31 0 ((0#2) ++ k) b 1)
  | .krd d k => some (fmtR 0x31 d ((0#2) ++ k) 0 2)
  | .ownx a b => some (fmtR 0x31 0 a b 3)
  | .ownw a b => some (fmtR 0x31 0 a b 4)
  | .tagwa a => some (fmtR 0x31 0 a 0 5)
  | .tagwl a => some (fmtR 0x31 0 a 0 6)
  | .tagff d a => some (fmtR 0x31 d a 0 7)
  | .tagclr a => some (fmtR 0x31 0 a 0 8)
  | .phase glb => some (fmtR 0x31 0 0 0 ((0b0001000#7) ++ BitVec.ofBool glb))
  | .gets d imm => some (fmtI 0x32 d 0 imm)
  | .sets a imm => some (fmtI 0x33 0 a imm)
  | .trap imm => some (fmtU 0x34 0 imm)
  | .hcallEnd => some (fmtU 0x35 0 0)
  | .hcallQuota => some (fmtU 0x35 0 1)
  | .hcallLevel => some (fmtU 0x35 0 2)
  | .eret => some (fmtR 0x36 0 0 0 0)
  | .wfe => some (fmtR 0x36 0 0 0 1)
  | .brk => some (fmtR 0x36 0 0 0 2)
  | .tstamp d => some (fmtR 0x36 d 0 0 3)
  | .tlbinv a b => some (fmtR 0x3E 0 a b 0)
  | .tlblk a b => some (fmtR 0x3E 0 a b 1)
  | .ldovt a => some (fmtR 0x3E 0 a 0 2)
  | .halt => some (fmtR 0x3E 0 0 0 3)
  | _ => none

/-- The op and fields of a lane instruction (R345). -/
def laneParts : Instr → Option (BitVec 8 × LaneFields)
  | .vadd f => some (0x01, f)
  | .vsub f => some (0x02, f)
  | .vmul f => some (0x03, f)
  | .vmulh f => some (0x04, f)
  | .vmad f => some (0x05, f)
  | .vand f => some (0x06, f)
  | .vor f => some (0x07, f)
  | .vxor f => some (0x08, f)
  | .vshl f => some (0x09, f)
  | .vshr f => some (0x0a, f)
  | .vsra f => some (0x0b, f)
  | .vmin f => some (0x0c, f)
  | .vmax f => some (0x0d, f)
  | .vabs f => some (0x0e, f)
  | .vclz f => some (0x0f, f)
  | .vpopc f => some (0x10, f)
  | .vcmp f => some (0x18, f)
  | .vsel f => some (0x19, f)
  | .vmov f => some (0x1a, f)
  | .vimm f => some (0x1b, f)
  | .vlid f => some (0x1c, f)
  | .vtok f => some (0x1d, f)
  | .fadd f => some (0x20, f)
  | .fsub f => some (0x21, f)
  | .fmul f => some (0x22, f)
  | .fdiv f => some (0x28, f)
  | .ffma f => some (0x23, f)
  | .fsqrt f => some (0x29, f)
  | .fmin f => some (0x24, f)
  | .fmax f => some (0x25, f)
  | .fsgn f => some (0x26, f)
  | .fcmp f => some (0x27, f)
  | .fspec f => some (0x2a, f)
  | .fdot2 f => some (0x2b, f)
  | .fclass f => some (0x2c, f)
  | .vcvt f => some (0x30, f)
  | .vrnd f => some (0x36, f)
  | .vqnt f => some (0x31, f)
  | .vdqnt f => some (0x32, f)
  | .vbscale f => some (0x33, f)
  | .vbpack f => some (0x34, f)
  | .vbunpk f => some (0x35, f)
  | .vperm f => some (0x40, f)
  | .vrot f => some (0x41, f)
  | .vshuf f => some (0x42, f)
  | .vbcast f => some (0x43, f)
  | .vred f => some (0x44, f)
  | .vscan f => some (0x45, f)
  | .vidxr f => some (0x46, f)
  | .vidxw f => some (0x47, f)
  | .vld f => some (0x50, f)
  | .vldbc f => some (0x54, f)
  | .vst f => some (0x51, f)
  | .vstp f => some (0x55, f)
  | .vldg f => some (0x52, f)
  | .vstx f => some (0x53, f)
  | .mpush f => some (0x60, f)
  | .mpushq f => some (0x61, f)
  | .minv f => some (0x62, f)
  | .mpop f => some (0x63, f)
  | .mtoq f => some (0x64, f)
  | .mclr f => some (0x65, f)
  | .vnop f => some (0x70, f)
  | .vseed f => some (0x71, f)
  | .vstat f => some (0x72, f)
  | _ => none

/-- The engine, code and fields of an engine command (R354). -/
def commandParts : Instr → Option (BitVec 2 × BitVec 6 × EngineFields)
  | .mwl c => some (0, 0x01, c)
  | .mwa c => some (0, 0x02, c)
  | .mst c => some (0, 0x03, c)
  | .mep c => some (0, 0x04, c)
  | .macl c => some (0, 0x05, c)
  | .masv c => some (0, 0x06, c)
  | .mars c => some (0, 0x07, c)
  | .cpl c => some (1, 0x11, c)
  | .cpw c => some (1, 0x12, c)
  | .cpg c => some (1, 0x13, c)
  | .cpx c => some (1, 0x14, c)
  | .cpf c => some (1, 0x15, c)
  | .cpr c => some (1, 0x16, c)
  | .cph c => some (1, 0x17, c)
  | .clrs c => some (2, 0x21, c)
  | .clag c => some (2, 0x22, c)
  | .clar c => some (2, 0x23, c)
  | .clbc c => some (2, 0x24, c)
  | .unassignedEngineCommand eng op c => some (eng, op, c)
  | _ => none

/-- The 32-bit words of an instruction, the first at the lowest address: a control word; a section header (R348); a lane word,
bits 95:32 before bits 31:0 (R342); an engine command as its CMD's engine, code and flags and its words A and B. An event of the module has
no words. -/
def encode (i : Instr) : List (BitVec 32) :=
  match encodeControl i with
  | some w => [w]
  | none =>
    match laneParts i with
    | some (op, f) =>
      let w := laneBits op f
      [w.extractLsb' 32 32, w.extractLsb' 64 32, w.extractLsb' 0 32]
    | none =>
      match commandParts i with
      | some (eng, op, c) =>
        [fmtC eng 0 0 op c.flags, c.wa.extractLsb' 0 32, c.wa.extractLsb' 32 32, c.wb.extractLsb' 0 32, c.wb.extractLsb' 32 32]
      | none =>
        match i with
        | .sectionHeader h => [(headerBits h).extractLsb' 0 32, (headerBits h).extractLsb' 32 32]
        | .illegalInstruction w => [w]
        | .illegalLaneWord w => [w.extractLsb' 32 32, w.extractLsb' 64 32, w.extractLsb' 0 32]
        | _ => []

/-- The instruction the decoder reads from the words of `encode`: one word is a control word, two a header, three a lane word,
five an engine command. -/
def decodeWords : List (BitVec 32) → Option Instr
  | [w] => some (decodeControl w)
  | [lo, hi] => if isHeader (hi ++ lo) then some (.sectionHeader (headerFieldsOf (hi ++ lo))) else none
  | [lo, hi, imm] => some (decodeLane (hi ++ lo ++ imm))
  | [c, a0, a1, b0, b1] =>
    some (decodeCommand (c.extractLsb' 24 2) (c.extractLsb' 6 6) { flags := c.extractLsb' 0 6, wa := a1 ++ a0, wb := b1 ++ b0 })
  | _ => none

/-- The bytes of an instruction in memory. -/
def encodeBytes (i : Instr) : List Byte := (encode i).flatMap fun w => leBytes 4 w.toNat

/-- The host's check: the instruction of the table's bits `w`, bit 0 the least significant bit of the first word. Rows of at
most 32 bits are control words; 64 bits are a section header, 96 bits a lane word, in the order of their bytes. -/
def decodeTableWord (nbits w : Nat) : Option Instr :=
  if nbits ≤ 32 then
    match decodeControlBytes (leBytes 4 w) with
    | .ok (i, _) => some i
    | .error _ => none
  else
    match decodeItemBytes (leBytes 12 w) with
    | .ok (i, _) => some i
    | .error _ => none

end Sys2Proof
end

