-- ==== Sys2Proof/Config.lean ====
section
/-!
DEFINITION. What an implementation fixes and the manual does not give: constants with no body, so that no proof can
see their value (assumption log 6 to 10, 15, 21).
-/
namespace Sys2Proof

/-- FREE VALUE. The n-th draw of a run, at index i of that draw: undefined lane reads (R414), the winner of overlapping
writes (R415), delivered products (R267), a corrupted product's residue, victims the spec does not name. The draw number is the
field `State.run.free`. -/
opaque Config.free : Nat → Nat → BitVec 64

/-- FREE VALUE. FSPEC's f32 result before it is held to the bound of R426: function, mode (true = full), input. A fixed
function of the input bits and the mode, the same on every part. -/
opaque Config.fspec : Nat → Bool → BitVec 32 → BitVec 32

/-- IMPLEMENTATION. The signature check of a firmware bank or of the configuration image's vendor part (R59, R60, R64). -/
opaque Config.verifies : List (BitVec 8) → Bool

/-- IMPLEMENTATION. The signature check of the configuration image's service part under the identity key (R64). -/
opaque Config.serviceVerifies : List (BitVec 8) → Bool

/-- IMPLEMENTATION. SHA-512 of a byte string (R60, R79). -/
opaque Config.sha512 : List (BitVec 8) → List (BitVec 8)

/-- IMPLEMENTATION. The identity key's RSASSA-PSS signature of a byte string (R65, R79). -/
opaque Config.identitySign : List (BitVec 8) → List (BitVec 8)

/-- IMPLEMENTATION. The bytes the configuration image's trims and service part are read to: spare maps and counts are held
in State; these are the vendor part's RSCFG fields (R296): base, N, EN. -/
opaque Config.imageRscfg : List (BitVec 8) → BitVec 22 × BitVec 3 × Bool

/-- IMPLEMENTATION. Which 64 MiB of addresses hold the 32 MiB firmware region of die d (R61). -/
opaque Config.fwRegion : Nat → Nat

/-- IMPLEMENTATION. The power tables' EMAX in 1/16 nJ (R88), of the running firmware version. -/
opaque Config.emax : BitVec 32 → BitVec 48

/-- IMPLEMENTATION. The power tables' VLMIN, in units of 10 mV above 300 mV (R274). -/
opaque Config.vlmin : BitVec 32 → BitVec 3

/-- IMPLEMENTATION. SHA-512 of the boot ROM (R79 block 1). -/
opaque Config.romDigest : List (BitVec 8)

/-- IMPLEMENTATION. The message units of each class that a port may send before any credit returns (R41). -/
opaque Config.linkCredits : Nat → Nat

/-- IMPLEMENTATION. The device certificate chain within the flash area of R58 that holds it beside the helper data. -/
opaque Config.chain : List (BitVec 8) → List (BitVec 8)

/-- IMPLEMENTATION. Where a complex's 2 MiB of SRAM stands among the addresses of its cores, in units of 64 bytes (R55; log 16). -/
opaque Config.sramAt : Nat

/-- IMPLEMENTATION. Where in its last 512 KiB an SRAM holds the mailbox's buffers and the state table (R61). -/
opaque Config.mailSlot : Nat
opaque Config.tableSlot : Nat

/-- IMPLEMENTATION. Where the banks' boot mailboxes stand among the addresses of the firmware cores, after the SRAM, in units of 64 bytes, 64 bytes each (R121; log 16). -/
opaque Config.bootMailAt : Nat

/-- IMPLEMENTATION. The power tables of a firmware version (R12): the weight of an index (R160), a level's clock in 25 MHz and its VC (R165), DDT_THR (R172). -/
opaque Config.powerWeight : BitVec 32 → Nat → BitVec 16
opaque Config.levelClock : BitVec 32 → Nat → Nat
opaque Config.levelVolts : BitVec 32 → Nat → Nat
opaque Config.droopThreshold : BitVec 32 → Nat

/-- IMPLEMENTATION. The retry threshold of a firmware version (R12, R23). -/
opaque Config.retryThreshold : BitVec 32 → Nat

/-- IMPLEMENTATION. The key of Parell that the certificate chain carries for firmware, and the digest of it that the boot ROM holds (R60). -/
opaque Config.firmwareKey : List (BitVec 8) → List (BitVec 8)
opaque Config.romKeyDigest : List (BitVec 8)

/-- IMPLEMENTATION. The control-text address at which a firmware core starts (R61, R62 step 8). -/
opaque Config.fwEntry : Nat → BitVec 64

end Sys2Proof
end

