-- ==== Sys2Proof/Machine/State.lean ====
section
/-!
DEFINITION. The state of the module: every register, queue, counter, table and store the spec names, as plain data, and the state right
after power-on reset. Sparse tables are `SMap`s: an unlisted key reads as the default its reader names (Machine/Maps.lean).
-/
namespace Sys2Proof.Machine

/-- Why a step stops with a fault. -/
inductive Fault where
  /-- Raised by `step`: an input of `run.inputs` is not well formed, or its operands name a unit the module does not have (R13).
  Safe: the machine stops where the hardware has no such event. -/
  | inputIllFormed
  deriving DecidableEq, Repr

/-- Why a step is refused. -/
inductive Refusal where
  /-- Raised by `exec` for an instruction the model gives no meaning. Safe: the machine stops. -/
  | notModelled (mnemonic : String)
  deriving DecidableEq, Repr

/-! ## Sequencer and lanes -/

/-- R371: a loop stack entry. -/
structure LoopEntry where
  la : Word
  b : Word
  e : Word
  rem : Word
  deriving DecidableEq, Repr

/-- R192: a control-queue entry. -/
structure Token where
  kind : Nat
  payload : Word
  deriving DecidableEq, Repr

/-- What a memory access of a team does (R380 to R390). -/
inductive AccKind where
  | load | store | pref | ldacq | strel
  | amo (op : AmoOp)
  | cas
  deriving DecidableEq, Repr

/-- Where a pending access stands: held at a bucket (R154), waiting at its home slice or, with a remote page, at its link; on its way to the module it is homed
on, alone or as the first of a merged packet whose earlier packets are gone (R231; `result` is the sum of their operands), merged into the packet of a
context (`result` as before); to be walked again; performed. -/
inductive PendAt where
  | held | atSlice | away | awayAfter | behind (lead : Nat) | pageHeld | done
  deriving DecidableEq, Repr

/-- A memory access of a team that has passed translation and has not finished (R284). -/
structure Pend where
  kind : AccKind
  va : Word
  pa : Nat
  mt : Nat
  home : Nat
  rc : Bool
  sy : Bool
  bytes : Nat
  value : Word
  compare : Word
  dst : Nat
  ord : MemOrd
  pc : Word
  place : PendAt
  result : Word
  deriving DecidableEq, Repr

/-- An open lane section (R349): positions are byte offsets in the lane stream. -/
structure Sect where
  num : Nat
  hdr : Nat
  first : Nat
  stop : Nat
  trips : Nat
  full : Bool
  last : Bool
  landed : Nat
  deriving DecidableEq, Repr

/-- R411: the lane state of a bank. Keys of `regs`, `hz` are 256 × lane + register. `hz`, `qhz` (64 × register + lane) and `memhz`
(team-relative byte) hold, newest first, the writes of a destination that may stand in it (R415), each with the lane clock up to which it has not landed (R414), and for
a byte the clock at which its word issued; `flying` holds the flags of words in flight: clock, lane, flags. `retiring` are closed sections: number, the clock up to which a word of it
has not landed, and the clock before which all words up to its end have issued; `numTo` is that clock for the section that retired last, `seen` for the last one that an LWAIT ended with (R286). -/
structure Lanes where
  regs : SMap Lane
  hz : SMap (List (Nat × Lane))
  q : SMap (BitVec 64)
  qhz : SMap (List (Nat × Bool))
  lst : SMap (BitVec 8)
  flying : List (Nat × Nat × BitVec 8)
  gen : SMap (BitVec 32)
  masks : List (BitVec 64)
  memhz : SMap (List (Nat × (Nat × Byte)))
  pos : Nat
  sects : List Sect
  ended : Bool
  atPop : Bool
  clock : Nat
  landed : Nat
  retiring : List (Nat × Nat × Nat)
  any : Bool
  num : Nat
  numTo : Nat
  seen : Nat
  deriving DecidableEq, Repr

/-- R321: the header fields the device reads. -/
structure ImageHeader where
  magic : Nat
  major : Nat
  fid : Nat
  nspat : Nat
  gran : Nat
  lreg : Nat
  accs : Nat
  lvlmap : Nat
  nsw : Nat
  ndr : Nat
  npin : Nat
  nloop : Nat
  entries : List Nat
  ctext : Nat
  clen : Nat
  lane : Nat
  llen : Nat
  loops : Nat
  swtab : Nat
  drtab : Nat
  pins : Nat
  deriving DecidableEq, Repr

/-- A queued engine command (R187): its instruction, the PC of its CMD, and its number in the order of issue (R293). `walk` holds the records and pattern bytes a
taken copy has read (R455), or a started epilogue's parameter block (R450), `snap` the source bytes that a CPG stages (R457); `steps` counts a command's completed steps or rows, `pos` the elements a copy has
moved, `begun` those before its current step, `sc` its scale bytes moved (R456); `started` says that a copy has started, now or before its team left its bank (R458), `trap26` that a 0x26 is due at
the command's end (R155). -/
structure QCmd where
  cmd : Instr
  pc : Word
  num : Nat
  steps : Nat
  pos : Nat
  begun : Nat
  sc : Nat
  walk : List Byte
  snap : Memory
  started : Bool
  trap26 : Bool
  vc : SMap Nat
  deriving DecidableEq, Repr

/-- A flit on its way: destination team and port, value (R197). -/
structure Flit where
  team : Nat
  port : Nat
  value : Word
  deriving DecidableEq, Repr

/-- R197, R199: a flit at its relay slice whose sender has left its bank: the sending team and its port. -/
structure RelayFlit where
  v : Nat
  launch : Nat
  team : Nat
  port : Nat
  flit : Flit
  deriving DecidableEq, Repr

/-- R202: the wait a blocked team executes. -/
inductive Wait where
  | none | kwait | lwait | tag | ownw | phase | wfe | recv
  | queue (i : Nat)
  | send | swp | stop | loads | held | ended
  deriving DecidableEq, Repr

/-- R140, and the states of firmware cores and prologues. -/
inductive Phase where
  | empty | loading | running | stopped | halted
  deriving DecidableEq, Repr

/-- R142: drain mode: not draining, the stub's save half, its restore half; instructions executed in it. -/
inductive Drain where
  | off
  | save (n : Nat)
  | restore (n : Nat)
  deriving DecidableEq, Repr

/-- An outstanding not-present fault of a team's sequencer, lanes or loader (R223); `switched` says that the core has left the team's bank for it (R204). -/
structure SeqFault where
  id : Nat
  va : Word
  answered : Bool
  switched : Bool
  deriving DecidableEq, Repr

/-- `phRaised` and `phAll` say that its PHASE under way has raised PH, and is global (R200). `stubRegs` of a saved context hold s1 to s63 as its stub's save half left them, key 64 the address after its ERET (R145). `evict` marks a stopped team that is to be evicted, for launch `evictFor` (R141, R146); `loadDue` a team whose loading is not over (R123), `stopAt` the tick after that in which it last stopped (R164). `appended` is the cycle in which the newest control-queue entry was appended (R413); `leftWait` the wait that the instruction at PC has left, while its
bank did not execute (R195). A context: a bank of a core (key 2 × core + bank), a firmware core (192 + 4 × complex + core), a launch front end's prologue (200 + die). -/
structure Ctx where
  phase : Phase
  v : Nat
  launch : Nat
  team : Nat
  nteams : Nat
  idx : List Nat
  linked : Bool
  phasel : Nat
  seq : Nat
  fid : Nat
  image : Word
  args : Word
  arglen : Nat
  hdr : ImageHeader
  regs : SMap Word
  busy : SMap Nat
  pc : Word
  sched : Nat
  loops : List LoopEntry
  k : SMap (BitVec 32)
  ctb : Word
  tags : SMap Nat
  ecnt : Word
  ph : BitVec 32
  phRaised : Bool
  phAll : Bool
  mdst : SMap Word
  ev : Bool
  qmin : SMap Nat
  qcap : SMap Nat
  ovt : Word
  skip : Bool
  pinov : Bool
  ctlq : List Token
  appended : Option (BitVec 64)
  rx : SMap (List Word)
  tx : SMap (List Flit)
  cmdq : SMap (List QCmd)
  lanes : Lanes
  vc : SMap Nat
  rcsat : Bool
  epoch : Nat
  mem : List Pend
  swpLatch : Option Nat
  wait : Wait
  leftWait : Wait
  fault : Option SeqFault
  laneFault : Option SeqFault
  drain : Drain
  stubRegs : SMap Word
  gran : List Nat
  accs : List Nat
  pend26 : Bool
  pend27 : Bool
  bootMail : List Word
  tvec : Word
  epc : Word
  ecause : BitVec 8
  eaddr : Word
  hc : Bool
  inh : Bool
  count : Nat
  record : Memory
  evict : Bool
  evictFor : Nat
  loadDue : Bool
  stopAt : Nat
  deriving DecidableEq, Repr

/-! ## Core -/

/-- R278: the owner tag of an accumulator set. -/
structure AccOwner where
  v : Nat
  launch : Nat
  team : Nat
  bank : Nat
  evicted : Bool
  deriving DecidableEq, Repr

/-- R265: an accumulator set; keys of `ent` are 128 × row + column. -/
structure AccSet where
  ent : SMap Lane
  kindInt : Bool
  sat : Bool
  nv : Bool
  ovf : Bool
  lastV : Nat
  owner : Option AccOwner
  deriving DecidableEq, Repr

/-- R447: a weight tile: the bank that loaded it, whether it is that bank's current tile, its format, its 16,384 bytes in the layout of MWL
(column-major) and its scale plane. A core lists its buffers' tiles in the order they were loaded. -/
structure Tile where
  bank : Nat
  cur : Bool
  fmt : Nat
  data : List Byte
  scales : List Byte
  deriving DecidableEq, Repr

/-- R276: the epilogue's output buffer: narrowed rows not yet stored, with their addresses. -/
structure EpiRow where
  addr : Nat
  mem : Bool
  data : List Byte
  deriving DecidableEq, Repr

/-- A command a unit of an engine has started; `rows` are the rows in the epilogue's output buffer (R276). Keys of a core's `units`: 0 loader, 1 array, 2 epilogue, 3 accumulator port, 4 copy; 32 + bank for
a restored epilogue that waits for its unit; 64 + fault for a copy paused by a fault. -/
structure RunCmd where
  ctx : Nat
  v : Nat
  launch : Nat
  team : Nat
  cmd : QCmd
  paused : Option Nat
  released : Bool
  rows : List EpiRow
  deriving DecidableEq, Repr

/-- R220, R222: a TLB entry. `leaf` is word 0 of the leaf; `set` is the set whose way it holds. -/
structure TlbEntry where
  v : Nat
  size : Nat
  vpn : Nat
  leaf : Word
  set : Nat
  locked : Bool
  deriving DecidableEq, Repr

/-- R383, R484: a line of an instruction or lane-stream cache; `pins` names the banks that pin it. -/
structure CacheLine where
  addr : Nat
  v : Nat
  image : Word
  data : List Byte
  pins : List Nat
  deriving DecidableEq, Repr

/-- R180: what the two banks of a logical core share. `scratch` is by physical byte, `owner` by physical granule. `left` is the bank that it
has left for a drain stub (R195); `leaving` says that the core is being emptied, to become the spare of its cluster (R27); `issued` is the cycle after the one in which a lane word
last issued (R472); `charged` says that the static charge of the cycle has been made (R475). -/
structure Core where
  bank : Nat
  left : Nat
  scratch : Memory
  owner : SMap Nat
  lastV : SMap Nat
  withheld : List Nat
  accs : SMap AccSet
  tiles : List Tile
  refills : List Tile
  units : SMap RunCmd
  nextBank : SMap Nat
  tlb : List TlbEntry
  icache : List CacheLine
  lcache : List CacheLine
  errlo : BitVec 32
  site : Nat
  absent : Bool
  frozen : Bool
  leaving : Bool
  issued : BitVec 64
  charged : Bool
  deriving DecidableEq, Repr

/-! ## Guests -/

/-- R98: a ring's registers; `header` is the header unit of the packet at HEAD once the merge unit has read it (R102). -/
structure Ring where
  base : Word
  en : Bool
  size : Nat
  tail : BitVec 32
  head : BitVec 32
  stop : Bool
  code : Nat
  eseq : Nat
  fcause : Nat
  unit : BitVec 32
  header : List Byte
  deriving DecidableEq, Repr

/-- R103: a packet as the merge unit took it. -/
structure Packet where
  ring : Nat
  unit : BitVec 32
  ty : Nat
  seq : Nat
  data : List Byte
  deriving DecidableEq, Repr

/-- What the head packet of a logical queue is doing (R107, R109, R111): nothing yet, in progress (a first request of it waits), waiting, stalled by a fault. -/
inductive QHead where
  | idle | begun | waiting | stalled
  deriving DecidableEq, Repr

/-- R117, R120: where a LAUNCH_INDIRECT stands: its next run may start; a run is on a front end; it waits for every earlier packet, or
for a launch to complete; its last launch is being placed. -/
inductive IndPhase where
  | ready | running | afterAll
  | afterLaunch (l : Nat)
  | lastLaunch (l : Nat)
  deriving DecidableEq, Repr

/-- R117: a LAUNCH_INDIRECT in progress: its packet, the COPY packets under way as it started, run number, record buffer, and the last run's TEAMS and STATUS. -/
structure Indirect where
  packet : Packet
  before : List Packet
  run : Nat
  phase : IndPhase
  record : List Byte
  teams : Nat
  status : Nat
  deriving DecidableEq, Repr

/-- R106: a logical queue. `visit` is the ring the merge unit visits next. `copies` are COPY packets under way with the bytes they have moved (R111). -/
structure LQueue where
  prio : Nat
  en : Bool
  rmask : BitVec 64
  cfgerr : Bool
  done : Bool
  busy : Bool
  visit : Nat
  packets : List Packet
  head : QHead
  ind : Option Indirect
  copies : List (Packet × Nat)
  nextPoll : Nat
  deriving DecidableEq, Repr

/-- A team of a launch that has ended: its PH and clock as it ended (R200, R306). -/
structure EndedTeam where
  ph : BitVec 32
  vc : SMap Nat
  killed : Bool
  deriving DecidableEq, Repr

/-- A started launch (R112, R114). `merged` is the PH of the last global phase whose clocks have merged (R298); `final` is the STATUS and REASON of a launch that has been
ended from outside and whose record is due (R124, R136). -/
structure Launch where
  v : Nat
  q : Nat
  seq : Nat
  run : Nat
  image : Word
  args : Word
  arglen : Nat
  linked : Bool
  phasel : Nat
  eclass : Nat
  trips : List Nat
  doneaddr : Word
  hdr : ImageHeader
  nteams : Nat
  next : Nat
  ended : SMap EndedTeam
  retired : Nat
  faulted : Bool
  epoch : Nat
  cids : SMap Nat
  merged : BitVec 32
  final : Option (Nat × Nat)
  deriving DecidableEq, Repr

/-- R81, R83: the registers and records of a VNPU; `overrun` says that EOVR has been written since the quota was exhausted (R163). -/
structure Vnpu where
  rings : SMap Ring
  queues : SMap LQueue
  chg : Bool
  eused : Nat
  exhausted : Bool
  overrun : Bool
  eovr : Word
  errlo : BitVec 32
  tf : SMap (List Byte)
  tfcnt : Nat
  mp : SMap (List Byte)
  mpcnt : Nat
  mc : SMap (List Byte)
  mccnt : Nat
  epoch : Nat
  budEvt : BitVec 32
  resetting : Bool
  deriving DecidableEq, Repr

/-- An evicted team's save area (R141); `placing` while its restore is due: its context, its allotment's bytes, its tiles, spilled sets and engine commands. -/
structure Saved where
  ctx : Ctx
  core : Nat
  bank : Nat
  bytes : Memory
  stub : Bool
  tiles : List Tile
  sets : SMap AccSet
  cmds : List (Nat × QCmd)
  epi : List EpiRow
  charge : Nat
  placing : Bool
  deriving DecidableEq, Repr

/-- R84, R88: a contract in force, with the EMAX its admission read. -/
structure Contract where
  bytes : List Byte
  emax : Nat
  deriving DecidableEq, Repr

/-- R127: a window record. -/
structure Window where
  start : Nat
  len : Nat
  cores : BitVec 96
  owner : Nat
  shared : Bool
  valid : Bool
  deriving DecidableEq, Repr

/-- R165 to R178, R272 to R274: a cluster's power state. Voltages in mV, `freq` in 25 MHz. `slow` says that the current cycle is stretched, `held` that it lasts
for one more period; `clocked` says that the period that runs is a cycle's first; `part` is what is left of a period, in 25 MHz of 1,600. -/
structure Cluster where
  level : Nat
  cap : Nat
  vc : Nat
  vl : Nat
  freq : Nat
  wa : Bool
  ddtThr : Nat
  alarms : BitVec 32
  bal : BitVec 32
  slope : Nat
  gcode : Nat
  gstate : Nat
  vl1 : Nat
  vl2 : Nat
  vl3 : Nat
  mism : SMap Nat
  products : SMap Nat
  dcnt : BitVec 32
  stretch : Nat
  slow : Bool
  held : Bool
  clocked : Bool
  throttle : Nat
  conflict : Nat
  cycle : BitVec 64
  part : Nat
  deriving DecidableEq, Repr

/-- R228: a line held by a slice. -/
structure SliceLine where
  line : Nat
  way : Nat
  owner : Nat
  dirty : Bool
  pins : List Nat
  deriving DecidableEq, Repr

/-- R38 to R44: a Derdar Link port. `width` is the number of lanes that its lanes and spares left allow (R21); `credits` are held by class, `due` are those to be
returned to the peer. -/
structure Port where
  state : Nat
  lanes : Nat
  width : Nat
  peer : Nat
  sparesTx : Nat
  sparesRx : Nat
  chg : Bool
  crcerr : Nat
  replays : Nat
  txSeq : Nat
  rxGood : Nat
  replay : List (List Byte)
  discarding : Bool
  nakDue : Bool
  credits : SMap Nat
  due : SMap Nat
  queues : SMap (List (List Byte))
  sinceMig : Nat
  lastOther : Nat
  deriving DecidableEq, Repr

/-- R48: a page move under way; `vpn16` is the page's first; `stop` says that something has happened that keeps the page at its old home (R49). -/
structure Move where
  v : Nat
  vpn16 : Nat
  size : Nat
  dest : Nat
  pa : Nat
  driver : Bool
  stop : Bool
  deriving DecidableEq, Repr

/-- A fault record's subject (R224): who waits for the answer. -/
structure OutFault where
  id : Nat
  v : Nat
  ctx : Nat
  unit : Nat
  engine : Bool
  lane : Bool
  va : Word
  kind : Nat
  malf : Bool
  src : Nat
  deriving DecidableEq, Repr

/-- R44 to R52: collective inputs taken and waiting for their instance (R461); `done` once the outputs are written, `bad` for a command that was rejected as it was taken. -/
structure ColWait where
  launch : Nat
  cid : Nat
  inst : Nat
  team : Nat
  ctx : Nat
  cmd : QCmd
  code : Nat
  data : List Byte
  done : Bool
  bad : Bool
  deriving DecidableEq, Repr

/-! ## Firmware -/

/-- An input: an event and what it carries. -/
structure Event where
  i : Instr
  arg : EventArg
  deriving DecidableEq, Repr

/-- What runs on the complexes: the boot ROM, the firmware, recovery (R63), nothing (R76). -/
inductive FwMode where
  | rom | running | recovery | dead
  deriving DecidableEq, Repr

/-- R14, R21: where a logical core lies, and its withheld granules. -/
structure CorePlace where
  site : Nat
  absent : Bool
  withheld : List Nat
  deriving DecidableEq, Repr

/-- R15, R64, R76: what the service part of the configuration image holds: spare maps, the SVCREQ counts with the requests made (R29), the failed complexes. -/
structure Service where
  places : SMap CorePlace
  spareUsed : SMap Nat
  sliceMap : SMap Nat
  repairSpent : List Nat
  spareFrames : SMap Nat
  cores : Nat
  slices : Nat
  lanes : Nat
  granules : Nat
  cplx : Nat
  requests : List (Nat × Nat)
  kaleFailed : Bool
  chardFailed : Bool
  deriving DecidableEq, Repr

/-- R75: the active complex has failed and its standby takes over, during a live update or not. -/
inductive Failover where
  | none
  | failed (updating : Bool)
  deriving DecidableEq, Repr

/-- R55 to R77. `service` is the service part as the device last wrote it (none: as the flash came with it), `mapsHeld` says that a
fundamental reset has kept the maps in SRAM (R18), `mirror` is the standby's copy of the state table (R73, R75). `latched` is the command in progress, as the doorbell found it; `heldSpdm` are SPDM requests held during a takeover (R77). -/
structure Firmware where
  mode : FwMode
  flash : Memory
  counter : Nat
  firstVer : Option Nat
  fwver : Nat
  upd : Nat
  reason : Nat
  pendc : Bool
  idok : Bool
  fallbk : Bool
  rolled : Bool
  bank : Nat
  chardActive : Bool
  chg : Bool
  staged : Option Nat
  lastStageOk : Bool
  passed : List Nat
  standby : Bool
  kaleFailed : Bool
  chardFailed : Bool
  mailbox : Memory
  mailBusy : Bool
  latched : List Byte
  heldSpdm : List Event
  mirror : List Word
  failover : Failover
  sram : SMap Memory
  quiesced : Bool
  quiesceStart : Nat
  service : Option Service
  mapsHeld : Bool
  deriving DecidableEq, Repr

/-! ## The module -/

/-- Whose turn a step is: a context's sequencer, its lanes, an engine of a core (3: the epilogue's stores, 4: what its engines complete), a context's pending accesses and flits, the time base. -/
inductive Turn where
  | seq (ctx : Nat)
  | lanes (ctx : Nat)
  | engine (core eng : Nat)
  | mem (ctx : Nat)
  | beat
  deriving DecidableEq, Repr

/-- Who makes a request that may have to wait (log 56): a pending access of a context, a turn of the rota, an event; nobody once its team has ended, but its launch for a
remote store that is not acknowledged (R110). -/
inductive Agent where
  | nobody
  | access (ctx : Nat)
  | turn (t : Turn)
  | event (e : Event)
  | launch (l : Nat)
  deriving DecidableEq, Repr

/-- A request held at a regulation point (R153): who waits for it, and the context it belongs to. -/
structure HeldReq where
  who : Agent
  ctx : Nat
  charge : Nat
  deriving DecidableEq, Repr

/-- R151: a token bucket. -/
structure Bucket where
  rate : Nat
  depth : Nat
  level : Nat
  mode : Nat
  exh : Nat
  trapped : Bool
  held : List HeldReq
  deriving DecidableEq, Repr

/-- What an agent that waits has been given so far: a bucket has admitted a request of it, another module has answered one (0 done, 1 refused, 2
unreachable), the host has not (R33), a budget trap of its command is due (R155), it was first due at a tick, a store of it has left for another module at a tick; and the requests
that it has issued and that are not over (R94 step 4): a read or a write for a VNPU and a context (300 + die: of a front end), with its memory type, home, address (for a write the line's, with the
bytes by their place in it), whether its page is race-checked, and the clock of its command's issue; or an access of a team that waits where it was issued. -/
inductive Given where
  | paid (bucket charge : Nat)
  | reply (msg : RemoteMsg) (status : Nat) (data : List Byte)
  | hostLost
  | trap (ctx : Nat)
  | began (tick : Nat)
  | sent (tick : Nat)
  | read (v ctx mt home pa n : Nat) (rc : Bool) (vc : SMap Nat)
  | write (v ctx mt home pa : Nat) (runs : List (Nat × List Byte)) (rc : Bool) (vc : SMap Nat)
  | access (ctx : Nat) (p : Pend)
  deriving DecidableEq, Repr

/-- The model's own fields (log 1, 6, 56, 57): the inputs that come next, those that wait for the next tick, whose turn it is, the context that executes, the
engine unit that runs, what the current event carries, the number of the next free value, the sixteenth of the tick that runs, how many pieces more than one an engine does in a turn, and the number of the next engine command; who
runs, what waiting agents have been given, the remote requests not yet answered, and of this step: whether it has to be taken back, what it has been given,
and its budget traps (VNPU, context, engine), the buckets at which it has found a held request of its own, and whether a copy looks ahead in its step (R156). -/
structure Run where
  inputs : List Event
  later : List Event
  rota : List Turn
  cur : Nat
  unit : Nat
  arg : EventArg
  free : Nat
  period : Nat
  pace : Nat
  agent : Agent
  ledger : List (Agent × Given)
  asked : List (Agent × RemoteMsg)
  nextTag : Nat
  nextCmd : Nat
  stuck : Bool
  spent : List Given
  traps : List (Nat × Nat × Bool)
  found : List Nat
  ahead : Bool
  deriving DecidableEq, Repr

/-- R33: a PCIe memory request of the module: requester function, whether it writes, bus address, bytes. -/
structure HostRequest where
  fn : Nat
  write : Bool
  addr : Nat
  bytes : Nat
  deriving DecidableEq, Repr

/-- R45: an answer to another module's request, none where it is refused: the port it leaves on, the module, the request's tag. -/
structure Answer where
  port : Nat
  dest : Nat
  tag : Nat
  data : Option (List Byte)
  deriving DecidableEq, Repr

/-- R48: a page on its way to its new home in migration-class flits, or its new leaf on its way to another module: module, the ports of its lines whose address has
bit 6 clear and set (R43), VNPU, first page number, size, the new leaf's first word there, its bytes. -/
structure PageMsg where
  dest : Nat
  even : Nat
  odd : Nat
  v : Nat
  vpn16 : Nat
  size : Nat
  leaf : Word
  data : Memory
  deriving DecidableEq, Repr

/-- R52: a shard of a collective on its way in collective-class flits: port, instance, the team it comes from, its bytes. -/
structure ShardMsg where
  port : Nat
  launch : Nat
  cid : Nat
  inst : Nat
  team : Nat
  data : List Byte
  deriving DecidableEq, Repr

/-- What leaves the module (log 20): raised vectors (function, vector), MCTP messages, SPDM answers, link flits, remote requests and answers, pages, shards,
PCIe requests, the last register read, THERMTRIP_N. Newest last. -/
structure Out where
  vectors : List (Nat × Nat)
  mctp : List (List Byte)
  spdm : List (List Byte)
  flits : List (Nat × List Byte)
  remote : List RemoteMsg
  answers : List Answer
  pages : List PageMsg
  shards : List ShardMsg
  pcie : List HostRequest
  read : Word
  thermtrip : Bool
  deriving DecidableEq, Repr

/-- Management registers and repair state (R19 to R29, R233, R234). `transient` counts by unit, `transientAt` holds the last 16 times (R23), `lasting` counts lasting errors (R73); `pending` and `linkPending` are
errors of cores and of link lanes that wait for a retirement to end (R26); `threshold` is the retry threshold; `requests` are the service
requests made so far: kind, unit (R29); `remoteCounts` counts remote accesses by frame and module: 8 × frame + module (R48). -/
structure Mgmt where
  winbase : Word
  cores : Nat
  slices : Nat
  lanes : Nat
  granules : Nat
  cplx : Nat
  pend : Bool
  modcfg : Word
  degr : BitVec 8
  reroute : BitVec 8
  ucieFailed : BitVec 16
  d2dChg : Bool
  migStatus : Nat
  migDone : Bool
  moving : List Move
  moves : SMap (List Nat)
  transient : SMap Nat
  transientAt : SMap (List Nat)
  lasting : SMap Nat
  threshold : Nat
  requests : List (Nat × Nat)
  spareUsed : SMap Nat
  sliceMap : SMap Nat
  remap : SMap (Nat × BitVec 256)
  pending : List (Nat × Bool)
  linkPending : List (Nat × Bool)
  repairSpent : List Nat
  remoteCounts : SMap Nat
  deriving DecidableEq, Repr

/-- R126 to R138. `submitted` are FT_FRAME and the records as GO found them (R126); `idle` are class A windows, with their VNPU, that stay idle to their end (R97); `claims` names
the launch for which a bank has been emptied (R476). -/
structure Frame where
  table : Memory
  frame : Nat
  submitted : Nat × Memory
  busy : Bool
  done : Bool
  code : Nat
  win : Nat
  frames : BitVec 32
  tick : BitVec 32
  view : List Window
  len : Nat
  staged : Option (Nat × List Window)
  lastDone : Nat
  rrCluster : SMap Nat
  rrLevel : SMap Nat
  holds : SMap Nat
  idle : List (Nat × Nat)
  claims : SMap Nat
  started : Bool
  deriving DecidableEq, Repr

/-- R87 to R93. `submitted` is CT_REC as GO found it (R88). -/
structure Contracts where
  record : Memory
  submitted : List Byte
  busy : Bool
  done : Bool
  code : Nat
  vnpu : Nat
  inForce : SMap Contract
  staged : SMap (Option Contract)
  lastDone : Nat
  deriving DecidableEq, Repr

/-- R214 to R226, R296: translation registers, walkers' L2 TLBs, the fault ring, RSCFG. Keys of `td` are 32 × v + 4 × size + register. -/
structure Xlate where
  td : SMap Word
  l2 : SMap (List TlbEntry)
  tiBusy : Bool
  tiDone : Bool
  tiReq : Word
  pfqBase : Word
  pfqHead : BitVec 32
  pfqTail : BitVec 32
  nextId : BitVec 32
  outstanding : List OutFault
  unposted : List OutFault
  rsBase : Nat
  rsN : Nat
  rsEn : Bool
  deriving DecidableEq, Repr

/-- `stubs` holds a context that runs a drain stub, or its restore half, as R141 step 1 saved it; `pba` the pending bits of masked vectors by function, `aer` function 0's uncorrectable
error status (R30, R32). -/
structure State where
  run : Run
  out : Out
  tick : BitVec 64
  ctxs : SMap Ctx
  cores : SMap Core
  vnpus : SMap Vnpu
  numVFs : Nat
  launches : SMap Launch
  nextLaunch : Nat
  saves : SMap Saved
  stubs : SMap Ctx
  nextSave : Nat
  contracts : Contracts
  frame : Frame
  buckets : SMap Bucket
  weights : SMap (BitVec 16)
  levels : List (Nat × Nat)
  overhead : Nat
  pwrCap : Nat
  boost : Bool
  railsOff : Bool
  clusters : SMap Cluster
  xlate : Xlate
  slices : SMap (List SliceLine)
  collectives : List ColWait
  relay : List RelayFlit
  mgmt : Mgmt
  ports : SMap Port
  msix : SMap Memory
  pba : SMap (BitVec 64)
  aer : BitVec 32
  fw : Firmware
  dev : Memory
  host : Memory
  deriving DecidableEq, Repr

/-! ## Defaults and reset -/

/-- A request of nothing. -/
def noMsg : RemoteMsg := { src := 0, dest := 0, port := 0, tag := 0, v := 0, kind := .load, pa := 0, bytes := 0, data := [], compare := 0 }

/-- The event argument that carries nothing. -/
def noArg : EventArg :=
  { value := 0, n := 0, m := 0, off := 0, len := 0, write := false, flag := false, flag2 := false, flag3 := false,
    unit := .core, site := .noAccess, data := [], nums := [], nums2 := [], lost := 0, scrub := .clean,
    msg := noMsg }

def noHeader : ImageHeader :=
  { magic := 0, major := 0, fid := 0, nspat := 0, gran := 0, lreg := 0, accs := 0, lvlmap := 0, nsw := 0, ndr := 0, npin := 0, nloop := 0,
    entries := [], ctext := 0, clen := 0, lane := 0, llen := 0, loops := 0, swtab := 0, drtab := 0, pins := 0 }

/-- R123: lane state at placement. -/
def freshLanes : Lanes :=
  { regs := [], hz := [], q := [], qhz := [], lst := [], flying := [], gen := [], masks := [BitVec.allOnes 64], memhz := [], pos := 0,
    sects := [], ended := false, atPop := false, clock := 0, landed := 0, retiring := [], any := false, num := 0, numTo := 0, seen := 0 }

/-- An empty bank; the resets of R190 and R248, everything else 0 (R123; log 3). -/
def freshCtx : Ctx :=
  { phase := .empty, v := 0, launch := 0, team := 0, nteams := 0, idx := [], linked := false, phasel := 0, seq := 0, fid := 0,
    image := 0, args := 0, arglen := 0, hdr := noHeader, regs := [], busy := [], pc := 0, sched := 0, loops := [], k := [], ctb := 0,
    tags := [], ecnt := 0, ph := 0, phRaised := false, phAll := false, mdst := [], ev := false, qmin := [], qcap := [], ovt := 0x115, skip := false,
    pinov := false, ctlq := [], appended := none, rx := [], tx := [], cmdq := [], lanes := freshLanes, vc := [], rcsat := false, epoch := 0, mem := [],
    swpLatch := none, wait := .none, leftWait := .none, fault := none, laneFault := none, drain := .off, stubRegs := [], 
    gran := [], accs := [], pend26 := false, pend27 := false, bootMail := [0, 0, 0, 0, 0], tvec := 0, epc := 0, ecause := 0, eaddr := 0, hc := false,
    inh := false, count := 0, record := [], evict := false, evictFor := 0, loadDue := false, stopAt := 0 }

def freshSet : AccSet := { ent := [], kindInt := false, sat := false, nv := false, ovf := false, lastV := 0, owner := none }

/-- A core as first boot leaves it; its reader fills site j of its cluster (R14). -/
def freshCore : Core :=
  { bank := 0, left := 0, scratch := [], owner := [], lastV := [], withheld := [], accs := [], tiles := [], refills := [], units := [], nextBank := [],
    tlb := [], icache := [], lcache := [], errlo := 0, site := 0, absent := false, frozen := false, leaving := false, issued := 0, charged := false }

def freshRing : Ring :=
  { base := 0, en := false, size := 0, tail := 0, head := 0, stop := false, code := 0, eseq := 0, fcause := 0, unit := 0, header := [] }

def freshQueue : LQueue :=
  { prio := 0, en := false, rmask := 0, cfgerr := false, done := false, busy := false, visit := 0, packets := [], head := .idle, ind := none,
    copies := [], nextPoll := 0 }

def freshVnpu : Vnpu :=
  { rings := [], queues := [], chg := false, eused := 0, exhausted := false, overrun := false, eovr := 0, errlo := 0, tf := [], tfcnt := 0, mp := [],
    mpcnt := 0, mc := [], mccnt := 0, epoch := 0, budEvt := 0, resetting := false }

def freshBucket : Bucket := { rate := 0, depth := 0, level := 0, mode := 0, exh := 0, trapped := false, held := [] }

/-- R165, R167, R172, R174, R177, R274: level 0 is 200 MHz at 400 mV. VL reads 0, that is 300 mV, until the first grant (the reset
column of R167); the loop's values follow VC at the first grant (R273). -/
def freshCluster : Cluster :=
  { level := 0, cap := 7, vc := 400, vl := 300, freq := 0, wa := false, ddtThr := 30, alarms := 0, bal := 0, slope := 0x100,
    gcode := 0, gstate := 0, vl1 := 300, vl2 := 300, vl3 := 300, mism := [], products := [], dcnt := 0, stretch := 0,
    slow := false, held := false, clocked := true, throttle := 0, conflict := 0, cycle := 0, part := 0 }

def freshPort : Port :=
  { state := 0, lanes := 0, width := 16, peer := 0, sparesTx := 2, sparesRx := 2, chg := false, crcerr := 0, replays := 0, txSeq := 0, rxGood := 1023, replay := [],
    discarding := false, nakDue := false, credits := [], due := [], queues := [], sinceMig := 0, lastOther := 0 }

/-- R160: the default weights. -/
def defaultWeights : SMap (BitVec 16) :=
  [(0, 1), (1, 3), (2, 6), (3, 4), (4, 22), (5, 18), (6, 16), (7, 20), (8, 24), (9, 2), (10, 3), (11, 8), (12, 40), (13, 8)]

/-- R165: the default clock of each level, in 25 MHz, and its VC in mV. -/
def defaultLevels : List (Nat × Nat) := [(8, 400), (16, 410), (24, 430), (32, 450), (40, 470), (48, 500), (56, 550), (64, 600)]

/-- R126: the default window: the whole frame of 1,000 units, every core, VNPU 0. -/
def defaultWindow : Window :=
  { start := 0, len := 1000000, cores := BitVec.allOnes 96, owner := 0, shared := false, valid := true }

def freshMgmt : Mgmt :=
  { winbase := 0, cores := 0, slices := 0, lanes := 0, granules := 0, cplx := 0, pend := false, modcfg := 0x20, degr := 0,
    reroute := 0, ucieFailed := 0, d2dChg := false, migStatus := 0, migDone := false, moving := [], moves := [],
    transient := [], transientAt := [], lasting := [], threshold := 16, requests := [], spareUsed := [], sliceMap := [], remap := [], pending := [], linkPending := [],
    repairSpent := [], remoteCounts := [] }

def freshFrame : Frame :=
  { table := [], frame := 1000, submitted := (0, []), busy := false, done := false, code := 0, win := 0, frames := 0, tick := 0, view := [defaultWindow],
    len := 1000, staged := none, lastDone := 0, rrCluster := [], rrLevel := [], holds := [], idle := [], claims := [], started := false }

def freshContracts : Contracts :=
  { record := [], submitted := [], busy := false, done := false, code := 0, vnpu := 0, inForce := [], staged := [], lastDone := 0 }

def freshXlate : Xlate :=
  { td := [], l2 := [], tiBusy := false, tiDone := false, tiReq := 0, pfqBase := 0, pfqHead := 0, pfqTail := 0, nextId := 0,
    outstanding := [], unposted := [], rsBase := 0, rsN := 0, rsEn := false }

def freshFirmware : Firmware :=
  { mode := .rom, flash := [], counter := 0, firstVer := none, fwver := 0, upd := 0, reason := 0, pendc := false, idok := false, fallbk := false,
    rolled := false, bank := 0, chardActive := false, chg := false, staged := none, lastStageOk := false, passed := [],
    standby := false, kaleFailed := false, chardFailed := false, mailbox := [], mailBusy := false, latched := [], heldSpdm := [], mirror := [], failover := .none, sram := [],
    quiesced := false, quiesceStart := 0, service := none, mapsHeld := false }

/-- The module right after power-on reset: the boot sequence is what comes next (R18, R62). -/
def State.reset : State :=
  { run := { inputs := [{ i := .bootSequence, arg := noArg }], later := [], rota := [.beat], cur := 0, unit := 0, arg := noArg, free := 0, period := 0, pace := 0, agent := .nobody,
             ledger := [], asked := [], nextTag := 0, nextCmd := 0, stuck := false, spent := [], traps := [], found := [], ahead := false },
    out := { vectors := [], mctp := [], spdm := [], flits := [], remote := [], answers := [], pages := [], shards := [], pcie := [], read := 0, thermtrip := false },
    tick := 0, ctxs := [], cores := [], vnpus := [], numVFs := 0, launches := [], nextLaunch := 1, saves := [], stubs := [], nextSave := 1,
    contracts := freshContracts, frame := freshFrame, buckets := [], weights := defaultWeights, levels := defaultLevels, overhead := 0, pwrCap := 360,
    boost := true, railsOff := false, clusters := [], xlate := freshXlate, slices := [], collectives := [], relay := [], mgmt := freshMgmt,
    ports := [], msix := [], pba := [], aer := 0, fw := freshFirmware, dev := [], host := [] }

end Sys2Proof.Machine
end

