-- ==== Sys2Proof/Machine/Maps.lean ====
section
/-!
DEFINITION. Sparse maps and byte memory: lookup, write and removal that keep keys strictly rising; little-endian accesses (R1).
-/
namespace Sys2Proof.Machine

/-- The value at a key, if listed. -/
def mfind {α : Type} (m : SMap α) (k : Nat) : Option α :=
  match m with
  | [] => none
  | (a, v) :: r => if a = k then some v else if k < a then none else mfind r k

/-- The value at a key, or the default. -/
def mget {α : Type} (m : SMap α) (k : Nat) (d : α) : α := (mfind m k).getD d

/-- Writes a key. -/
def mput {α : Type} (m : SMap α) (k : Nat) (v : α) : SMap α :=
  match m with
  | [] => [(k, v)]
  | (a, w) :: r => if k < a then (k, v) :: (a, w) :: r else if a = k then (k, v) :: r else (a, w) :: mput r k v

/-- Removes a key. -/
def mdel {α : Type} (m : SMap α) (k : Nat) : SMap α :=
  match m with
  | [] => []
  | (a, w) :: r => if k < a then (a, w) :: r else if a = k then r else (a, w) :: mdel r k

/-- Keys strictly rising, all at or above a bound. -/
def msorted {α : Type} (lo : Nat) (m : SMap α) : Bool :=
  match m with
  | [] => true
  | (a, _) :: r => decide (lo ≤ a) && msorted (a + 1) r

/-! ## Byte memory -/

/-- What an address that is not listed reads as (log 4, 5). -/
def unlistedByte : BitVec 8 := 0

/-- The canonical form: addresses strictly rising, no entry equal to what an unlisted address reads as. -/
def Memory.wf (m : Memory) : Bool := msorted 0 m && m.all fun e => e.2 != unlistedByte

def readByte (m : Memory) (a : Nat) : BitVec 8 := mget m a unlistedByte

def writeByte (m : Memory) (a : Nat) (v : BitVec 8) : Memory := if v = unlistedByte then mdel m a else mput m a v

/-- The n bytes from a, lowest address first. -/
def readBytes (m : Memory) (a : Nat) : Nat → List Byte
  | 0 => []
  | n + 1 => readByte m a :: readBytes m (a + 1) n

def writeBytes (m : Memory) (a : Nat) : List Byte → Memory
  | [] => m
  | v :: r => writeBytes (writeByte m a v) (a + 1) r

/-- The number little-endian bytes hold (R1). -/
def leNat : List Byte → Nat
  | [] => 0
  | v :: r => v.toNat + 256 * leNat r

/-- The n low bytes of a number, little-endian. -/
def natLe : Nat → Nat → List Byte
  | 0, _ => []
  | n + 1, x => BitVec.ofNat 8 x :: natLe n (x / 256)

def readLe (m : Memory) (a n : Nat) : Nat := leNat (readBytes m a n)

def writeLe (m : Memory) (a n x : Nat) : Memory := writeBytes m a (natLe n x)

/-- Bytes i .. i + n − 1 of a record, as a number; bytes past its end read 0. -/
def fieldAt (r : List Byte) (i n : Nat) : Nat := leNat ((r.drop i).take n)

/-- Bits hi:lo of a number. -/
def nbits (x hi lo : Nat) : Nat := x / 2 ^ lo % 2 ^ (hi + 1 - lo)

def wbits (x : Word) (hi lo : Nat) : Nat := nbits x.toNat hi lo

/-- All bytes of a list are 0. -/
def allZero (l : List Byte) : Bool := l.all (· == 0)

/-- A list cut into pieces of n bytes. -/
def chunk (n : Nat) : Nat → List Byte → List (List Byte)
  | 0, _ => []
  | k + 1, l => l.take n :: chunk n k (l.drop n)

end Sys2Proof.Machine
end

