-- ==== Sys2Proof/Machine/Floats.lean ====
section
/-!
DEFINITION. Number formats and their arithmetic: decoding (R237 to R241), rounding (R243 to R247, R250), conversions (R251 to R257), the FSPEC
functions (R426). A finite value is an exact dyadic or rational; every result is rounded once.
-/
namespace Sys2Proof.Machine

/-! ## Formats (R236, R237) -/

def fmtF32 : Nat := 0
def fmtBF16 : Nat := 1
def fmtF16 : Nat := 2
def fmtE4M3 : Nat := 3
def fmtE5M2 : Nat := 4
def fmtI8 : Nat := 5
def fmtI32 : Nat := 6
def fmtDB8 : Nat := 7
def fmtDB4 : Nat := 8

/-- Exponent bits, fraction bits, bias of a floating-point format. -/
def expBits (f : Nat) : Nat := match f with | 0 => 8 | 1 => 8 | 2 => 5 | 3 => 4 | _ => 5
def fracBits (f : Nat) : Nat := match f with | 0 => 23 | 1 => 7 | 2 => 10 | 3 => 3 | _ => 2
def biasOf (f : Nat) : Int := match f with | 0 => 127 | 1 => 127 | 2 => 15 | 3 => 7 | _ => 15

/-- The least exponent of a normal value. -/
def eminOf (f : Nat) : Int := 1 - biasOf f

/-- The encodings of the largest finite value, infinity and the canonical NaN, with sign 0. -/
def maxEnc (f : Nat) : Nat := match f with | 0 => 0x7F7FFFFF | 1 => 0x7F7F | 2 => 0x7BFF | 3 => 0x7E | _ => 0x7B
def infEnc (f : Nat) : Nat := match f with | 0 => 0x7F800000 | 1 => 0x7F80 | 2 => 0x7C00 | 3 => 0x7F | _ => 0x7C
def nanEnc (f : Nat) : Nat := match f with | 0 => 0x7FC00000 | 1 => 0x7FC0 | 2 => 0x7E00 | 3 => 0x7F | _ => 0x7E

def signBit (f : Nat) : Nat := expBits f + fracBits f
def fmtBits (f : Nat) : Nat := match f with | 0 => 32 | 1 => 16 | 2 => 16 | 6 => 32 | 8 => 4 | _ => 8

/-- A value: NaN, an infinity, or (−1)^neg × m × 2^e. -/
inductive FVal where
  | nan
  | inf (neg : Bool)
  | fin (neg : Bool) (m : Nat) (e : Int)
  deriving DecidableEq, Repr

def FVal.isZero : FVal → Bool
  | .fin _ 0 _ => true
  | _ => false

/-- R237: the value of an encoding. -/
def decodeF (f : Nat) (bits : Nat) : FVal :=
  let fb := fracBits f
  let frac := bits % 2 ^ fb
  let ex := bits / 2 ^ fb % 2 ^ expBits f
  let neg := bits / 2 ^ signBit f % 2 == 1
  let top := 2 ^ expBits f - 1
  if f = fmtE4M3 then
    if ex = top ∧ frac = 7 then .nan
    else if ex = 0 then .fin neg frac (eminOf f - fb)
    else .fin neg (2 ^ fb + frac) ((ex : Int) - biasOf f - fb)
  else if ex = top then (if frac = 0 then .inf neg else .nan)
  else if ex = 0 then .fin neg frac (eminOf f - fb)
  else .fin neg (2 ^ fb + frac) ((ex : Int) - biasOf f - fb)

/-- R250: E4M3 and E5M2 keep their subnormals in both modes. -/
def flushes (f : Nat) (full : Bool) : Bool := !full && decide (f ≤ 2)

/-- An input of a lane word: a subnormal reads as zero of its sign in a flush-mode section. -/
def inputF (f : Nat) (full : Bool) (bits : Nat) : FVal :=
  match decodeF f bits with
  | .fin neg m e => if flushes f full && decide (m < 2 ^ fracBits f) then .fin neg 0 e else .fin neg m e
  | v => v

/-! ## Flags (R246) -/

abbrev LFlags := BitVec 8
def flNX : LFlags := 1
def flUF : LFlags := 2
def flOF : LFlags := 4
def flDZ : LFlags := 8
def flNV : LFlags := 16
def flSAT : LFlags := 32

/-! ## Rounding (R243 to R247) -/

/-- floor(log2(num / den)), both positive. -/
def ilog2 (num den : Nat) : Int :=
  let k : Int := (Nat.log2 num : Int) - (Nat.log2 den : Int)
  if 0 ≤ k then (if num < den * 2 ^ k.toNat then k - 1 else k)
  else (if num * 2 ^ (-k).toNat < den then k - 1 else k)

/-- num / den × 2^k as a pair of naturals. -/
def scale2 (num den : Nat) (k : Int) : Nat × Nat :=
  if 0 ≤ k then (num * 2 ^ k.toNat, den) else (num, den * 2 ^ (-k).toNat)

/-- R243, R245: the rounded integer of num / den with the sign of x, in a mode; `even` says whether the lower neighbour is even.
`u` is the stochastic draw. -/
def roundInt (mode : Nat) (u : Nat) (neg : Bool) (num den : Nat) : Nat :=
  let a := num / den
  let r := num % den
  if r = 0 then a
  else
    let up : Bool :=
      match mode with
      | 0 => decide (2 * r > den) || (2 * r == den && a % 2 == 1)
      | 1 => false
      | 2 => neg
      | 3 => !neg
      | 4 => decide (2 * r ≥ den)
      | _ => decide (r * 2 ^ 24 / den > u)
    if up then a + 1 else a

/-- The encoding of k × 2^q, which the format holds. -/
def encodeMag (f : Nat) (k : Nat) (q : Int) : Nat :=
  if k = 0 then 0
  else
    let fb := fracBits f
    let e := (Nat.log2 k : Int) + q
    if e < eminOf f then (scale2 k 1 (q - (eminOf f - fb))).1 / (scale2 k 1 (q - (eminOf f - fb))).2
    else
      let m := (scale2 k 1 (q - (e - fb))).1 / (scale2 k 1 (q - (e - fb))).2
      (e + biasOf f).toNat * 2 ^ fb + (m - 2 ^ fb)

/-- Whether k × 2^q exceeds the largest finite magnitude of the format. -/
def overflows (f : Nat) (k : Nat) (q : Int) : Bool :=
  match decodeF f (maxEnc f) with
  | .fin _ m e =>
    let d := q - e
    if 0 ≤ d then decide (k * 2 ^ d.toNat > m) else decide (k > m * 2 ^ (-d).toNat)
  | _ => false

def withSign (f : Nat) (neg : Bool) (x : Nat) : Nat := if neg then x + 2 ^ signBit f else x

/-- R248: the OVT field of a format. -/
def ovtChoice (ovt : Word) (f : Nat) : Nat := wbits ovt (2 * f + 1) (2 * f)

/-- R247: an overflow's result under a choice. -/
def overflowResult (f choice mode : Nat) (neg : Bool) : Nat :=
  if choice = 2 then nanEnc f
  else if choice = 1 ∧ (mode = 0 ∨ mode = 4 ∨ mode = 5 ∨ (mode = 3 ∧ !neg) ∨ (mode = 2 ∧ neg)) then withSign f neg (infEnc f)
  else withSign f neg (maxEnc f)

/-- How a word rounds: mode, stochastic draw, subnormal mode, OVT. -/
structure Rnd where
  mode : Nat
  u : Nat
  full : Bool
  ovt : Word
  deriving DecidableEq, Repr

/-- R250: whether num / den × 2^e, rounded to the format's precision with no lower exponent bound, is below the smallest normal. -/
def tinyRounded (f : Nat) (r : Rnd) (neg : Bool) (num den : Nat) (e : Int) : Bool :=
  let q := ilog2 num den + e - fracBits f
  let p := scale2 num den (e - q)
  decide ((Nat.log2 (roundInt r.mode r.u neg p.1 p.2) : Int) + q < eminOf f)

/-- R244, R246, R247, R250: rounds the nonzero magnitude num / den × 2^e with a sign to a floating-point format. -/
def roundMag (f : Nat) (r : Rnd) (neg : Bool) (num den : Nat) (e : Int) : Nat × LFlags :=
  let fb := fracBits f
  let top := ilog2 num den + e
  let q := if !flushes f r.full && decide (top < eminOf f) then eminOf f - fb else top - fb
  let p := scale2 num den (e - q)
  let k := roundInt r.mode r.u neg p.1 p.2
  let nx : LFlags := if p.1 % p.2 = 0 then 0 else flNX
  if overflows f k q then (overflowResult f (ovtChoice r.ovt f) r.mode neg, flOF ||| flNX)
  else
    let tiny := tinyRounded f r neg num den e
    if flushes f r.full && tiny && k != 0 then (withSign f neg 0, flUF ||| flNX)
    else (withSign f neg (encodeMag f k q), if tiny && nx != 0 then nx ||| flUF else nx)

/-- Rounds any value to a floating-point format: NaN becomes canonical, zero keeps its sign, an infinity in E4M3 overflows (R247, R251). -/
def roundVal (f : Nat) (r : Rnd) : FVal → Nat × LFlags
  | .nan => (nanEnc f, 0)
  | .inf neg => if f = fmtE4M3 then (overflowResult f (ovtChoice r.ovt f) r.mode neg, flOF ||| flNX) else (withSign f neg (infEnc f), 0)
  | .fin neg 0 _ => (withSign f neg 0, 0)
  | .fin neg m e => roundMag f r neg m 1 e

/-! ## Exact arithmetic -/

def fNeg : FVal → FVal
  | .nan => .nan
  | .inf n => .inf !n
  | .fin n m e => .fin (!n) m e

/-- m × 2^e with its sign, as an integer multiple of 2^lo. -/
def asMultiple (neg : Bool) (m : Nat) (e lo : Int) : Int :=
  let x : Int := (m * 2 ^ (e - lo).toNat : Nat)
  if neg then -x else x

/-- R425: the exact sum; an exact zero is +0, or −0 in RDN; zeros of one sign keep it. The flag is an invalid operation. -/
def fAdd (mode : Nat) : FVal → FVal → FVal × Bool
  | .nan, _ => (.nan, false)
  | _, .nan => (.nan, false)
  | .inf a, .inf b => if a = b then (.inf a, false) else (.nan, true)
  | .inf a, _ => (.inf a, false)
  | _, .inf b => (.inf b, false)
  | .fin na ma ea, .fin nb mb eb =>
    if ma = 0 ∧ mb = 0 then (.fin (if na = nb then na else mode == 2) 0 0, false)
    else
      let lo := if ma = 0 then eb else if mb = 0 then ea else Min.min ea eb
      let x := (if ma = 0 then 0 else asMultiple na ma ea lo) + (if mb = 0 then 0 else asMultiple nb mb eb lo)
      if x = 0 then (.fin (mode == 2) 0 0, false) else (.fin (decide (x < 0)) x.natAbs lo, false)

/-- The exact product; the flag is 0 × ∞. -/
def fMul : FVal → FVal → FVal × Bool
  | .nan, _ => (.nan, false)
  | _, .nan => (.nan, false)
  | .inf a, .inf b => (.inf (a != b), false)
  | .inf a, .fin b m _ => if m = 0 then (.nan, true) else (.inf (a != b), false)
  | .fin a m _, .inf b => if m = 0 then (.nan, true) else (.inf (a != b), false)
  | .fin a ma ea, .fin b mb eb => (.fin (a != b) (ma * mb) (ea + eb), false)

def nvIf (b : Bool) : LFlags := if b then flNV else 0

def addF (f : Nat) (r : Rnd) (a b : FVal) : Nat × LFlags :=
  let x := fAdd r.mode a b
  let y := roundVal f r x.1
  (y.1, y.2 ||| nvIf x.2)

def mulF (f : Nat) (r : Rnd) (a b : FVal) : Nat × LFlags :=
  let x := fMul a b
  let y := roundVal f r x.1
  (y.1, y.2 ||| nvIf x.2)

/-- R425: a × b + c with one rounding; 0 × ∞ is invalid even beside a NaN. -/
def fmaF (f : Nat) (r : Rnd) (a b c : FVal) : Nat × LFlags :=
  let p := fMul a b
  let x := fAdd r.mode p.1 c
  let y := roundVal f r x.1
  (y.1, y.2 ||| nvIf (p.2 || x.2))

def isNan : FVal → Bool
  | .nan => true
  | _ => false

/-- R427: a0 × b0 + a1 × b1 + c with one rounding. The three addends are summed exactly; signs of exact zeros follow R425. Beside a NaN
only a product 0 × ∞ is invalid (R238). -/
def dot2F (f : Nat) (r : Rnd) (a0 b0 a1 b1 c : FVal) : Nat × LFlags :=
  let p := fMul a0 b0
  let q := fMul a1 b1
  let x := fAdd r.mode p.1 q.1
  let z := fAdd r.mode x.1 c
  let y := roundVal f r z.1
  (y.1, y.2 ||| nvIf (p.2 || q.2 || (x.2 && !isNan c) || z.2))

/-- R425, R254: the quotient, correctly rounded; the flags are 0/0 and ∞/∞ (NV), finite nonzero by zero (DZ). -/
def divF (f : Nat) (r : Rnd) : FVal → FVal → Nat × LFlags
  | .nan, _ => (nanEnc f, 0)
  | _, .nan => (nanEnc f, 0)
  | .inf _, .inf _ => (nanEnc f, flNV)
  | .inf a, .fin b _ _ => roundVal f r (.inf (a != b))
  | .fin a _ _, .inf b => (withSign f (a != b) 0, 0)
  | .fin a ma ea, .fin b mb eb =>
    if mb = 0 then (if ma = 0 then (nanEnc f, flNV) else (withSign f (a != b) (infEnc f), flDZ))
    else if ma = 0 then (withSign f (a != b) 0, 0)
    else roundMag f r (a != b) ma mb (ea - eb)

/-- Integer square root, bit by bit. -/
def isqrtGo (n : Nat) : Nat → Nat → Nat
  | 0, r => r
  | k + 1, r => isqrtGo n k (if (r + 2 ^ k) * (r + 2 ^ k) ≤ n then r + 2 ^ k else r)

def isqrt (n : Nat) : Nat := isqrtGo n (Nat.log2 n / 2 + 1) 0

/-- √(m × 2^e) as a dyadic with a sticky bit below 120 result bits; exact roots are exact. -/
def sqrtDyadic (m : Nat) (e : Int) : Nat × Int :=
  let k : Int := e - 240
  let k' := if k % 2 = 0 then k else k - 1
  let n := m * 2 ^ (e - k').toNat
  let r := isqrt n
  (2 * r + (if r * r = n then 0 else 1), k' / 2 - 1)

def sqrtF (f : Nat) (r : Rnd) : FVal → Nat × LFlags
  | .nan => (nanEnc f, 0)
  | .inf neg => if neg then (nanEnc f, flNV) else (infEnc f, 0)
  | .fin neg m e =>
    if m = 0 then (withSign f neg 0, 0)
    else if neg then (nanEnc f, flNV)
    else
      let x := sqrtDyadic m e
      roundMag f r false x.1 1 x.2

/-! ## Comparison -/

/-- a < b for finite or infinite values; NaN compares false. -/
def fLt : FVal → FVal → Bool
  | .nan, _ => false
  | _, .nan => false
  | .inf a, .inf b => a && !b
  | .inf a, _ => a
  | _, .inf b => !b
  | .fin na ma ea, .fin nb mb eb =>
    let lo := Min.min ea eb
    decide (asMultiple na ma ea lo < asMultiple nb mb eb lo)

/-- −0 and +0 are equal. -/
def fEq (a b : FVal) : Bool :=
  match a, b with
  | .nan, _ => false
  | _, .nan => false
  | _, _ => !fLt a b && !fLt b a

def fSign : FVal → Bool
  | .nan => false
  | .inf n => n
  | .fin n _ _ => n

/-- R425: FMIN (or FMAX) by encodings: −0 < +0, a NaN yields the other, two NaNs the canonical NaN. -/
def minmaxF (f : Nat) (full isMax : Bool) (xa xb : Nat) : Nat :=
  let a := inputF f full xa
  let b := inputF f full xb
  let enc := fun v => (roundVal f { mode := 0, u := 0, full := true, ovt := 0 } v).1
  if isNan a && isNan b then nanEnc f
  else if isNan a then enc b
  else if isNan b then enc a
  else
    let less := fLt a b || (fEq a b && fSign a && !fSign b)
    if less != isMax then enc a else enc b

/-! ## Conversions (R251 to R253) -/

/-- R253: an exact value to a signed integer of w bits. -/
def toIntF (w : Nat) (r : Rnd) : FVal → Int × LFlags
  | .nan => (0, flNV)
  | .inf neg => (if neg then -(2 ^ (w - 1) : Nat) else (2 ^ (w - 1) - 1 : Nat), flNV)
  | .fin neg m e =>
    let p := scale2 m 1 e
    let k := roundInt r.mode r.u neg p.1 p.2
    let x : Int := if neg then -(k : Int) else k
    let lo : Int := -(2 ^ (w - 1) : Nat)
    let hi : Int := (2 ^ (w - 1) - 1 : Nat)
    if x < lo then (lo, flSAT ||| flNX) else if hi < x then (hi, flSAT ||| flNX)
    else (x, if p.1 % p.2 = 0 then 0 else flNX)

/-- The same for a quotient num / den × 2^e (R254). -/
def quotToInt (w : Nat) (r : Rnd) (neg : Bool) (num den : Nat) (e : Int) : Int × LFlags :=
  let p := scale2 num den e
  let k := roundInt r.mode r.u neg p.1 p.2
  let x : Int := if neg then -(k : Int) else k
  let lo : Int := -(2 ^ (w - 1) : Nat)
  let hi : Int := (2 ^ (w - 1) - 1 : Nat)
  if x < lo then (lo, flSAT ||| flNX) else if hi < x then (hi, flSAT ||| flNX)
  else (x, if p.1 % p.2 = 0 then 0 else flNX)

def intVal (x : Int) : FVal := .fin (decide (x < 0)) x.natAbs 0

/-- R412: the value a lane register holds in a format. -/
def readImage (f : Nat) (full : Bool) (x : Lane) : FVal :=
  if f = fmtI32 then intVal x.toInt
  else if f = fmtI8 then intVal (x.extractLsb' 0 8).toInt
  else inputF f full (x.toNat % 2 ^ fmtBits f)

/-- R412: the register image of a result. -/
def imageOfInt (x : Int) : Lane := BitVec.ofInt 32 x
def imageOfNat (x : Nat) : Lane := BitVec.ofNat 32 x

/-- Rounds a value to any of the formats 0 to 6, as a register image. -/
def convert (f : Nat) (r : Rnd) (v : FVal) : Lane × LFlags :=
  if f = fmtI32 then let y := toIntF 32 r v; (imageOfInt y.1, y.2)
  else if f = fmtI8 then let y := toIntF 8 r v; (imageOfInt y.1, y.2)
  else let y := roundVal f r v; (imageOfNat y.1, y.2)

/-- RNE, full mode, under an OVT. -/
def rneFull (ovt : Word) : Rnd := { mode := 0, u := 0, full := true, ovt }

/-- OVT with choice 1 for FP32: overflow gives an infinity (R261, R387, R462). -/
def rneInf : Rnd := { mode := 0, u := 0, full := true, ovt := 0x155 }

/-- R387: fadd of two FP32 encodings: canonical NaN, ±∞ on overflow, no flags. -/
def fadd32 (a b : Nat) : Nat := (addF 0 rneInf (decodeF 0 a) (decodeF 0 b)).1

/-! ## Quantising (R254) -/

def vqnt (f : Nat) (r : Rnd) (x sc : Nat) : Lane × LFlags :=
  let xv := inputF 0 r.full x
  let sv := inputF 0 r.full sc
  let isInt := f = fmtI8 ∨ f = fmtI32
  match xv with
  | .nan => if isInt then (0, flNV) else (imageOfNat (nanEnc f), 0)
  | _ =>
    match sv with
    | .fin false m e =>
      if m = 0 then (if isInt then (0, flNV) else (imageOfNat (nanEnc f), flNV))
      else match xv with
        | .nan => (0, 0)
        | .inf neg => convert f r (.inf neg)
        | .fin neg mx ex =>
          if mx = 0 then convert f r (.fin neg 0 0)
          else if f = fmtI32 then let y := quotToInt 32 r neg mx m (ex - e); (imageOfInt y.1, y.2)
          else if f = fmtI8 then let y := quotToInt 8 r neg mx m (ex - e); (imageOfInt y.1, y.2)
          else let y := roundMag f r neg mx m (ex - e); (imageOfNat y.1, y.2)
    | _ => if isInt then (0, flNV) else (imageOfNat (nanEnc f), flNV)

/-! ## Block formats (R240 to R242, R255 to R257) -/

/-- R241. -/
def legalScale (x : Nat) : Bool := x / 2 ^ 15 % 2 == 0 && x / 2 ^ 7 % 256 != 255 && x % 2 ^ 15 != 0

/-- R255: RUP of a nonnegative rational to BF16 in full mode, at least 2^−133. -/
def rupScale (num den : Nat) (e : Int) : Nat :=
  if num = 0 then 1
  else Max.max 1 ((roundMag 1 { mode := 3, u := 0, full := true, ovt := 0 } false num den e).1)

def db4Mag (code : Nat) : Nat := match code with | 0 => 0 | 1 => 1 | 2 => 2 | _ => 4
def db4Code (m : Nat) : Nat := match m with | 0 => 0 | 1 => 1 | 2 => 2 | _ => 3

/-- An element's selector, sign and magnitude. -/
def elemParts (f el : Nat) : Nat × Bool × Nat :=
  if f = fmtDB8 then (el / 128 % 2, el / 64 % 2 == 1, el % 64)
  else (el / 8 % 2, el / 4 % 2 == 1, db4Mag (el % 4))

/-- The magnitude of a scale as a dyadic. -/
def scaleVal (sc : Nat) : Nat × Int :=
  match decodeF 1 sc with
  | .fin _ m e => (m, e)
  | _ => (0, 0)

/-- R242: the exact value of an element under its block's scales, or none when the selected scale is illegal. -/
def elemValue (f el s0 s1 : Nat) : Option FVal :=
  let p := elemParts f el
  let sc := if p.1 = 0 then s0 else s1
  if legalScale sc then
    let v := scaleVal sc
    some (if p.2.2 = 0 then .fin false 0 0 else .fin p.2.1 (p.2.2 * v.1) v.2)
  else none

/-- R257: a magnitude q = num / den × 2^e rounded on the magnitude grid of the format, before the clamp. The RNE tie 3 of DB4 goes
to 2, whose code is even; above 4 a tie goes to the multiple of 4. -/
def gridRound (f mode u : Nat) (num den : Nat) (e : Int) : Nat × Bool :=
  let p := scale2 num den e
  if f = fmtDB8 then (roundInt mode u false p.1 p.2, p.1 % p.2 == 0)
  else
    let fl := p.1 / p.2
    let exact := p.1 % p.2 == 0
    -- the grid 0, 1, 2, 4, 6, 8 …: spacing 1 below 2, spacing 2 from 2 on
    if fl < 2 then (roundInt mode u false p.1 p.2, exact)
    else if mode = 0 ∧ p.1 = 3 * p.2 then (2, false)
    else (2 * roundInt mode u false p.1 (2 * p.2), p.1 % (2 * p.2) == 0)

/-- R257: an element and its flags under the selected scale. -/
def encodeElem (f mode u sel : Nat) (neg : Bool) (num den : Nat) (e : Int) : Nat × LFlags :=
  if num = 0 then (0, 0)
  else
    let g := gridRound f mode u num den e
    let hi := if f = fmtDB8 then 63 else 4
    let nx : LFlags := if g.2 then 0 else flNX
    let m := Min.min g.1 hi
    let fl := if g.1 > hi then flSAT ||| flNX else nx
    let sg := if neg then 1 else 0
    if m = 0 then (0, fl)
    else if f = fmtDB8 then (sel * 128 + sg * 64 + m, fl) else (sel * 8 + sg * 4 + db4Code m, fl)

/-- R256: |x| is given to S0. -/
def fitsSmall (f : Nat) (m : Nat) (e : Int) (s0 : Nat) : Bool :=
  let v := scaleVal s0
  if m = 0 then true
  else if f = fmtDB8 then
    let p := scale2 m v.1 (e - v.2)
    decide (roundInt 0 0 false p.1 p.2 ≤ 63)
  else
    let p := scale2 m v.1 (e - v.2)
    decide (p.1 ≤ 4 * p.2)

/-- Sorts magnitudes given as multiples of one unit. -/
def insertNat (x : Nat) : List Nat → List Nat
  | [] => [x]
  | y :: r => if x ≤ y then x :: y :: r else y :: insertNat x r
def sortNat : List Nat → List Nat
  | [] => []
  | x :: r => insertNat x (sortNat r)

/-- R256: the scale word of 32 FP32 encodings, and whether any was NaN or infinite. Magnitudes are multiples of 2^−149. -/
def blockScales (f : Nat) (full : Bool) (xs : List Nat) : Nat × Bool :=
  let mag := fun x =>
    match inputF 0 full x with
    | .nan => 0
    | .inf _ => 0xFFFFFF * 2 ^ 253
    | .fin _ m e => m * 2 ^ (e + 149).toNat
  let bad := xs.any fun x => match decodeF 0 x with | .fin _ _ _ => false | _ => true
  let l := sortNat (xs.map mag)
  let d := if f = fmtDB8 then 63 else 4
  let s1 := rupScale (l.getLastD 0) d (-149)
  let s0 := rupScale (l.getD 23 0) d (-149)
  (s0 + 65536 * s1, bad)

/-! ## FSPEC (R426) -/

/-- Fixed point with 600 fraction bits. -/
def fxBits : Nat := 600
def fxOne : Int := (2 ^ fxBits : Nat)
def fxMul (a b : Int) : Int := a * b / fxOne

/-- Σ ± x^(2k+1) / (2k+1) for x = 1/n. -/
def atanGo (n2 : Int) (alt : Bool) : Nat → Nat → Int → Int
  | 0, _, _ => 0
  | fuel + 1, k, p =>
    let t := p / (2 * k + 1 : Nat)
    (if alt && k % 2 == 1 then -t else t) + atanGo n2 alt fuel (k + 1) (p / n2)

def fxPi : Int := 16 * atanGo 25 true 140 0 (fxOne / 5) - 4 * atanGo 57121 true 60 0 (fxOne / 239)
def fxLn2 : Int := 2 * atanGo 9 false 200 0 (fxOne / 3)

/-- Σ x^k / k!, from term `t` at index k. -/
def expGo (x : Int) : Nat → Nat → Int → Int
  | 0, _, _ => 0
  | fuel + 1, k, t => t + expGo x fuel (k + 1) (fxMul t x / (k + 1 : Nat))
def fxExp (x : Int) : Int := expGo x 160 0 fxOne

/-- Σ (−1)^k x^(2k+j) / (2k+j)!. -/
def trigGo (x2 : Int) : Nat → Nat → Int → Int
  | 0, _, _ => 0
  | fuel + 1, k, t => t + trigGo x2 fuel (k + 2) (-(fxMul t x2 / ((k + 1) * (k + 2) : Nat)))
def fxSin (x : Int) : Int := trigGo (fxMul x x) 120 1 x
def fxCos (x : Int) : Int := trigGo (fxMul x x) 120 0 fxOne

/-- Σ z^(2k+1) / (2k+1). -/
def atanhGo (z2 : Int) : Nat → Nat → Int → Int
  | 0, _, _ => 0
  | fuel + 1, k, p => p / (2 * k + 1 : Nat) + atanhGo z2 fuel (k + 1) (fxMul p z2)

/-- A finite value as fixed point, clamped to ±2^10 for the exponentials. -/
def fxOf (neg : Bool) (m : Nat) (e : Int) : Int :=
  let p := scale2 m 1 (e + fxBits)
  let x : Int := (p.1 / p.2 : Nat)
  if neg then -x else x
def fxClamp (x : Int) : Int := if x > 400 * fxOne then 400 * fxOne else if x < -(400 * fxOne) then -(400 * fxOne) else x

/-- e^x for |x| ≤ 400, as a fixed-point number: 2^n × e^(x − n ln 2). -/
def fxExpBig (x : Int) : Int :=
  let n := x / fxLn2
  let y := fxExp (x - n * fxLn2)
  if 0 ≤ n then y * (2 ^ n.toNat : Nat) else y / (2 ^ (-n).toNat : Nat)

/-- The exact function value at a finite nonzero input, as sign, numerator, denominator, exponent; a sticky low bit marks an
inexact numerator. -/
def fspecVal (fn : Nat) (neg : Bool) (m : Nat) (e : Int) : Bool × Nat × Nat × Int :=
  let x := fxOf neg m e
  let fx := fun (y : Int) => (decide (y < 0), 2 * y.natAbs + 1, 1, -(fxBits : Int) - 1)
  match fn with
  | 0 => (neg, 1, m, -e)
  | 1 =>
    -- 1/√(m 2^e) = √(2^(−e)/m): scaled so that the root has enough bits
    let k : Int := if e % 2 = 0 then e else e - 1
    let mm := if e % 2 = 0 then m else 2 * m
    let n := 2 ^ 480 / mm
    let r := isqrt n
    (false, 2 * r + (if r * r * mm = 2 ^ 480 then 0 else 1), 1, -240 - k / 2 - 1)
  | 2 =>
    let y := if x > 2000 * fxOne then 2000 * fxOne else if x < -(2000 * fxOne) then -(2000 * fxOne) else x
    let n := y / fxOne
    let fr := y - n * fxOne
    if fr = 0 then (false, 1, 1, n) else (false, 2 * (fxExp (fxMul fr fxLn2)).natAbs + 1, 1, n - fxBits - 1)
  | 3 =>
    let l := Nat.log2 m
    let k : Int := (l : Int) + e
    let fr : Int := (m * 2 ^ fxBits / 2 ^ l : Nat)
    if fr = fxOne then (decide (k < 0), k.natAbs, 1, 0)
    else
      let z := (fr - fxOne) * fxOne / (fr + fxOne)
      let lg := 2 * atanhGo (fxMul z z) 200 0 z * fxOne / fxLn2
      fx (k * fxOne + lg)
  | 4 => fx (fxSin (x % (2 * fxPi) - (if x % (2 * fxPi) > fxPi then 2 * fxPi else 0)))
  | 5 => fx (fxCos (x % (2 * fxPi) - (if x % (2 * fxPi) > fxPi then 2 * fxPi else 0)))
  | 6 =>
    let t := fxExpBig (fxClamp (-2 * Int.natAbs x))
    let y := (fxOne - t) * fxOne / (fxOne + t)
    (neg, 2 * y.natAbs + 1, 1, -(fxBits : Int) - 1)
  | _ =>
    if m = 0 then (false, 1, 1, -1)
    else fx (fxOne * fxOne / (fxOne + fxExpBig (fxClamp (-x))))

/-- R426: the special inputs, or none. -/
def fspecSpecial (f fn : Nat) : FVal → Option (Nat × LFlags)
  | .nan => some (nanEnc f, 0)
  | .inf neg =>
    match fn with
    | 0 => some (withSign f neg 0, 0)
    | 1 => some (if neg then (nanEnc f, flNV) else (0, 0))
    | 2 => some (if neg then 0 else infEnc f, 0)
    | 3 => some (if neg then (nanEnc f, flNV) else (infEnc f, 0))
    | 4 | 5 => some (nanEnc f, flNV)
    | 6 => some (withSign f neg (encodeMag f 1 0), 0)
    | _ => some (if neg then 0 else encodeMag f 1 0, 0)
  | .fin neg m _ =>
    if m = 0 then
      match fn with
      | 0 | 1 => some (withSign f neg (infEnc f), flDZ)
      | 2 => some (encodeMag f 1 0, 0)
      | 3 => some (withSign f true (infEnc f), flDZ)
      | 4 | 6 => some (withSign f neg 0, 0)
      | 5 => some (encodeMag f 1 0, 0)
      | _ => some (encodeMag f 1 (-1), 0)
    else if neg ∧ (fn = 1 ∨ fn = 3) then some (nanEnc f, flNV)
    else none

/-- |y − v| ≤ the bound of R426, both as multiples of 2^−800 with signs. -/
def withinBound (fn : Nat) (exact cand : Int) : Bool :=
  let unit : Int := (2 ^ 800 : Nat)
  let ulpE : Int := if exact = 0 then -149 else Max.max (-149) ((Nat.log2 exact.natAbs : Int) - 800 - 23)
  let ulp : Int := (2 ^ (ulpE + 800).toNat : Nat)
  let d : Int := (exact - cand).natAbs
  match fn with
  | 0 | 1 => decide (d ≤ ulp)
  | 2 => decide (d ≤ 2 * ulp)
  | 3 => decide (d ≤ 2 * ulp)
  | 4 | 5 => decide (d ≤ unit / 2 ^ 22)
  | 6 => decide (d ≤ 2 * ulp) || decide (d ≤ unit / 2 ^ 23)
  | _ => decide (d ≤ unit / 2 ^ 23)

def fixedOf (neg : Bool) (num den : Nat) (e : Int) : Int :=
  let p := scale2 num den (e + 800)
  let x : Int := (p.1 / p.2 : Nat)
  if neg then -x else x

/-- R250: the implementation's f32 result c as FSPEC delivers it, with its UF. A subnormal c is flushed to a zero of its sign with UF in a
flush section, and sets UF in full mode unless it is the exact value; a normal c sets none, but for the smallest normal in full mode,
where the exact value decides. `r` is the exact value rounded, with its flags (log 9). -/
def fspecOut (full : Bool) (r : Nat × LFlags) (c : Nat) : Nat × LFlags :=
  let fl := r.2 &&& ~~~flNX
  let mag := c % 2 ^ 31
  if mag = 0 then (c, fl)
  else if mag < 2 ^ 23 then
    if full then (c, if c = r.1 ∧ r.2 &&& flNX = 0 then fl &&& ~~~flUF else fl ||| flUF)
    else (c - mag, fl ||| flUF)
  else (c, if full && mag == 2 ^ 23 then fl else fl &&& ~~~flUF)

/-- R426: FSPEC. For f32 the result is the implementation's, held to the bound: outside it the exact value rounded in RNE stands (log 9). It
never sets NX. -/
def fspec (f fn : Nat) (full : Bool) (ovt : Word) (x : Nat) : Nat × LFlags :=
  let v := inputF f full x
  match fspecSpecial f fn v with
  | some r => r
  | none =>
    match v with
    | .fin neg m e =>
      let y := fspecVal fn neg m e
      let r := if y.2.1 = 0 then (0, 0) else roundMag f { mode := 0, u := 0, full, ovt } y.1 y.2.1 y.2.2.1 y.2.2.2
      let fl := r.2 &&& ~~~flNX
      if f = fmtF32 ∧ fl &&& flOF = 0 then
        let c := (Config.fspec fn full (BitVec.ofNat 32 x)).toNat
        let nearOne := fn = 3 ∧ decide (2 ^ 23 * 2 ^ 800 ≤ (fixedOf false m 1 e).natAbs * 2 ^ 24) ∧ decide ((fixedOf false m 1 e).natAbs ≤ 2 * 2 ^ 800)
        match decodeF fmtF32 c with
        | .fin n2 m2 e2 =>
          let ex := fixedOf y.1 y.2.1 y.2.2.1 y.2.2.2
          let cd := fixedOf n2 m2 1 e2
          let ok := if nearOne then decide ((ex - cd).natAbs ≤ 2 ^ 778) else withinBound fn ex cd
          if ok && y.2.1 != 0 then fspecOut full r c else (r.1, fl)
        | _ => (r.1, fl)
      else (r.1, fl)
    | _ => (nanEnc f, 0)

end Sys2Proof.Machine
end

