-- ==== Sys2Proof/Machine/Tables.lean ====
section
/-!
DEFINITION. The tables of the state and what they are made of: inputs and free values, vectors and fault records, energy charges, scratchpad bytes,
windows, banks.
-/
namespace Sys2Proof.Machine

/-! ## Tables -/

def ctxAt (s : State) (c : Nat) : Ctx := mget s.ctxs c freshCtx
def setCtx (s : State) (c : Nat) (x : Ctx) : State := { s with ctxs := mput s.ctxs c x }
def modCtx (s : State) (c : Nat) (f : Ctx → Ctx) : State := setCtx s c (f (ctxAt s c))

/-- R14: a core never written is at site j of its cluster. -/
def coreAt (s : State) (n : Nat) : Core := mget s.cores n { freshCore with site := n % 8 }
def modCore (s : State) (n : Nat) (f : Core → Core) : State := { s with cores := mput s.cores n (f (coreAt s n)) }

def vnpuAt (s : State) (v : Nat) : Vnpu := mget s.vnpus v freshVnpu
def modVnpu (s : State) (v : Nat) (f : Vnpu → Vnpu) : State := { s with vnpus := mput s.vnpus v (f (vnpuAt s v)) }

def ringAt (s : State) (v r : Nat) : Ring := mget (vnpuAt s v).rings r freshRing
def modRing (s : State) (v r : Nat) (f : Ring → Ring) : State :=
  modVnpu s v fun x => { x with rings := mput x.rings r (f (mget x.rings r freshRing)) }

def queueAt (s : State) (v q : Nat) : LQueue := mget (vnpuAt s v).queues q freshQueue
def modQueue (s : State) (v q : Nat) (f : LQueue → LQueue) : State :=
  modVnpu s v fun x => { x with queues := mput x.queues q (f (mget x.queues q freshQueue)) }

def clusterAt (s : State) (k : Nat) : Cluster := mget s.clusters k freshCluster
def modCluster (s : State) (k : Nat) (f : Cluster → Cluster) : State := { s with clusters := mput s.clusters k (f (clusterAt s k)) }

def portAt (s : State) (p : Nat) : Port := mget s.ports p freshPort
def modPort (s : State) (p : Nat) (f : Port → Port) : State := { s with ports := mput s.ports p (f (portAt s p)) }

def launchAt (s : State) (l : Nat) : Option Launch := mfind s.launches l
def modLaunch (s : State) (l : Nat) (f : Launch → Launch) : State :=
  match mfind s.launches l with
  | some x => { s with launches := mput s.launches l (f x) }
  | none => s

def modMgmt (s : State) (f : Mgmt → Mgmt) : State := { s with mgmt := f s.mgmt }
def modFw (s : State) (f : Firmware → Firmware) : State := { s with fw := f s.fw }
def modFrame (s : State) (f : Frame → Frame) : State := { s with frame := f s.frame }
def modXlate (s : State) (f : Xlate → Xlate) : State := { s with xlate := f s.xlate }
def modContracts (s : State) (f : Contracts → Contracts) : State := { s with contracts := f s.contracts }

/-! ## Numbering (R14, R167) -/

def isTeam (c : Nat) : Bool := decide (c < 192)
def isFw (c : Nat) : Bool := decide (192 ≤ c ∧ c < 200)
def isPrologue (c : Nat) : Bool := decide (200 ≤ c)
def coreOf (c : Nat) : Nat := c / 2
def bankOf (c : Nat) : Nat := c % 2
def clusterOf (core : Nat) : Nat := core / 8
def dieOf (core : Nat) : Nat := core / 48
def otherBank (c : Nat) : Nat := if c % 2 = 0 then c + 1 else c - 1

/-- R378: firmware cores and teams of VNPU 0 are privileged. -/
def privileged (s : State) (c : Nat) : Bool := isFw c || (isTeam c && (ctxAt s c).v == 0)

/-- The context that executes. -/
def curCtx (s : State) : Ctx := ctxAt s s.run.cur

/-! ## Inputs and free values -/

/-- Adds an event behind the inputs that wait. -/
def post (s : State) (i : Instr) : State :=
  { s with run := { s.run with inputs := s.run.inputs ++ [{ i, arg := noArg }] } }

def postArg (s : State) (i : Instr) (arg : EventArg) : State :=
  { s with run := { s.run with inputs := s.run.inputs ++ [{ i, arg }] } }

/-- Adds turns to the rota, once each. -/
def addTurns (s : State) (ts : List Turn) : State :=
  { s with run := { s.run with rota := s.run.rota ++ ts.filter fun t => !s.run.rota.contains t } }

/-- Puts turns before a turn of the rota. -/
def insertTurns (at' : Turn) (ts : List Turn) : List Turn → List Turn
  | [] => ts
  | t :: r => if t = at' then ts ++ t :: r else t :: insertTurns at' ts r

/-- The rota with its last turn at its head, where that is `t`. -/
def againFirst (t : Turn) (l : List Turn) : List Turn := if l.getLast? = some t then t :: l.dropLast else l

/-- The turn that runs has another one at once. -/
def turnAgain (s : State) (t : Turn) : State := { s with run := { s.run with rota := againFirst t s.run.rota } }

def dropTurns (s : State) (ts : List Turn) : State :=
  { s with run := { s.run with rota := s.run.rota.filter fun t => !ts.contains t } }

/-- Moves to the next free value (log 6). -/
def useFree (s : State) : State := { s with run := { s.run with free := s.run.free + 1 } }

/-- The free value of the current draw at an index. -/
def freeAt (s : State) (i : Nat) : BitVec 64 := Config.free s.run.free i

/-! ## Vectors and messages -/

/-- R30, R32: a vector's entry in its function's MSI-X table is masked (bit 0 of its vector control). -/
def masked (s : State) (fn vec : Nat) : Bool := (readByte (mget s.msix fn []) (16 * vec + 12)).getLsbD 0

/-- Raises an MSI-X vector of a function: a masked one stays pending in the PBA. -/
def raise (s : State) (fn vec : Nat) : State :=
  if masked s fn vec then { s with pba := mput s.pba fn (mget s.pba fn 0 ||| (1#64 <<< vec)) }
  else { s with out := { s.out with vectors := s.out.vectors ++ [(fn, vec)] } }

/-- The pending vectors of a function that are no longer masked are sent. -/
def sendPending (s : State) (fn : Nat) : State :=
  let due := (List.range 64).filter fun v => (mget s.pba fn 0).getLsbD v && !masked s fn v
  { s with pba := mput s.pba fn (due.foldl (fun m v => m &&& ~~~(1#64 <<< v)) (mget s.pba fn 0))
           out := { s.out with vectors := s.out.vectors ++ due.map fun v => (fn, v) } }

/-- R28: SVCREQ bits 47:8; a count that does not fit its field stays at 255 (log 58). -/
def svcBits (m : Mgmt) : Nat :=
  min 255 m.cplx + 256 * min 255 m.granules + 65536 * min 255 m.lanes + 16777216 * min 255 m.slices + 4294967296 * min 255 m.cores

/-- R29: the message of a kind and a unit, whose number takes 4 bytes (log 58). -/
def serviceMessage (s : State) (kind unit : Nat) : State :=
  { s with out := { s.out with mctp := s.out.mctp ++ [natLe 2 kind ++ natLe 4 unit ++ natLe 5 (svcBits s.mgmt)] } }

/-- R15, R64: the service part of now. -/
def serviceOf (s : State) : Service :=
  let m := s.mgmt
  { places := s.cores.map fun e => (e.1, { site := e.2.site, absent := e.2.absent, withheld := e.2.withheld })
    spareUsed := m.spareUsed, sliceMap := m.sliceMap, repairSpent := m.repairSpent
    spareFrames := (m.remap.filter fun e => m.repairSpent.contains e.1).map fun e => (e.1, e.2.1)
    cores := m.cores, slices := m.slices, lanes := m.lanes, granules := m.granules, cplx := m.cplx, requests := m.requests
    kaleFailed := s.fw.kaleFailed, chardFailed := s.fw.chardFailed }

/-- R15, R66: the maps and counts of now are written to the service part; without an identity key nothing can be written. -/
def writeService (s : State) : State := if s.fw.idok then modFw s fun f => { f with service := some (serviceOf s) } else s

/-- R28, R29: sets PEND, raises vector 63 of function 0, and sends the message of kind and unit. -/
def serviceRequest (s : State) (kind unit : Nat) : State :=
  serviceMessage (raise (writeService (modMgmt s fun m =>
    { m with pend := true, requests := m.requests.filter (fun e => e != (kind, unit)) ++ [(kind, unit)] })) 0 63) kind unit

/-! ## Records (R51, R205, R206, R207, R445) -/

def recordVector (v guest own0 : Nat) : Nat := if v = 0 then own0 else guest

/-- Writes a 32-byte team or engine fault record of VNPU v. -/
def postTeamRecord (s : State) (v : Nat) (r : List Byte) : State :=
  raise (modVnpu s v fun x => { x with tf := mput x.tf (x.tfcnt % 8) r, tfcnt := (x.tfcnt + 1) % 2 ^ 32 }) v (recordVector v 35 48)

def postMachineRecord (s : State) (v : Nat) (r : List Byte) : State :=
  raise (modVnpu s v fun x => { x with mc := mput x.mc (x.mccnt % 8) r, mccnt := (x.mccnt + 1) % 2 ^ 32 }) v (recordVector v 63 49)

def postPinnedRecord (s : State) (v : Nat) (r : List Byte) : State :=
  raise (modVnpu s v fun x => { x with mp := mput x.mp (x.mpcnt % 8) r, mpcnt := (x.mpcnt + 1) % 2 ^ 32 }) v 61

def ctlBase (x : Ctx) : Word := x.image + BitVec.ofNat 64 x.hdr.ctext

/-- R205: the team fault record's bytes. -/
def teamRecordBytes (s : State) (x : Ctx) (cause kind : Nat) (pc : Nat) (addr : Word) : List Byte :=
  natLe 1 cause ++ natLe 1 kind ++ natLe 2 x.seq ++ natLe 4 x.team ++ natLe 8 pc ++ natLe 8 addr.toNat ++ natLe 8 s.tick.toNat

/-- R358: a PC is recorded relative to the control base. -/
def pcOffset (x : Ctx) (pc : Word) : Nat := (pc - ctlBase x).toNat

/-- R445: the engine fault record's bytes. -/
def engineRecordBytes (s : State) (x : Ctx) (cause eng code rows : Nat) (pc addr : Word) : List Byte :=
  natLe 1 cause ++ natLe 1 2 ++ natLe 1 (eng * 64 + code) ++ natLe 1 0 ++ natLe 4 x.team ++ natLe 4 (pcOffset x pc) ++
    natLe 4 rows ++ natLe 8 addr.toNat ++ natLe 8 s.tick.toNat

/-- R206: a unit's code; a firmware complex, which no record names, is 9 in the retry rule's counts (R23). -/
def unitCode : Unit8 → Nat
  | .core => 1 | .slice => 2 | .link => 3 | .row => 4 | .mem => 5 | .hostPort => 6 | .module => 7 | .bridge => 8 | .complex => 9

/-- R206: the machine-check record's bytes. -/
def machineRecordBytes (s : State) (x : Ctx) (u : Unit8) (num rows : Nat) (pc addr : Word) : List Byte :=
  natLe 1 0x25 ++ natLe 1 (unitCode u) ++ natLe 2 num ++ natLe 4 x.team ++ natLe 4 (pcOffset x pc) ++ natLe 4 rows ++
    natLe 8 addr.toNat ++ natLe 8 s.tick.toNat

/-! ## Energy (R158 to R163) -/

def cap48 : Nat := 2 ^ 48 - 1

/-- R159: adds to ECNT, which saturates and sets SAT. -/
def ecntAdd (e : Word) (w : Nat) : Word :=
  let c := wbits e 47 0 + w
  if c > cap48 then BitVec.ofNat 64 (2 ^ 63 + cap48) else (if e.msb then BitVec.ofNat 64 (2 ^ 63 + c) else BitVec.ofNat 64 c)

def equota (s : State) (v : Nat) : Option Nat :=
  (mfind s.contracts.inForce v).map fun c => fieldAt c.bytes 40 6

/-- R132: EQUOTA − EMAX of the contract in force, as its admission read EMAX. -/
def usableQuota (s : State) (v : Nat) : Option Nat :=
  (mfind s.contracts.inForce v).map fun c => fieldAt c.bytes 40 6 - c.emax

/-- R159, R163, R477: adds to VN_EUSED, which VNPU 0 has none of; reaching the usable quota exhausts it. -/
def chargeVnpu (s : State) (v w : Nat) : State :=
  let s1 := if v = 0 then s else modVnpu s v fun x => { x with eused := min (x.eused + w) cap48 }
  match usableQuota s v with
  | some u => if v ≠ 0 ∧ u ≤ (vnpuAt s1 v).eused ∧ (vnpuAt s1 v).exhausted = false then
      post (modVnpu s1 v fun x => { x with exhausted := true }) (.quotaExhausted v) else s1
  | none => s1

def weight (s : State) (i : Nat) : Nat := (mget s.weights i 0).toNat

/-- R161: n charges of weight index i to the party of a context: a team, or a prologue's VNPU, or device overhead. -/
def chargeCtx (s : State) (c i n : Nat) : State :=
  let w := weight s i * n
  let x := ctxAt s c
  if isFw c || x.drain != .off then { s with overhead := s.overhead + w }
  else if isPrologue c then chargeVnpu s x.v w
  else chargeVnpu (setCtx s c { x with ecnt := ecntAdd x.ecnt w }) x.v w

def chargeOverhead (s : State) (i n : Nat) : State := { s with overhead := s.overhead + weight s i * n }

/-! ## Scratchpad (R181 to R183) -/

/-- The physical granule of a team's granule. -/
def physGranule (x : Ctx) (g : Nat) : Option Nat := x.gran[g]?

/-- The physical byte of a team-relative address below 2^20. -/
def physByte (x : Ctx) (a : Nat) : Nat :=
  match physGranule x (a / 4096) with
  | some p => p * 4096 + a % 4096
  | none => 0

def scratchByte (s : State) (c a : Nat) : Byte := readByte (coreAt s (coreOf c)).scratch (physByte (ctxAt s c) a)

def scratchBytes (s : State) (c a : Nat) : Nat → List Byte
  | 0 => []
  | n + 1 => scratchByte s c a :: scratchBytes s c (a + 1) n

def putScratch (s : State) (c a : Nat) : List Byte → State
  | [] => s
  | v :: r =>
    putScratch (modCore s (coreOf c) fun k => { k with scratch := writeByte k.scratch (physByte (ctxAt s c) a) v }) c (a + 1) r

def granuleOwner (s : State) (c g : Nat) : Nat :=
  match physGranule (ctxAt s c) g with
  | some p => mget (coreAt s (coreOf c)).owner p 0
  | none => 0

def setOwners (s : State) (c f n o : Nat) : State :=
  match n with
  | 0 => s
  | m + 1 =>
    match physGranule (ctxAt s c) f with
    | some p => setOwners (modCore s (coreOf c) fun k => { k with owner := if o = 0 then mdel k.owner p else mput k.owner p o }) c (f + 1) m o
    | none => setOwners s c (f + 1) m o

def ownersAre (s : State) (c f n o : Nat) : Bool :=
  match n with
  | 0 => true
  | m + 1 => granuleOwner s c f == o && ownersAre s c (f + 1) m o

/-- R183: the owner code of an engine. -/
def engOwner (eng : Nat) : Nat := eng + 1

/-! ## Remapped frames (R234) -/

/-- The first byte of the spare frames (R213). -/
def spareBase : Nat := 0x003DFFC00000

/-! ## Where a line lies (R227) -/

def lineOf (pa : Nat) : Nat := pa / 64

def channelOf (x : Nat) : Nat :=
  (List.range 8).foldl (fun a i => a ^^^ (x / 2 ^ (5 * i) % 32)) 0
def lineDie (x : Nat) : Nat := channelOf x / 16
def lineCtl (x : Nat) : Nat := channelOf x % 16

/-! ## Firmware regions (R61) -/

/-- R61: a complex's firmware region is made of the lines of its own die, 32 MiB of them, in 64 MiB of addresses below the spare frames (DESIGN CHOICE, log 21): the
first of these addresses. -/
def fwBase (die : Nat) : Nat := Config.fwRegion die % 3967 * 2 ^ 26

/-- R61: the physical address of byte `off` of a complex's firmware region. -/
def fwAddr (die off : Nat) : Nat :=
  let k := off / 64
  let x := fwBase die / 64 + k / 16 * 32 + k % 16
  (if lineDie x = die then x else x + 16) * 64 + off % 64

/-- R61: the byte of a complex's firmware region that lies at an address. -/
def fwOffset (die pa : Nat) : Option Nat :=
  let x := lineOf pa - fwBase die / 64
  if fwBase die ≤ pa ∧ pa < fwBase die + 2 ^ 26 ∧ lineDie (lineOf pa) = die then some ((x / 32 * 16 + x % 16) * 64 + pa % 64) else none

/-- R61: the address lies in a firmware region. -/
def inFwRegion (pa : Nat) : Bool := (List.range 2).any fun d => (fwOffset d pa).isSome

/-- Copies n bytes of one memory, from a, into another, at d. -/
def copyInto (dst src : Memory) (a n d : Nat) : Memory :=
  (src.filter fun e => decide (a ≤ e.1 ∧ e.1 < a + n)).foldl (fun t e => writeByte t (d + (e.1 - a)) e.2) (dst.filter fun e => !decide (d ≤ e.1 ∧ e.1 < d + n))

def activeDie (s : State) : Nat := if s.fw.chardActive then 1 else 0

def bytesToWords (n : Nat) (b : List Byte) : List Word := (chunk 8 n b).map fun x => BitVec.ofNat 64 (leNat x)
def wordsToBytes (l : List Word) : List Byte := l.flatMap fun w => natLe 8 w.toNat

/-! ## A complex's SRAM (R55, R61) -/

/-- R61: where in the last 512 KiB of the SRAM the mailbox's buffers and the state table stand (log 16). -/
def mailOff : Nat := 1572864 + Config.mailSlot % 512 * 512
def tableOff : Nat := 1835008 + Config.tableSlot % 16384 * 8

/-- R61: a complex's SRAM as its cores read it: with the mailbox, which is the active complex's, and the state table, which the standby holds. -/
def sramView (s : State) (die : Nat) : Memory :=
  let m := mget s.fw.sram die []
  if die = activeDie s then copyInto m s.fw.mailbox 0 512 mailOff
  else if s.fw.standby then writeBytes m tableOff (wordsToBytes s.fw.mirror) else m

/-- A complex's SRAM after its cores have written it. -/
def setSram (s : State) (die : Nat) (m : Memory) : State :=
  let n := s.fw.mirror.length
  modFw s fun f =>
    { f with sram := mput f.sram die m
             mailbox := if die = activeDie s then copyInto [] m mailOff 512 0 else f.mailbox
             mirror := if die ≠ activeDie s ∧ f.standby then bytesToWords n (readBytes m tableOff (8 * n)) else f.mirror }

/-- R234: the physical byte that serves an address. A remapped frame's bytes lie in its spare frame; number 256 marks a frame that found no spare and stays. -/
def servedAddr (s : State) (pa : Nat) : Nat :=
  match mfind s.mgmt.remap (pa / 16384) with
  | some r => if r.1 < 256 then spareBase + r.1 * 16384 + pa % 16384 else pa
  | none => pa

/-- A line of a remapped frame that could not be read. -/
def lostLine (s : State) (pa : Nat) : Bool :=
  match mfind s.mgmt.remap (pa / 16384) with
  | some r => r.2.getLsbD (pa / 64 % 256)
  | none => false

/-- R234: a failing line of a frame that found no spare: not even a write of the whole line succeeds. -/
def deadLine (s : State) (pa : Nat) : Bool :=
  match mfind s.mgmt.remap (pa / 16384) with
  | some r => decide (256 ≤ r.1) && r.2.getLsbD (pa / 64 % 256)
  | none => false

/-- R234: the address a byte serves. -/
def logicalAddr (s : State) (a : Nat) : Nat :=
  match s.mgmt.remap.find? fun e => decide (e.2.1 < 256) && spareBase / 16384 + e.2.1 == a / 16384 with
  | some e => e.1 * 16384 + a % 16384
  | none => a

/-- R234: a read of n bytes of device memory at a physical address. -/
def devBytes (s : State) (pa n : Nat) : List Byte := readBytes s.dev (servedAddr s pa) n

/-! ## Windows (R126 to R129) -/

def classOf (s : State) (v : Nat) : Nat :=
  match mfind s.contracts.inForce v with
  | some c => fieldAt c.bytes 1 1
  | none => 0

def winmask (s : State) (v : Nat) : Nat :=
  match mfind s.contracts.inForce v with
  | some c => fieldAt c.bytes 8 4
  | none => 0

/-- R129. -/
def serves (s : State) (i : Nat) (w : Window) (v : Nat) : Bool :=
  w.valid &&
    (if v = 0 then !w.shared && w.owner == 0
     else (mfind s.contracts.inForce v).isSome && nbits (winmask s v) i i == 1 &&
       (if w.shared then classOf s v == 3 else w.owner == v))

def windowAt (s : State) (i : Nat) : Option Window := s.frame.view[i]?

def windowActive (s : State) (w : Window) : Bool :=
  w.valid && decide (w.start ≤ s.frame.tick.toNat ∧ s.frame.tick.toNat < w.start + w.len)

/-- The window a core lies in at the current tick, by index. -/
def windowOfCore (s : State) (core : Nat) : Option (Nat × Window) :=
  let go := fun (acc : Option (Nat × Window)) (e : Window × Nat) =>
    match acc with
    | some x => some x
    | none => if windowActive s e.1 && e.1.cores.getLsbD core then some (e.2, e.1) else none
  if s.frame.started && !(coreAt s core).absent && (clusterAt s (clusterOf core)).gstate == 0 then
    (s.frame.view.zipIdx).foldl go none
  else none

/-- R129: the VNPU is served on the core now. -/
def servedOn (s : State) (core v : Nat) : Bool :=
  match windowOfCore s core with
  | some (i, w) => serves s i w v
  | none => false

/-- R91: the DONE of the last accepted submission of either kind. -/
def lastAccepted (s : State) : Nat := max s.frame.lastDone s.contracts.lastDone
def frameTicks (s : State) : Nat := s.frame.len * 1000
def boundaryTick (s : State) : Nat := s.tick.toNat + (frameTicks s - s.frame.tick.toNat)

/-- R91: the staged set over the tables in force. -/
def withStaged (s : State) : State :=
  let f := match s.frame.staged with
    | some t => { s.frame with len := t.1, view := t.2, staged := none }
    | none => s.frame
  let c := s.contracts.staged.foldl (fun m e => match e.2 with | some c => mput m e.1 c | none => mdel m e.1) s.contracts.inForce
  { s with frame := f, contracts := { s.contracts with inForce := c, staged := [] } }

/-- R91: the staged set takes effect at a boundary that lies more than 4,000 ticks after the last accepted submission. -/
def stagedDue (s : State) (boundary : Nat) : Bool := decide (lastAccepted s + 4000 < boundary)

/-- The tables that will be in force from the coming boundary on. -/
def comingTables (s : State) : State := if stagedDue s (boundaryTick s) then withStaged s else s

/-- R146: window i serves a class A VNPU. -/
def classAWindow (s : State) (i : Nat) (w : Window) : Bool := !w.shared && serves s i w w.owner && classOf s w.owner == 1

/-- R146: the class A windows, with the tables they stand in, whose span from START − 4,000 to the window's end covers a core now. -/
def guards (s : State) (core : Nat) : List (State × Nat × Window) :=
  let t := s.frame.tick.toNat
  let n := comingTables s
  if s.frame.started then
    ((s.frame.view.zipIdx).filter fun e =>
      e.1.cores.getLsbD core && classAWindow s e.2 e.1 && decide (e.1.start - 4000 ≤ t ∧ t < e.1.start + e.1.len)).map (fun e => (s, e.2, e.1)) ++
    ((n.frame.view.zipIdx).filter fun e =>
      e.1.cores.getLsbD core && classAWindow n e.2 e.1 && decide (e.1.start < 4000 ∧ frameTicks s + e.1.start - 4000 ≤ t)).map (fun e => (n, e.2, e.1))
  else []

def inGuard (s : State) (core : Nat) : Bool := !(guards s core).isEmpty

/-- R146: a team of VNPU v may be placed on the core. -/
def guardAllows (s : State) (core v : Nat) : Bool := (guards s core).all fun g => serves g.1 g.2.1 g.2.2 v

/-- Asks for a decision of the window a core lies in (R130). -/
def askDecision (s : State) (core : Nat) : State :=
  match windowOfCore s core with
  | some (i, _) => post s (.dispatchDecision i)
  | none => s

/-! ## Banks (R195) -/

/-- R202: a wait that blocks a team. -/
def blockingWait : Wait → Bool
  | .kwait | .lwait | .tag | .ownw | .phase | .wfe | .recv | .queue _ | .send => true
  | .none | .swp | .stop | .loads | .held | .ended => false

/-- A not-present fault that has not been answered. -/
def openFault : Option SeqFault → Bool
  | some f => !f.answered
  | none => false

/-- R203: the team waits for the answer to a fault of its sequencer or of its lanes' fetch. -/
def faulted (x : Ctx) : Bool := openFault x.fault || openFault x.laneFault

def blocked (x : Ctx) : Bool := blockingWait x.wait || faulted x

def runnable (x : Ctx) : Bool := x.phase == .running && !blocked x

/-- R204: the core leaves the bank of a team that waits for an answer. -/
def leftFault (running : Bool) (o : Option SeqFault) : Option SeqFault := o.map fun f => { f with switched := f.switched || running }

/-- R195, R204: switches to the other bank when the executing one is empty, stopped, or stands at a not-present fault, and the other can run. It does not leave the bank
of a team that is being placed or restored there. -/
def settleBank (s : State) (core : Nat) : State :=
  let k := coreAt s core
  let c := 2 * core + k.bank
  let here := ctxAt s c
  let r := here.phase == .running
  if (here.phase == .empty || here.phase == .stopped || faulted here) && here.drain == .off && runnable (ctxAt s (2 * core + (1 - k.bank))) then
    modCore (setCtx s c { here with fault := leftFault r here.fault, laneFault := leftFault r here.laneFault }) core fun x => { x with bank := 1 - x.bank }
  else s

end Sys2Proof.Machine
end

