-- ==== Sys2Proof/Machine/Translate.lean ====
section
/-!
DEFINITION. Translation: page tables and what a walk finds (R212 to R218), TLB entries (R220 to R222), the access checks (R219).
-/
namespace Sys2Proof.Machine

/-- R212: bits of a page offset for a size code. -/
def pageBits (size : Nat) : Nat := if size = 0 then 14 else if size = 1 then 21 else 30

def vpnOf (va size : Nat) : Nat := va / 2 ^ pageBits size

/-- R215: the hash of way j. -/
def hashMul (j : Nat) : Nat := if j = 0 then 0x9E3779B97F4A7C15 else 0xC6A4A7935BD1E995
def hashWay (j vpn b : Nat) : Nat := vpn * hashMul j % 2 ^ 64 / 2 ^ (64 - b)

/-- R214: descriptor registers of VNPU v and size s: 0 TD_OLD, 1 TD_NEW, 2 TD_MIG. -/
def tdReg (s : State) (v size r : Nat) : Word := mget s.xlate.td (32 * v + 4 * size + r) 0

def tdEn (w : Word) : Bool := w.getLsbD 7
def tdB (w : Word) : Nat := wbits w 4 0
def tdBase (w : Word) : Nat := wbits w 45 12 * 4096

/-- R215: the bucket of way j for a size, or none when the table does not exist: its physical address. -/
def bucketAddr (s : State) (v size va j : Nat) : Option Nat :=
  let old := tdReg s v size 0
  let new := tdReg s v size 1
  let vpn := vpnOf va size
  if tdEn old then
    let t := if tdEn new && decide (hashWay j vpn (tdB old) < wbits (tdReg s v size 2) 31 0) then new else old
    some (tdBase t + 64 * (2 ^ tdB t * j + hashWay j vpn (tdB t)))
  else none

/-- R234: where the bucket's bytes lie. -/
def bucketBytes (s : State) (v size va j : Nat) : Option Nat := (bucketAddr s v size va j).map (servedAddr s)

/-- R217: the leaf word 0 of entry i of a bucket, when it matches. -/
def matchEntry (m : Memory) (bucket size vpn i : Nat) : Option Word :=
  let w0 : Word := BitVec.ofNat 64 (readLe m (bucket + 16 * i) 8)
  let w1 : Word := BitVec.ofNat 64 (readLe m (bucket + 16 * i + 8) 8)
  if w0.getLsbD 0 && wbits w0 17 16 == size && wbits w1 33 0 == vpn then
    some (if wbits w1 63 34 == 0 then w0 else w0 ||| BitVec.ofNat 64 (2 ^ 63)) else none

def orElse {α : Type} : Option α → (Unit → Option α) → Option α
  | some x, _ => some x
  | none, f => f ()

def matchBucket (s : State) (v size va j : Nat) : Option Word :=
  match bucketBytes s v size va j with
  | none => none
  | some b =>
    orElse (matchEntry s.dev b size (vpnOf va size) 0) fun _ =>
    orElse (matchEntry s.dev b size (vpnOf va size) 1) fun _ =>
    orElse (matchEntry s.dev b size (vpnOf va size) 2) fun _ => matchEntry s.dev b size (vpnOf va size) 3

/-- R215: the leaf of a walk with its size, smaller pages first, way 0 before way 1. -/
def walkLeaf (s : State) (v va : Nat) : Option (Nat × Word) :=
  let at' := fun size => orElse (matchBucket s v size va 0) fun _ => matchBucket s v size va 1
  orElse ((at' 0).map fun l => (0, l)) fun _ =>
  orElse ((at' 1).map fun l => (1, l)) fun _ => (at' 2).map fun l => (2, l)

def leafMT (l : Word) : Nat := wbits l 9 8
def leafHome (l : Word) : Nat := wbits l 13 11
def leafFrame (l : Word) : Nat := wbits l 51 20
def leafSY (l : Word) : Bool := l.getLsbD 7
def leafRC (l : Word) : Bool := l.getLsbD 6

/-- R61: a leaf whose page meets a firmware region, as every page among its addresses does: no guest translation reaches one (log 59). -/
def meetsFwRegion (size : Nat) (l : Word) : Bool :=
  (List.range 2).any fun d => decide (leafFrame l * 16384 < fwBase d + 2 ^ 26 ∧ fwBase d < leafFrame l * 16384 + 2 ^ pageBits size)

/-- R218. A must-be-0 bit of word 1 is carried in bit 63 by `matchEntry`. -/
def malformed (size : Nat) (l : Word) : Bool :=
  wbits l 63 52 != 0 || wbits l 19 18 != 0 || leafMT l == 3 || (l.getLsbD 4 && !l.getLsbD 2) ||
    leafFrame l % 2 ^ (pageBits size - 14) != 0 || (leafMT l == 0 && (decide (spareBase ≤ leafFrame l * 16384) || meetsFwRegion size l))

def ringN (s : State) : Nat := wbits s.mgmt.modcfg 7 5
def modId (s : State) : Nat := wbits s.mgmt.modcfg 4 2
def ringOn (s : State) : Bool := s.mgmt.modcfg.getLsbD 0

/-- R54: a second level, a remote access and a migration are admitted. -/
def ringAdmitted (s : State) : Bool := ringOn s && decide (2 ≤ ringN s)

/-- R45: a remote leaf that reaches no other module. -/
def remoteAbsent (s : State) (l : Word) : Bool :=
  leafMT l == 2 && (!ringAdmitted s || decide (ringN s ≤ leafHome l) || leafHome l == modId s)

/-- The outcome of a translation: the leaf and its size; not present, malformed or not; no locked entry covers the address; a bucket that the walk reads
lies in a LOST line (R234, R235). -/
inductive Xlat where
  | ok (size : Nat) (leaf : Word)
  | absent (malf : Bool)
  | unlocked
  | lost
  deriving DecidableEq, Repr

/-- R215: the buckets a walk reads. -/
def walkLines (s : State) (v va : Nat) : List Nat :=
  (List.range 6).filterMap fun i => bucketAddr s v (i / 2) va (i % 2)

/-- R235: a bucket of the walk that cannot be read. -/
def lostBucket (s : State) (v va : Nat) : Option Nat := (walkLines s v va).find? (lostLine s)

/-- R215, R218, R45: a walk's answer. -/
def walk (s : State) (v : Nat) (va : Word) : Xlat :=
  if wbits va 63 48 ≠ 0 then .absent false
  else if (lostBucket s v va.toNat).isSome then .lost
  else match walkLeaf s v va.toNat with
    | none => .absent false
    | some (size, l) => if malformed size l then .absent true else if remoteAbsent s l then .absent false else .ok size l

/-! ## TLBs -/

def tlbMatches (v va : Nat) (e : TlbEntry) : Bool := e.v == v && e.vpn == vpnOf va e.size

/-- R215, R220: the entry that decides: smallest page first. -/
def tlbFind (l : List TlbEntry) (v va : Nat) : Option TlbEntry :=
  let at' := fun size => l.find? fun e => tlbMatches v va e && e.size == size
  orElse (at' 0) fun _ => orElse (at' 1) fun _ => at' 2

/-- Most recently used first. -/
def tlbTouch (l : List TlbEntry) (e : TlbEntry) : List TlbEntry := e :: l.filter (· != e)

def dropLast {α : Type} (p : α → Bool) (l : List α) : List α :=
  match l.reverse.find? p with
  | none => l
  | some _ => (l.reverse.eraseP p).reverse

/-- R220: installs an entry in its set; the least recently used unlocked way of the set makes room, and a set with no such way takes none. -/
def tlbFill (sets ways : Nat) (l : List TlbEntry) (e : TlbEntry) : List TlbEntry :=
  let l1 := l.filter fun x => !(x.v == e.v && x.size == e.size && x.vpn == e.vpn)
  let own := e.vpn % sets
  let new := { e with set := own }
  let inSet := fun (x : TlbEntry) => x.set == own
  if (l1.filter inSet).length < ways then new :: l1
  else if l1.any fun x => inSet x && !x.locked then new :: dropLast (fun x => inSet x && !x.locked) l1
  else l1

def lockedCount (l : List TlbEntry) : Nat := (l.filter (·.locked)).length

/-- R222: where a new locked entry goes: the unlocked entry of its page; an invalid way of its set, or its least recently used unlocked way; else the
least recently used unlocked way of the lowest-numbered set that has one. Where no set has one, an invalid way of the lowest-numbered set that has such takes it (log 77). -/
def tlbLock (l : List TlbEntry) (e : TlbEntry) : List TlbEntry :=
  let same := fun (x : TlbEntry) => x.v == e.v && x.size == e.size && x.vpn == e.vpn
  if l.any same then l.map fun x => if same x then { x with locked := true } else x
  else
    let inSet := fun n (x : TlbEntry) => x.set == n
    let own := e.vpn % 16
    let put := fun n => { e with set := n, locked := true } :: dropLast (fun x => inSet n x && !x.locked) l
    if (l.filter (inSet own)).length < 12 then { e with set := own, locked := true } :: l
    else if l.any fun x => inSet own x && !x.locked then put own
    else match (List.range 16).find? fun n => l.any fun x => inSet n x && !x.locked with
      | some n => put n
      | none =>
        match (List.range 16).find? fun n => decide ((l.filter (inSet n)).length < 12) with
        | some n => { e with set := n, locked := true } :: l
        | none => l

/-- R221: the selector of an invalidation: VNPU, size (3 for every size), all, and the page's VA bits 47:14. -/
def tlbHit (v size : Nat) (all : Bool) (vpn16 : Nat) (e : TlbEntry) : Bool :=
  e.v == v && (all || ((size == 3 || e.size == size) && e.vpn == vpn16 / 2 ^ (pageBits e.size - 14)))

/-- R222: class A teams run in locked-window mode. -/
def lockedMode (s : State) (v : Nat) : Bool := v != 0 && classOf s v == 1

/-! ## Access checks (R219) -/

/-- What a check is made for. `plain` marks the accesses an SY page refuses; `carried` an atomic a host page carries (R33). -/
structure Chk where
  read : Bool := false
  write : Bool := false
  exec : Bool := false
  atomic : Bool := false
  plain : Bool := true
  carried : Bool := true
  deriving DecidableEq, Repr

/-- R219 checks 3 to 5: the first that fails. -/
def leafCheck (priv : Bool) (k : Chk) (l : Word) : Option Nat :=
  if l.getLsbD 5 && !priv then some 0x15
  else if k.read && !l.getLsbD 1 then some 0x11
  else if k.write && !l.getLsbD 2 then some 0x12
  else if k.exec && !l.getLsbD 3 then some 0x13
  else if k.atomic && (!l.getLsbD 4 || (leafMT l == 1 && !k.carried)) then some 0x14
  else if (leafSY l || leafRC l) && leafMT l != 0 then some 0x19
  else if leafSY l && k.plain then some 0x19
  else none

/-- The physical, bus or remote address an access reaches (R213). -/
def leafAddr (size : Nat) (l : Word) (va : Word) : Nat := leafFrame l * 16384 + va.toNat % 2 ^ pageBits size

/-- R225: the KIND of a not-present fault. -/
def chkKind (k : Chk) : Nat := if k.atomic then 3 else if k.exec then 2 else if k.write then 1 else 0

/-- The outcome of checks 1 to 5: where the access goes, a fault with its cause, or not present. -/
inductive Reach where
  | ok (mt home pa : Nat) (rc sy : Bool)
  | fault (cause : Nat)
  | absent (malf : Bool)
  deriving DecidableEq, Repr

def reachOf (priv : Bool) (k : Chk) (va : Word) : Xlat → Reach
  | .absent m => .absent m
  | .unlocked => .fault 0x16
  | .lost => .fault 0x25
  | .ok size l =>
    match leafCheck priv k l with
    | some c => .fault c
    | none => .ok (leafMT l) (leafHome l) (leafAddr size l va) (leafRC l) (leafSY l)

end Sys2Proof.Machine
end

