-- ==== Sys2Proof/Machine/Slices.lean ====
section
/-!
DEFINITION. What stands behind an access to memory: token buckets (R149 to R157), lines and slices (R227 to R229), race detection (R294 to R300), atomics
(R230, R387, R388), remapped frames (R234).
-/
namespace Sys2Proof.Machine

/-! ## Buckets -/

def bucketKey (die point v : Nat) : Nat := die * 4096 + point * 32 + v
def bucketAt (s : State) (die point v : Nat) : Bucket := mget s.buckets (bucketKey die point v) freshBucket
def setBucket (s : State) (die point v : Nat) (b : Bucket) : State := { s with buckets := mput s.buckets (bucketKey die point v) b }

/-- R153: an arrival is admitted when the bucket holds no older request and its level reaches the charge. -/
def admits (b : Bucket) (charge : Nat) : Bool := b.held.isEmpty && decide (charge ≤ b.level)

/-- R154: what an exhaustion does to the bucket. -/
def exhaust (b : Bucket) (who : Agent) (ctx charge : Nat) : Bucket :=
  let b1 := { b with exh := if b.held.isEmpty then min 255 (b.exh + 1) else b.exh, trapped := b.trapped || b.mode == 2 || b.mode == 3 }
  if b.mode = 0 then b1
  else if b.mode = 2 then { b1 with level := b.level - charge }
  else { b1 with held := b.held ++ [{ who := who, ctx := ctx, charge := charge }] }

/-- R155: a team holds a pending 0x26: its own, or that of a command of its engines, which may not have started. -/
def holds26 (s : State) (c : Nat) : Bool :=
  (ctxAt s c).pend26 || ((coreAt s (coreOf c)).units.any fun e => e.2.ctx == c && e.2.cmd.trap26) ||
    ((ctxAt s c).cmdq.any fun e => e.2.any (·.trap26)) || s.run.ledger.any fun e => e.2 == .trap c

/-- The unit of an engine that runs is context c's. -/
def unitRuns (s : State) (c : Nat) : Bool :=
  match mfind (coreAt s (coreOf c)).units s.run.unit with | some u => u.ctx == c | none => false

/-- R155: a team's pending 0x26, at most one: at once for its sequencer and lanes, at the end of the command for an engine (the unit that runs, `run.unit`). -/
def trapNotice (s : State) (v c : Nat) (engine : Bool) : State :=
  if isTeam c && (ctxAt s c).v == v && (ctxAt s c).phase != .empty && !holds26 s c then
    if engine && unitRuns s c then
      modCore s (coreOf c) fun k => { k with units := k.units.map fun e => if e.1 == s.run.unit then (e.1, { e.2 with cmd := { e.2.cmd with trap26 := true } }) else e }
    else modCtx s c fun x => { x with pend26 := true }
  else s

/-- R155: a trap's vector 33 and its count in BUD_EVT. -/
def trapCount (s : State) (v : Nat) : State := raise (modVnpu s v fun x => { x with budEvt := x.budEvt + 1 }) v 33

/-- R155: a trap of VNPU v whose request context c issued (300: no team). -/
def budgetTrap (s : State) (v c : Nat) (engine : Bool) : State :=
  let s1 := trapNotice (trapCount s v) v c engine
  { s1 with run := { s1.run with traps := s1.run.traps ++ [(v, c, engine)] } }

/-- The agent that runs is an engine of a core. -/
def engineRuns (s : State) : Bool := match s.run.agent with | .turn (.engine _ _) => true | _ => false

/-- A request of `who` arrives at a regulation point: admitted or held (R153, R154). VNPU 0 and the complexes are not regulated (R150). -/
def bucketArrive (s : State) (die point v : Nat) (who : Agent) (ctx charge : Nat) : State × Bool :=
  if v = 0 then (s, true)
  else
    let b := bucketAt s die point v
    if admits b charge then (setBucket s die point v { b with level := b.level - charge }, true)
    else
      let trap := (b.mode == 2 || b.mode == 3) && !b.trapped
      let s1 := setBucket s die point v (exhaust b who ctx charge)
      (if trap then budgetTrap s1 v ctx (engineRuns s) else s1, b.mode == 0 || b.mode == 2)

/-- R152: a request's charge at an initiator. -/
def initCharge (bytes : Nat) (atomic : Bool) : Nat := if atomic then 16 else (bytes + 15) / 16 * 16

/-! ## Requests that wait (log 56) -/

/-- An agent begins a step. -/
def began (a : Agent) (s : State) : State := { s with run := { s.run with agent := a, stuck := false, spent := [], traps := [], found := [], ahead := false } }

/-- What runs cannot go on now: the step is taken back but for the requests it has made, and made again later. -/
def stall (s : State) : State := { s with run := { s.run with stuck := true } }

/-- Takes what the agent that runs has been given, when it has been. -/
def takeGiven (s : State) (g : Given) : Option State :=
  if s.run.ledger.contains (s.run.agent, g) then some { s with run := { s.run with ledger := s.run.ledger.erase (s.run.agent, g) } } else none

/-- The step waits for a request of its own that a bucket holds. -/
def waitsFor (s : State) (key : Nat) : State := stall { s with run := { s.run with found := key :: s.run.found } }

/-- A request of the agent that runs at a regulation point: admitted now or earlier, or the step waits (R153, R154). A step that waits makes no further request. -/
def regulated (s : State) (die point v ctx charge : Nat) : State :=
  let key := bucketKey die point v
  if s.run.stuck || v == 0 then s
  else
    match takeGiven s (.paid key charge) with
    | some s1 => s1
    | none =>
      if (s.run.found.filter (· == key)).length < ((bucketAt s die point v).held.filter fun h => h.who == s.run.agent).length then waitsFor s key
      else
        let r := bucketArrive s die point v s.run.agent ctx charge
        if r.2 then { r.1 with run := { r.1.run with spent := r.1.run.spent ++ [.paid key charge] } } else waitsFor r.1 key

/-- The agent that runs issues request g, which stays issued if its step is taken back (R94). -/
def noteIssued (g : Given) (s : State) : State :=
  { s with run := { s.run with ledger := s.run.ledger.erase (s.run.agent, g), spent := s.run.spent ++ [g] } }

/-- The step from `s` to `t` has issued request g, unless it made none because it waits already. -/
def issued (g : Given) (s t : State) : State := if s.run.stuck then t else noteIssued g t

/-- As `issued`, where `t` waits for the request itself. -/
def issuedHeld (g : Given) (s t : State) : State := if t.run.stuck then issued g s t else t

/-- A line of a host page that the host does not answer (R33): the machine-check is due. -/
def hostLost (s : State) : Bool := s.run.ledger.contains (s.run.agent, .hostLost)

/-- R33: a PCIe request of VNPU v's function leaves the module. -/
def hostRequest (s : State) (v : Nat) (write : Bool) (a n : Nat) : State :=
  { s with out := { s.out with pcie := s.out.pcie ++ [{ fn := v, write := write, addr := a, bytes := n }] } }

/-! ## Lines, bridges and slices (R35, R37, R227, R228) -/

def channelLine (x : Nat) : Nat := x / 32 % 2 ^ 35
def homeSlice (x : Nat) : Nat := 48 * lineDie x + 3 * lineCtl x + channelLine x % 3
/-- R35: the bridge of a line. -/
def bridgeOf (x : Nat) : Nat := homeSlice x % 48 % 8

/-- R37: the bridge that carries the traffic of bridge b. R37 does not say what does when the bridge that takes over has failed too: the model still charges that one,
and follows no second reroute (DESIGN CHOICE, log 96). -/
def carriedBy (s : State) (b : Nat) : Nat := if s.mgmt.reroute.getLsbD b then (b + 1) % 8 else b

/-- R35, R150: a request from a die to a line homed on the other one crosses its bridge, whose input on the requester's die regulates it (DESIGN CHOICE, log 24). -/
def crossDie (s : State) (die v ctx x charge : Nat) : State :=
  if lineDie x = die then s else regulated s die (48 + carriedBy s (bridgeOf x)) v ctx charge

def sliceSet (x : Nat) : Nat := channelLine x / 3 % 2048

/-- The slice that serves a logical slice: a map's value from 1000 up names the logical slice on which its lines are homed, and which may have moved itself. -/
def servingFrom (m : SMap Nat) : Nat → Nat → Nat
  | 0, n => n
  | fuel + 1, n => let v := mget m n n; if 1000 ≤ v then servingFrom m fuel (v - 1000) else v

/-- R14, R21: the slice that serves a logical slice: itself, its die's spare, or the one that serves its neighbour. -/
def servingSlice (s : State) (n : Nat) : Nat := servingFrom s.mgmt.sliceMap 48 n

def sliceKey (s : State) (x : Nat) : Nat := servingSlice s (homeSlice x) * 2048 + sliceSet x

def waymask (s : State) (v : Nat) : Nat :=
  match mfind s.contracts.inForce v with
  | some c => if fieldAt c.bytes 1 1 = 1 ∨ fieldAt c.bytes 1 1 = 2 then fieldAt c.bytes 4 2 else 0
  | none => 0

/-- R228: the ways a VNPU may allocate in: its own mask for class A and B, else the shared pool. -/
def allowedWays (s : State) (v : Nat) : Nat :=
  let own := waymask s v
  if own ≠ 0 then own
  else 65535 - (s.contracts.inForce.foldl (fun a e => a ||| waymask s e.1) 0)

def mayUse (mask way : Nat) : Bool := mask / 2 ^ way % 2 == 1

def occlim (s : State) (v : Nat) : Nat :=
  match mfind s.contracts.inForce v with
  | some c => if fieldAt c.bytes 6 2 = 0xFFFF then 2 ^ 20 else fieldAt c.bytes 6 2
  | none => 2 ^ 20

/-- R229: lines owned by v in a slice. -/
def linesOwned (s : State) (slice v : Nat) : Nat :=
  s.slices.foldl (fun a e => if e.1 / 2048 = slice then a + (e.2.filter fun l => l.owner == v).length else a) 0

/-- R228: the victim among a set's lines, least recently used last: over its occupancy limit first, never a pinned line (R384). -/
def victim (s : State) (slice mask : Nat) (l : List SliceLine) : Option SliceLine :=
  let cand := l.reverse.filter fun e => mayUse mask e.way && e.pins.isEmpty
  orElse (cand.find? fun e => decide (occlim s e.owner < linesOwned s slice e.owner)) fun _ => cand.head?

/-- A request at a controller that holds nobody up while it waits: a writeback, in its owner's queue alone (R156). -/
def unheld (s : State) (die point v charge : Nat) : State :=
  if s.run.stuck || v == 0 then s
  else
    match takeGiven s (.paid (bucketKey die point v) charge) with
    | some s1 => s1
    | none =>
      let s1 := (bucketArrive s die point v .nobody 300 charge).1
      { s1 with run := { s1.run with spent := s1.run.spent ++ [.paid (bucketKey die point v) charge] } }

/-- R161, R152: a line goes back to memory, charged to its owner. -/
def writeback (s : State) (e : SliceLine) : State :=
  if e.dirty then chargeVnpu (unheld s (lineDie e.line) (64 + lineCtl e.line) e.owner 64) e.owner (weight s 12) else s

/-- R228: the slice access of VNPU v to a line; true when the line was absent. -/
def sliceTouch (s : State) (v x : Nat) (write : Bool) : State × Bool :=
  let key := sliceKey s x
  let l := mget s.slices key []
  let mask := allowedWays s v
  match l.find? fun e => e.line == x with
  | some e =>
    let e' := { e with dirty := e.dirty || write }
    let l' := if mayUse mask e.way then e' :: l.filter (fun y => y.line != x) else l.map fun y => if y.line == x then e' else y
    ({ s with slices := mput s.slices key l' }, false)
  | none =>
    match (List.range 16).find? fun w => mayUse mask w && !(l.any fun e => e.way == w) with
    | some w => ({ s with slices := mput s.slices key ({ line := x, way := w, owner := v, dirty := write, pins := [] } :: l) }, true)
    | none =>
      match victim s (key / 2048) mask l with
      | some d =>
        let s1 := writeback s d
        ({ s1 with slices := mput s1.slices key ({ line := x, way := d.way, owner := v, dirty := write, pins := [] } :: l.filter fun y => y.line != d.line) }, true)
      | none => (s, true)

/-! ## Race detection (R294 to R298) -/

def slotOf (x : Ctx) : Nat := x.team % 64
def clockAt (v : SMap Nat) (i : Nat) : Nat := mget v i 0
def ownClock (x : Ctx) : Nat := clockAt x.vc (slotOf x)

def join (a b : SMap Nat) : SMap Nat := b.foldl (fun m e => if e.2 ≤ clockAt m e.1 then m else mput m e.1 e.2) a

/-- R298: the own clock rises by 1, saturating; R295: reaching 0xFFFF sets SAT. -/
def bumpClock (x : Ctx) : Ctx :=
  let n := min (ownClock x + 1) 0xFFFF
  { x with vc := mput x.vc (slotOf x) n, rcsat := x.rcsat || n == 0xFFFF }

def tagAddr (s : State) (x : Nat) : Nat := servedAddr s (s.xlate.rsBase + 16 * hashWay 0 x (20 + s.xlate.rsN))
def clockAddr (s : State) (i : Nat) : Nat := servedAddr s (s.xlate.rsBase + 16 * 2 ^ (20 + s.xlate.rsN) + 256 * i)
def clockIndex (s : State) (x : Nat) : Nat := 17 + hashWay 1 x (14 + s.xlate.rsN) % (2 ^ (14 + s.xlate.rsN) - 17)

/-- R296: the id word of an entry. -/
def raceId (line v : Nat) : Nat := line % 2 ^ 40 + v * 2 ^ 40 + 2 ^ 63

/-- R296: the tag word of a line for an accessor; an empty tag reads 0. -/
def tagOf (s : State) (line v epoch : Nat) : Nat :=
  let t := readLe s.dev (tagAddr s line) 8
  if readLe s.dev (tagAddr s line + 8) 8 = raceId line v ∧ nbits t 63 48 = epoch then t else 0

/-- R297: the race conditions of a read and of a write, for slot a and clock vector vc. -/
def readRaces (t a : Nat) (vc : SMap Nat) : Bool :=
  nbits t 0 0 == 1 && nbits t 47 42 != a && decide (clockAt vc (nbits t 47 42) < nbits t 41 26)
def writeRaces (t a : Nat) (vc : SMap Nat) : Bool :=
  readRaces t a vc || (nbits t 1 1 == 1 && nbits t 25 20 != a && decide (clockAt vc (nbits t 25 20) < nbits t 19 4))

/-- R297: the tag after an access. -/
def tagWord (epoch wslot wclk rslot rclk rv wv : Nat) : Nat :=
  epoch * 2 ^ 48 + wslot * 2 ^ 42 + wclk * 2 ^ 26 + rslot * 2 ^ 20 + rclk * 16 + rv * 2 + wv
def tagAfter (t epoch a own : Nat) (isRead isWrite : Bool) : Nat :=
  tagWord epoch (if isWrite then a else nbits t 47 42) (if isWrite then own else nbits t 41 26) (if isRead then a else nbits t 25 20)
    (if isRead then own else nbits t 19 4) (if isRead then 1 else nbits t 1 1) (if isWrite then 1 else nbits t 0 0)

/-- R297: checks and records one access; none when it races. -/
def raceStep (s : State) (v epoch a : Nat) (vc : SMap Nat) (line : Nat) (isRead isWrite : Bool) : Option State :=
  if s.xlate.rsEn then
    let t := tagOf s line v epoch
    if (if isWrite then writeRaces t a vc else readRaces t a vc) then none
    else some { s with dev := writeLe (writeLe s.dev (tagAddr s line) 8 (tagAfter t epoch a (clockAt vc a) isRead isWrite)) (tagAddr s line + 8) 8 (raceId line v) }
  else some s

def readClock (s : State) (i : Nat) : SMap Nat :=
  (List.range 64).foldl (fun m k => let n := readLe s.dev (clockAddr s i + 2 * k) 2; if n = 0 then m else mput m k n) []
def clockIdLe (s : State) (i : Nat) : Nat := readLe s.dev (clockAddr s i + 128) 8
def clockEpoch (s : State) (i : Nat) : Nat := readLe s.dev (clockAddr s i + 136) 2
def writeClock (s : State) (i id epoch : Nat) (k : SMap Nat) : State :=
  let a := clockAddr s i
  let d1 := (List.range 64).foldl (fun m j => writeLe m (a + 2 * j) 2 (clockAt k j)) s.dev
  { s with dev := writeLe (writeLe (writeLe d1 (a + 128) 8 id) (a + 136) 2 epoch) (a + 138) 118 0 }

/-- R296: an SY line's clock for an accessor; none when the entry is empty for it. -/
def lineClock (s : State) (line v epoch : Nat) : Option (SMap Nat) :=
  let i := clockIndex s line
  if clockIdLe s i = raceId line v ∧ clockEpoch s i = epoch then some (readClock s i) else none
/-- R298: the fallback clock, whose line index is not compared. -/
def fallbackClock (s : State) (v epoch : Nat) : SMap Nat :=
  if clockIdLe s v / 2 ^ 40 = raceId 0 v / 2 ^ 40 ∧ clockEpoch s v = epoch then readClock s v else []

/-- R298: the acquire part. -/
def syAcquire (s : State) (c line : Nat) : State :=
  let x := ctxAt s c
  if s.xlate.rsEn then
    setCtx s c { x with vc := join x.vc (match lineClock s line x.v x.epoch with | some k => k | none => fallbackClock s x.v x.epoch) }
  else s

/-- R298: the release part: K join V into the line's entry; a live clock of another line of this VNPU and epoch is joined into the
fallback clock first. -/
def syRelease (s : State) (c line : Nat) : State :=
  let x := ctxAt s c
  if s.xlate.rsEn then
    let i := clockIndex s line
    let old := clockIdLe s i
    let mine := clockEpoch s i == x.epoch && old / 2 ^ 63 == 1 && nbits old 44 40 == x.v
    let s1 := if mine && old != raceId line x.v then
        writeClock s x.v (raceId 0 x.v) x.epoch (join (fallbackClock s x.v x.epoch) (readClock s i)) else s
    let k := match lineClock s line x.v x.epoch with | some k => join k x.vc | none => x.vc
    setCtx (writeClock s1 i (raceId line x.v) x.epoch k) c (bumpClock x)
  else s

/-! ## What an access does to its bytes -/

/-- R387: the new value of an atomic of n bytes. -/
def amoNew (op : AmoOp) (n old v : Nat) : Nat :=
  let m := 2 ^ (8 * n)
  let sgn := fun (x : Nat) => if m / 2 ≤ x then (x : Int) - m else (x : Int)
  match op with
  | .add => (old + v) % m
  | .and => old &&& v
  | .or => old ||| v
  | .xor => old ^^^ v
  | .min => if sgn v < sgn old then v else old
  | .max => if sgn old < sgn v then v else old
  | .swap => v
  | .fadd => fadd32 old v

/-- The bytes an access writes, given what stood there; none writes nothing. -/
def newBytes (k : AccKind) (n old value compare : Nat) : Option Nat :=
  match k with
  | .load | .pref | .ldacq => none
  | .store | .strel => some value
  | .amo op => some (amoNew op n old value)
  | .cas => if old = compare then some value else none

def isWriteKind : AccKind → Bool
  | .store | .strel | .amo _ | .cas => true
  | _ => false
def isAtomicKind : AccKind → Bool
  | .amo _ | .cas => true
  | _ => false
/-- R297: which accesses record a reader. -/
def readsKind : AccKind → Bool
  | .store | .strel => false
  | _ => true
/-- Accesses that return a value to a register. -/
def returnsKind : AccKind → Bool
  | .load | .ldacq | .amo _ | .cas => true
  | _ => false

/-- Reads and writes the bytes of an access in one memory. -/
def accessMemory (m : Memory) (k : AccKind) (pa n : Nat) (value compare : Word) : Memory × Word :=
  let old := readLe m pa n
  let mask := 2 ^ (8 * n)
  match newBytes k n old (value.toNat % mask) (compare.toNat % mask) with
  | some v => (writeLe m pa n v, BitVec.ofNat 64 old)
  | none => (m, BitVec.ofNat 64 old)

end Sys2Proof.Machine
end

