-- ==== Sys2Proof/Machine/Walk.lean ====
section
/-!
DEFINITION. Walks with what they cost (R152, R161, R215, R220), translation through the TLBs (R220, R222), and where an access reaches (R219).
-/
namespace Sys2Proof.Machine

/-! ## Walks -/

/-- A charge to the team of a context, or to the VNPU alone for a front end (contexts of 300 and above). -/
def chargeWho (s : State) (c v i n : Nat) : State := if c < 300 then chargeCtx s c i n else chargeVnpu s v (weight s i * n)

/-- R152, R161, R35: walker k reads one bucket through its home slice, for context c and VNPU v. -/
def walkRead (k c v : Nat) (s : State) (a : Nat) : State :=
  let x := lineOf a
  let t := sliceTouch (crossDie (issuedHeld (.read v c 0 0 a 64 false []) s (regulated s (k / 6) (56 + k % 6) v c 64)) (k / 6) v c x 64) v x false
  let s1 := chargeWho t.1 c v 11 1
  if t.2 then chargeWho (regulated s1 (lineDie x) (64 + lineCtl x) v c 64) c v 12 1 else s1

def walkReads (s : State) (k c v va : Nat) : State := (walkLines s v va).foldl (walkRead k c v) s

/-! ## The TLBs -/

/-- A leaf that a TLB holds: not present while it reaches no other module (R45, R54). -/
def hitLeaf (s : State) (e : TlbEntry) : Xlat := if remoteAbsent s e.leaf then .absent false else .ok e.size e.leaf

/-- The entry a walk installs. -/
def newEntry (v size : Nat) (va leaf : Word) : TlbEntry := { v, size, vpn := vpnOf va.toNat size, leaf, set := 0, locked := false }

/-- R220: a walker's translation for a context: its L2 TLB, then a walk that fills it. R220 gives the set of an L1 entry only; an L2 entry takes the set that its VPN,
of its size, gives mod 512 (DESIGN CHOICE, log 92). -/
def translateL2 (s : State) (k c v : Nat) (va : Word) : State × Xlat :=
  if wbits va 63 48 ≠ 0 then (s, .absent false)
  else
    let l := mget s.xlate.l2 k []
    match tlbFind l v va.toNat with
    | some e => (modXlate s fun t => { t with l2 := mput t.l2 k (tlbTouch l e) }, hitLeaf s e)
    | none =>
      match walk s v va with
      | .ok size leaf =>
        (modXlate (walkReads s k c v va.toNat) fun t => { t with l2 := mput t.l2 k (tlbFill 512 8 l (newEntry v size va leaf)) }, .ok size leaf)
      | r => (s, r)

/-- R220, R222: a core's translation through its L1 TLB. -/
def translate (s : State) (core c v : Nat) (va : Word) : State × Xlat :=
  if wbits va 63 48 ≠ 0 then (s, if lockedMode s v then .unlocked else .absent false)
  else
    let l := (coreAt s core).tlb
    if lockedMode s v then
      match tlbFind (l.filter (·.locked)) v va.toNat with
      | some e => (s, hitLeaf s e)
      | none => (s, .unlocked)
    else
      match tlbFind l v va.toNat with
      | some e => (modCore s core fun k => { k with tlb := tlbTouch k.tlb e }, hitLeaf s e)
      | none =>
        match translateL2 s (clusterOf core) c v va with
        | (s1, .ok size leaf) => (modCore s1 core fun k => { k with tlb := tlbFill 16 12 k.tlb (newEntry v size va leaf) }, .ok size leaf)
        | r => r

/-- Checks 2 to 5 of an access of a team's core: through the L1 TLB (R220). A firmware core's addresses are physical (log 16). -/
def reach (s : State) (c : Nat) (k : Chk) (va : Word) : State × Reach :=
  if isFw c then (s, .ok 0 0 (va.toNat % 2 ^ 46) false false)
  else if isPrologue c then
    let r := translateL2 s (6 * (c - 200)) c (ctxAt s c).v va
    (r.1, reachOf false k va r.2)
  else
    let r := translate s (coreOf c) c (ctxAt s c).v va
    (r.1, reachOf (privileged s c) k va r.2)

end Sys2Proof.Machine
end

