-- ==== Sys2Proof/Machine/Ops.lean ====
section
/-!
DEFINITION. The named operations over memory, registers and teams: requests of a team that ends, the end of a team, taking an exception and returning from one.
-/
namespace Sys2Proof.Machine

/-- R63: in recovery no management register acts but MGMT_RESET. -/
def inert (s : State) : Bool := s.fw.mode == .recovery

/-! ## Remote requests (R43, R45, R46) -/

/-- The port carries traffic, or holds it while it retrains (R40). In its first training it does neither, so that an access which only such ports could carry meets an
unreachable module (DESIGN CHOICE, log 80). -/
def portUp (s : State) (p : Nat) : Bool := (portAt s p).state == 2 || (portAt s p).state == 3

/-- R43: neither way reaches another module. -/
def unreachable (s : State) : Bool := !portUp s 0 && !portUp s 1

/-- R43: the port of the shorter way to a module, by bit 6 of the address where both are equally short. -/
def shorterPort (s : State) (dest addr : Nat) : Nat :=
  let n := ringN s
  let hops := (dest + n - modId s) % n
  if 2 * hops < n then 0 else if n < 2 * hops then 1 else addr / 64 % 2

/-- R43: the port that a message takes which would leave on port p: with p down the other way. -/
def otherWay (s : State) (p : Nat) : Nat := if !portUp s p && portUp s (1 - p) then 1 - p else p

/-- R43: the port a message leaves on. -/
def leavePort (s : State) (dest addr : Nat) : Nat := otherWay s (shorterPort s dest addr)

/-- A request to another module leaves (R45). -/
def sendRemote (s : State) (m : RemoteMsg) : State :=
  { s with out := { s.out with remote := s.out.remote ++ [{ m with port := leavePort s m.dest m.pa }] } }

/-- A request of the agent that runs to another module: what that has answered, or the step waits for the answer. One that no way reaches, at the repeat
either (R46), is answered so at once. -/
def askRemote (s : State) (m : RemoteMsg) : State × Option (Nat × List Byte) :=
  let answer := s.run.ledger.findSome? fun e => match e with
    | (w, .reply k st d) => if w = s.run.agent ∧ k = m then some (st, d) else none
    | _ => none
  match answer with
  | some r => ({ s with run := { s.run with ledger := s.run.ledger.erase (s.run.agent, .reply m r.1 r.2) } }, some r)
  | none =>
    if s.run.stuck then (s, none)
    else if s.run.asked.any fun e => e.1 == s.run.agent && { e.2 with tag := 0 } == m then (stall s, none)
    else if unreachable s then (s, some (2, []))
    else
      let k := { m with tag := s.run.nextTag }
      (stall { sendRemote s k with run := { s.run with asked := s.run.asked ++ [(s.run.agent, k)], nextTag := s.run.nextTag + 1 } }, none)

/-- What a request for a line of text or data meets beyond the checks of R219: its bytes, a home module that refuses it (R46), a machine check at a unit. -/
inductive Got where
  | ok (b : List Byte)
  | refused
  | machine (u : Unit8) (num : Nat)
  deriving DecidableEq, Repr

/-- A request of the agent that runs for VNPU v to a remote page. -/
def remoteGot (s : State) (m : RemoteMsg) : State × Got :=
  match askRemote s m with
  | (s1, none) => (s1, .ok (List.replicate m.bytes 0))
  | (s1, some (st, d)) =>
    (s1, if st = 0 then .ok ((d ++ List.replicate m.bytes 0).take m.bytes) else if st = 1 then .refused else .machine .module m.dest)

def remoteRead (s : State) (v home pa n : Nat) : State × Got :=
  remoteGot s { noMsg with src := modId s, dest := home, v, kind := .load, pa, bytes := n }
def remoteWrite (s : State) (v home pa : Nat) (b : List Byte) : State × Got :=
  remoteGot s { noMsg with src := modId s, dest := home, v, kind := .store, pa, bytes := b.length, data := b }

/-- R24: the controller a LOST line names. -/
def memUnit (pa : Nat) : Nat := lineCtl (lineOf pa) + 16 * lineDie (lineOf pa)

/-- Reads n bytes of one line for VNPU v; `serve` is what the access costs at its home slice. -/
def readAt (s : State) (v mt home pa n : Nat) (serve : State → State) : State × Got :=
  if mt = 0 then
    (if lostLine s pa then (s, .machine .mem (memUnit pa))
     else
       let s1 := serve s
       (s1, .ok (devBytes s1 pa n)))
  else if mt = 1 then
    (if hostLost s then (s, .machine .hostPort 0) else (hostRequest s v false pa n, .ok (readBytes s.host pa n)))
  else remoteRead s v home pa n

/-- A write of a whole line clears its LOST bit (R234). -/
def clearLost (s : State) (pa : Nat) : State :=
  match mfind s.mgmt.remap (pa / 16384) with
  | some r => modMgmt s fun m => { m with remap := mput m.remap (pa / 16384) (r.1, r.2 &&& ~~~(1#256 <<< (pa / 64 % 256))) }
  | none => s

/-- Writes bytes within one line for VNPU v; `whole`: they belong to a write that covers the line. -/
def writeAt (s : State) (v mt home pa : Nat) (b : List Byte) (whole : Bool) (serve : State → State) : State × Got :=
  if mt = 0 then
    (if lostLine s pa && (!whole || deadLine s pa) then (s, .machine .mem (memUnit pa))
     else
       let s1 := serve (if whole then clearLost s pa else s)
       ({ s1 with dev := writeBytes s1.dev (servedAddr s1 pa) b }, .ok []))
  else if mt = 1 then
    (if hostLost s then (s, .machine .hostPort 0)
     else
       let s1 := hostRequest s v true pa b.length
       ({ s1 with host := writeBytes s1.host pa b }, .ok []))
  else remoteWrite s v home pa b

/-! ## Slices (R35, R152, R161, R228) -/

/-- The die from which a context's requests start. -/
def dieOfCtx (c : Nat) : Nat := if isTeam c then dieOf (coreOf c) else if isFw c then (c - 192) / 4 else c - 200

/-- R152, R161: a slice serves a request of context c for VNPU v: the bridge, the slice's charge; on a miss the controller's bucket and energy. -/
def sliceServe (s : State) (c v x charge : Nat) (write : Bool) : State :=
  let t := sliceTouch (crossDie s (dieOfCtx c) v c x charge) v x write
  let s1 := chargeCtx t.1 c 11 1
  if t.2 then chargeCtx (regulated s1 (lineDie x) (64 + lineCtl x) v c 64) c 12 1 else s1

/-- R161: a slice serves a request of a party that has no team: the charges go to VN_EUSED alone. -/
def serveAlone (s : State) (die v x charge : Nat) (write : Bool) : State :=
  let t := sliceTouch (crossDie s die v 300 x charge) v x write
  let s1 := chargeVnpu t.1 v (weight t.1 11)
  if t.2 then chargeVnpu (regulated s1 (lineDie x) (64 + lineCtl x) v 300 64) v (weight s1 12) else s1

/-- The sync parts of an access to an SY page (R298): an atomic acquires then releases. -/
def syncParts (s : State) (c line : Nat) (k : AccKind) : State :=
  match k with
  | .ldacq => syAcquire s c line
  | .strel => syRelease s c line
  | .amo _ | .cas => syRelease (syAcquire s c line) c line
  | _ => s

/-! ## Pending accesses that leave the module -/

def remoteKind : AccKind → RemoteKind
  | .store | .strel => .store
  | .amo op => .amo op
  | .cas => .cas
  | _ => .load

/-- R45: the request of a pending access. -/
def remoteMsg (s : State) (c v : Nat) (p : Pend) : RemoteMsg :=
  { src := modId s, dest := p.home, port := 0, tag := c, v, kind := remoteKind p.kind, pa := p.pa, bytes := p.bytes,
    data := natLe p.bytes p.value.toNat, compare := p.compare }

/-- Pending access i of context c leaves for its home module; an unreachable one is answered so (R46). -/
def sendPend (s : State) (c i : Nat) (p : Pend) : State :=
  if unreachable s then postArg s .remoteResponse { noArg with n := c, m := i, flag := true }
  else sendRemote s (remoteMsg s c (ctxAt s c).v p)

/-! ## Requests of a party that ends (R94 step 4) -/

/-- The first held request of agent `a` with a charge is nobody's from now on. -/
def orphan (a : Agent) (charge : Nat) : List HeldReq → List HeldReq
  | [] => []
  | h :: r => if h.who = a ∧ h.charge = charge then { h with who := .nobody, ctx := 300 } :: r else h :: orphan a charge r

/-- R94 step 4, R483: a request of the agent that runs at a regulation point, whose party ends. One that has been admitted is charged no more; one that is held there
stays held, for nobody; another arrives, and holds nobody up. -/
def goneArrive (s : State) (die point v charge : Nat) : State :=
  let b := bucketAt s die point v
  if v = 0 then s
  else match takeGiven s (.paid (bucketKey die point v) charge) with
    | some s1 => s1
    | none =>
      if b.held.any fun h => h.who == s.run.agent && h.charge == charge then setBucket s die point v { b with held := orphan s.run.agent charge b.held }
      else (bucketArrive s die point v .nobody 300 charge).1

/-- R94 step 4, R161: the home slice of a line, and on a miss its controller, complete a request of agent `a` for VNPU v from a die, whose party ends. -/
def serveGone (s : State) (a : Agent) (die v x charge : Nat) (write : Bool) : State :=
  let s0 := { s with run := { s.run with agent := a } }
  let t := sliceTouch (if lineDie x = die then s0 else goneArrive s0 die (48 + carriedBy s0 (bridgeOf x)) v charge) v x write
  let s1 := chargeVnpu t.1 v (weight t.1 11)
  let s2 := if t.2 then chargeVnpu (goneArrive s1 (lineDie x) (64 + lineCtl x) v 64) v (weight s1 12) else s1
  { s2 with run := { s2.run with agent := s.run.agent, spent := s.run.spent } }

/-- R110, R114: a remote store or atomic of a team that ends is on its way; its launch waits for the acknowledgement. `sent`: it has left already. -/
def owedStore (s : State) (c : Nat) (p : Pend) (sent : Bool) : State :=
  let x := ctxAt s c
  let m := { remoteMsg s c x.v p with tag := s.run.nextTag }
  let s1 := { s with run := { s.run with nextTag := s.run.nextTag + 1, asked := if isWriteKind p.kind then s.run.asked ++ [(.launch x.launch, m)] else s.run.asked } }
  if sent then s1 else sendRemote s1 m

/-- R94 step 4, R297, R298: an access of context c that has been issued, by agent `a` as it is served, completes at its home; its reply is discarded. A racing access
changes nothing. -/
def completeAccess (a : Agent) (c : Nat) (s : State) (p : Pend) : State :=
  let x := ctxAt s c
  if p.place == .done then s
  else if p.mt == 2 then
    (if p.place == .held || p.place == .atSlice then (if unreachable s then s else owedStore s c p false)
     else if p.place == .pageHeld then s
     else owedStore s c p true)
  else if p.mt == 1 then
    { hostRequest s x.v (isWriteKind p.kind) p.pa p.bytes with host := (accessMemory s.host p.kind p.pa p.bytes p.value p.compare).1 }
  else
    match (if p.rc then raceStep s x.v x.epoch (slotOf x) x.vc (lineOf p.pa) (readsKind p.kind) (isWriteKind p.kind) else some s) with
    | none => s
    | some s1 =>
      if lostLine s1 p.pa then s1
      else
        let s2 := serveGone s1 a (dieOfCtx c) x.v (lineOf p.pa) (initCharge p.bytes (isAtomicKind p.kind)) (isWriteKind p.kind)
        let s3 := { s2 with dev := (accessMemory s2.dev p.kind (servedAddr s2 p.pa) p.bytes p.value p.compare).1 }
        if p.sy then syncParts s3 c (lineOf p.pa) p.kind else s3

def completeRequests (s : State) (c : Nat) : State := (ctxAt s c).mem.foldl (completeAccess (.turn (.mem c)) c) s

/-- A request of agent `a`, whose party ends, is with another module, or leaves for it now; `owner` is who waits for its acknowledgement. One that has been answered is over. -/
def remoteGone (s : State) (a owner : Agent) (m : RemoteMsg) : State :=
  let own := fun (e : Agent × RemoteMsg) => e.1 == a && { e.2 with tag := 0 } == m
  if s.run.ledger.any fun g => match g with | (b, .reply k _ _) => b == a && k == m | _ => false then s
  else if s.run.asked.any own then { s with run := { s.run with asked := s.run.asked.map fun e => if own e then (owner, e.2) else e } }
  else if unreachable s then s
  else
    let k := { m with tag := s.run.nextTag }
    sendRemote { s with run := { s.run with nextTag := s.run.nextTag + 1, asked := s.run.asked ++ [(owner, k)] } } k

/-- The die from which a request of a context starts; contexts from 300 up are the front ends' (log 25). -/
def issuedDie (c : Nat) : Nat := if 300 ≤ c then c - 300 else dieOfCtx c

/-- R94 step 4, R299: the race check of a request that completes. -/
def raceGone (s : State) (c : Nat) (rc : Bool) (vc : SMap Nat) (pa : Nat) (write : Bool) : Option State :=
  let x := ctxAt s c
  if rc then raceStep s x.v x.epoch (slotOf x) vc (lineOf pa) (!write) write else some s

/-- Bytes of a line's runs, and whether they are a whole line. -/
def runsLen (l : List (Nat × List Byte)) : Nat := l.foldl (fun n r => n + r.2.length) 0
def runsWhole (l : List (Nat × List Byte)) : Bool := l.any fun r => r.2.length == 64

/-- R94 step 4, R483: a request that has been issued and waits completes at its home; `owner` waits for the acknowledgement of a store at another module. A racing
one changes nothing. -/
def completeEntry (owner : Agent) (s : State) (e : Agent × Given) : State :=
  match e.2 with
  | .read v c mt home pa n rc vc =>
    if mt = 2 then remoteGone s e.1 .nobody { noMsg with src := modId s, dest := home, v, kind := .load, pa, bytes := n }
    else if mt = 1 then hostRequest s v false pa n
    else match raceGone s c rc vc pa false with
      | none => s
      | some s1 => if lostLine s1 pa then s1 else serveGone s1 e.1 (issuedDie c) v (lineOf pa) (initCharge n false) false
  | .write v c mt home pa runs rc vc =>
    if mt = 2 then
      runs.foldl (fun t r => remoteGone t e.1 owner { noMsg with src := modId s, dest := home, v, kind := .store, pa := pa + r.1, bytes := r.2.length, data := r.2 }) s
    else if mt = 1 then runs.foldl (fun t r => { hostRequest t v true (pa + r.1) r.2.length with host := writeBytes t.host (pa + r.1) r.2 }) s
    else match raceGone s c rc vc pa true with
      | none => s
      | some s1 =>
        if lostLine s1 pa && (!runsWhole runs || deadLine s1 pa) then s1
        else
          let s2 := serveGone (if runsWhole runs then clearLost s1 pa else s1) e.1 (issuedDie c) v (lineOf pa) (initCharge (runsLen runs) false) true
          runs.foldl (fun t r => { t with dev := writeBytes t.dev (servedAddr t (pa + r.1)) r.2 }) s2
  | .access c p => completeAccess e.1 c s p
  | _ => s

/-- The context for which a request has been issued. -/
def issuedFor : Given → Option Nat
  | .read _ c _ _ _ _ _ _ | .write _ c _ _ _ _ _ _ | .access c _ => some c
  | _ => none

/-- What agents that `p` holds for, and context c, have asked for is nobody's from now on: requests held at a bucket (R153), with another module, or admitted. -/
def detach (s : State) (p : Agent → Bool) (c : Nat) : State :=
  { s with
    buckets := s.buckets.map fun e =>
      (e.1, { e.2 with held := e.2.held.map fun h => if h.ctx == c || p h.who then { h with who := .nobody, ctx := 300 } else h })
    run := { s.run with ledger := s.run.ledger.filter (fun e => !p e.1), asked := s.run.asked.map fun e => if p e.1 then (.nobody, e.2) else e } }

/-! ## The end of a team (R94, R203, R208) -/

def teamTurns (c : Nat) : List Turn := [.seq c, .lanes c, .mem c]

/-- The turns a core has in a cycle (R211, R475): what its engines complete, a team's own, its engines' work. Those of the engines stay. -/
def liveTurns (c : Nat) : List Turn := .engine (coreOf c) 4 :: teamTurns c ++ (List.range 4).map (.engine (coreOf c))

/-- The rota with the turns of a resident team, which come before its core's engines work. -/
def teamRota (c : Nat) (l : List Turn) : List Turn :=
  if l.contains (.seq c) then l
  else if l.contains (.engine (coreOf c) 0) then insertTurns (.engine (coreOf c) 0) (teamTurns c) l
  else l ++ (liveTurns c).filter fun t => !l.contains t

/-- A resident team has its turns. -/
def addTeam (s : State) (c : Nat) : State := { s with run := { s.run with rota := teamRota c s.run.rota } }

/-- The units of an engine that can be at work: 3 stands for the epilogue's stores. -/
def unitOfEngine (eng key : Nat) : Bool :=
  match eng with
  | 0 => decide (key < 4)
  | 1 => key == 4
  | 3 => key == 2
  | _ => false

/-- What an engine waits for, it waits for on account of context c, not of the other bank's. -/
def engineFor (s : State) (c eng : Nat) : Bool :=
  let has := fun (d : Nat) => (coreAt s (coreOf c)).units.any fun e => e.2.ctx == d && unitOfEngine eng e.1
  !has (otherBank c) && (has c || (mget (ctxAt s (otherBank c)).cmdq eng []).isEmpty)

/-- An agent is an engine of a core that waits on account of context c. -/
def engineAgent (s : State) (c : Nat) : Agent → Bool
  | .turn (.engine core eng) => core == coreOf c && engineFor s c eng
  | _ => false

/-- What the engines hold for a context is forgotten. -/
def forgetEngine (s0 : State) (c : Nat) : State :=
  let s := detach s0 (engineAgent s0 c) c
  { s with run := { s.run with ledger := s.run.ledger.filter fun e => e.2 != .trap c && issuedFor e.2 != some c } }

/-- R94 steps 3 and 4: the engine commands of a context end with no signal, the requests that it has issued complete; its collectives are withdrawn. -/
def drainEngines (s0 : State) (c : Nat) : State :=
  let s := forgetEngine ((s0.run.ledger.filter fun e => issuedFor e.2 == some c).foldl (completeEntry (.launch (ctxAt s0 c).launch)) s0) c
  let s1 := modCore s (coreOf c) fun k => { k with units := k.units.filter fun e => e.2.ctx != c }
  { s1 with collectives := s1.collectives.filter fun w => w.ctx != c }

/-- R385: releases a bank's pins. -/
def dropPins (s : State) (c : Nat) : State :=
  let f := fun (l : List CacheLine) => l.map fun e => { e with pins := e.pins.filter (· != bankOf c) }
  modCore { s with slices := s.slices.map fun e => (e.1, e.2.map fun l => { l with pins := l.pins.filter (· != c) }) } (coreOf c)
    fun k => { k with icache := f k.icache, lcache := f k.lcache }

/-- R484: drops an image's lines from a core's caches once no team of it is resident or evicted there. -/
def dropImage (s : State) (core : Nat) (image : Word) (v : Nat) : State :=
  let here := fun (x : Ctx) => x.image == image && x.v == v
  if ([2 * core, 2 * core + 1].any fun c => (ctxAt s c).phase != .empty && here (ctxAt s c)) || (s.saves.any fun e => e.2.core == core && here e.2.ctx) then s
  else
    let f := fun (l : List CacheLine) => l.filter fun e => !(e.image == image && e.v == v)
    modCore s core fun k => { k with icache := f k.icache, lcache := f k.lcache }

/-- An agent that works for context c alone. -/
def agentOf (c : Nat) : Agent → Bool
  | .access d | .turn (.seq d) | .turn (.lanes d) | .turn (.mem d) => d == c
  | .event e => match e.i with
    | .overlayLoad d | .eviction d | .restore _ d => d == c
    | _ => false
  | _ => false

/-- Requests of a context that stand at a bucket (R153) or are with another module are nobody's from now on. -/
def detachHeld (s : State) (c : Nat) : State := detach s (agentOf c) c

/-- R222: the last team of a VNPU that ends on a core releases its locks; an eviction keeps them. -/
def dropLocks (s : State) (c : Nat) : State :=
  let v := (ctxAt s c).v
  let o := ctxAt s (otherBank c)
  if o.phase != .empty && o.v == v then s
  else modCore s (coreOf c) fun k => { k with tlb := k.tlb.map fun e => if e.v == v then { e with locked := false } else e }

/-- R226: the not-present faults of a context are answered for another one from now on (1000 + n: save area n; 999: nobody). -/
def moveFaults (s : State) (old new : Nat) : State :=
  let f := fun (l : List OutFault) => l.map fun e => if e.ctx == old then { e with ctx := new } else e
  modXlate s fun t => { t with outstanding := f t.outstanding, unposted := f t.unposted }

/-- R197, R199: flits that a team has sent stay on their way when it ends. -/
def sentFlits (x : Ctx) : List RelayFlit := x.tx.flatMap fun e => e.2.map fun f => { v := x.v, launch := x.launch, team := x.team, port := e.1, flit := f }

/-- R231: the packets merged into one of a context that ends are led by the first of them. -/
def handOver (s : State) (c : Nat) : State :=
  (ctxAt s c).mem.foldl (fun t p =>
    let mine := fun (q : Pend) => q.place == .behind c && q.home == p.home && q.pa == p.pa
    if p.place != .away && p.place != .awayAfter then t
    else match t.ctxs.find? fun e => e.1 != c && e.2.mem.any mine with
      | none => t
      | some e =>
        let i := (e.2.mem.findIdx? mine).getD 0
        let t1 := modCtx t e.1 fun x => { x with mem := x.mem.modify i fun q => { q with place := .awayAfter } }
        { t1 with ctxs := t1.ctxs.map fun y => (y.1, { y.2 with mem := y.2.mem.map fun q => if mine q then { q with place := .behind e.1 } else q }) }) s

/-- Frees a context's bank, but for the boot mailbox (R121): its granules return to thread, its sets lose their tags, its tiles go. -/
def freeBank (s : State) (c : Nat) : State :=
  let x := ctxAt s c
  let s2 := modCore (dropPins (detachHeld (handOver s c) c) c) (coreOf c) fun k =>
    { k with
      owner := k.owner.filter fun e => !x.gran.contains e.1
      lastV := x.gran.foldl (fun m g => mput m g x.v) k.lastV
      accs := k.accs.map fun e =>
        match e.2.owner with
        | some o => if o.launch = x.launch ∧ o.team = x.team ∧ o.v = x.v ∧ o.evicted = false then (e.1, { e.2 with owner := none, lastV := x.v }) else e
        | none => e
      tiles := k.tiles.filter fun t => t.bank != bankOf c
      refills := k.refills.filter fun t => t.bank != bankOf c }
  dropImage (moveFaults (setCtx (dropTurns { s2 with relay := s2.relay ++ sentFlits x, stubs := mdel s2.stubs c } (teamTurns c)) c { freshCtx with bootMail := x.bootMail }) c 999) (coreOf c) x.image x.v

/-- R110: a remote store of a killed team of the launch has not been acknowledged. -/
def storesOwed (s : State) (l : Nat) : Bool := s.run.asked.any fun e => e.1 == .launch l

/-- R110, R114: all teams of a launch have been placed and have ended, and every store of theirs has been acknowledged. -/
def launchOver (s : State) (l : Nat) : Bool :=
  match launchAt s l with
  | some x => x.next == x.nteams && x.ended.length == x.nteams && !storesOwed s l
  | none => false

/-! ## Phases of a launch (R200, R298) -/

/-- The PH of a team of a launch that has not ended: resident or evicted. -/
def phaseOf (s : State) (l t : Nat) : Option (BitVec 32) :=
  match s.saves.find? fun e => e.2.ctx.launch == l && e.2.ctx.team == t with
  | some e => some e.2.ctx.ph
  | none =>
    match s.ctxs.find? fun e => decide (e.1 < 192) && e.2.phase != .empty && e.2.launch == l && e.2.team == t with
    | some e => some e.2.ph
    | none => none

/-- R200: an ended team holds no one back; another holds back a leader more than L phases ahead. -/
def withinLead (s : State) (x : Ctx) (n : Nat) : Bool :=
  match phaseOf s x.launch n with
  | some p => decide ((x.ph - p).toInt ≤ x.phasel)
  | none => true

/-- The teams of a launch that have not ended: evicted, as their saves hold them until their restore is over, or resident. -/
def liveTeams (s : State) (l : Nat) : List Ctx :=
  let saved := (s.saves.filter fun e => e.2.ctx.launch == l).map (·.2.ctx)
  ((s.ctxs.filter fun e => decide (e.1 < 192) && e.2.phase != .empty && e.2.launch == l && !(e.2.phase == .loading && saved.any fun y => y.team == e.2.team)).map (·.2)) ++ saved

/-- The clocks of the teams of a launch, ended or not (R298, R306). -/
def clocksOf (s : State) (l : Nat) : SMap Nat :=
  let live := (s.saves.filter fun e => e.2.ctx.launch == l).foldl (fun m e => join m e.2.ctx.vc) ((liveTeams s l).foldl (fun m x => join m x.vc) [])
  match launchAt s l with
  | some x => x.ended.foldl (fun m e => join m e.2.vc) live
  | none => live

/-- R298: a global PHASE with L = 0 joins the clocks of every team of the launch and raises each own clock: those of evicted teams too, and those that a drain stub keeps. -/
def mergeClocks (s : State) (l : Nat) : State :=
  let j := clocksOf s l
  let f := fun (x : Ctx) => if x.phase ≠ .empty ∧ x.launch = l then bumpClock { x with vc := j } else x
  { s with ctxs := s.ctxs.map fun e => if e.1 < 192 then (e.1, f e.2) else e
           stubs := s.stubs.map fun e => (e.1, f e.2)
           saves := s.saves.map fun e => (e.1, { e.2 with ctx := f e.2.ctx }) }

/-- R298, R306: a team waits in a global phase with L = 0 that every team of its launch has reached or cannot reach any more: the clocks merge, once in a phase. -/
def phasesEnd (s : State) (l : Nat) : State :=
  match launchAt s l with
  | none => s
  | some m =>
    if !s.xlate.rsEn || !m.linked || m.phasel != 0 then s
    else match (liveTeams s l).find? fun x => x.phRaised && x.phAll && x.ph != m.merged && (List.range m.nteams).all (withinLead s x) with
      | some x => modLaunch (mergeClocks s l) l fun y => { y with merged := x.ph }
      | none => s

/-! ## The end of a team -/

/-- A team has ended: its launch counts it, and completes when it was the last. -/
def countEnd (s : State) (l team : Nat) (x : Ctx) (killed faulted : Bool) : State :=
  let s1 := modLaunch s l fun m =>
    { m with
      ended := mput m.ended team { ph := x.ph, vc := x.vc, killed }
      retired := if killed then m.retired else m.retired + 1
      faulted := m.faulted || faulted }
  phasesEnd (if launchOver s1 l then post s1 (.launchComplete l) else s1) l

/-- A charge in units to a resident team and its VNPU. -/
def chargeTeam (s : State) (c w : Nat) : State :=
  let x := ctxAt s c
  if x.drain != .off then { s with overhead := s.overhead + w }
  else chargeVnpu (setCtx s c { x with ecnt := ecntAdd x.ecnt w }) x.v w

/-- R162: the teams of a core that are Running; a draining team has left its bank's energy account (R476). -/
def isRunning (s : State) (c : Nat) : Bool := (ctxAt s c).phase == .running && (ctxAt s c).drain == .off && !(ctxAt s c).loadDue

def staticOnce (s : State) (core : Nat) : State :=
  let w := weight s 13
  match isRunning s (2 * core), isRunning s (2 * core + 1) with
  | true, true => chargeTeam (chargeTeam s (2 * core) (w / 2)) (2 * core + 1) (w / 2)
  | true, false => chargeTeam s (2 * core) w
  | false, true => chargeTeam s (2 * core + 1) w
  | false, false => { s with overhead := s.overhead + w }

/-- Ends the team of a bank, retired or killed: the bank is free, and the window decides again. -/
def endTeam (s : State) (c : Nat) (killed faulted : Bool) : State :=
  let x := ctxAt s c
  let s1 := countEnd (freeBank (dropLocks (if killed then drainEngines (completeRequests s c) c else s) c) c) x.launch x.team x killed faulted
  askDecision (settleBank s1 (coreOf c)) (coreOf c)

/-- R203: a team fault record of kind 0, and the team is killed. -/
def killTeam (s : State) (c cause pc : Nat) (addr : Word) : State :=
  let x := ctxAt s c
  endTeam (postTeamRecord s x.v (teamRecordBytes s x cause 0 pc addr)) c true true

/-- R206: a machine-check of VNPU v's team: its record names the unit. -/
def postMachine (s : State) (c : Nat) (u : Unit8) (num rows : Nat) (pc addr : Word) : State :=
  let x := ctxAt s c
  postMachineRecord s x.v (machineRecordBytes s x u num rows pc addr)

/-- R24, R206: a machine-check at a team's access. -/
def machineCheck (s : State) (c : Nat) (u : Unit8) (num : Nat) (pc addr : Word) : State :=
  killTeam (postMachine s c u num 0 pc addr) c 0x25 (pcOffset (ctxAt s c) pc) addr

/-- R234, R235: the LOST line that an address meets: a bucket of its walk, or its own. -/
def lostAt (s : State) (v : Nat) (va : Word) : Option Nat :=
  match lostBucket s v va.toNat, walk s v va with
  | some a, _ => some (lineOf a)
  | none, .ok size l => if leafMT l = 0 ∧ lostLine s (leafAddr size l va) then some (lineOf (leafAddr size l va)) else none
  | none, _ => none

/-- R206, R235: the machine-check record of a walk or a fetch that met 0x25. -/
def walkRecord (s : State) (c cause rows : Nat) (pc addr : Word) : State :=
  let x := ctxAt s c
  match lostAt s x.v addr with
  | some n => if cause = 0x25 then postMachineRecord s x.v (machineRecordBytes s x .mem (lineCtl n + 16 * lineDie n) rows pc addr) else s
  | none => s

/-- R203: an access at `pc` has met a fault. -/
def accessFault (s : State) (c cause : Nat) (pc addr : Word) : State := killTeam (walkRecord s c cause 0 pc addr) c cause (pcOffset (ctxAt s c) pc) addr

/-! ## Prologues (R118) -/

/-- A cancelled prologue: its queue's packet ends under the reason, with the record as the run left it (R119), and the front end is then free. -/
def cancelPrologue (s : State) (c reason : Nat) : State :=
  let x := ctxAt s c
  let s1 := setCtx (dropTurns (detachHeld s c) (teamTurns c)) c { freshCtx with phase := .halted, launch := 999, count := reason }
  { s1 with run := { s1.run with inputs := s1.run.inputs ++ [{ i := .prologueBudgetExceeded (c - 200), arg := { noArg with n := x.v, m := x.launch, off := reason, flag := true, data := readBytes x.record 0 64 } }] } }

/-! ## Taking an exception (R203, R379) -/

/-- R379: entry into a firmware core's handler: EPC, ECAUSE, EADDR, INH, then TVEC. A fault while INH is set is a lasting error of
the complex (R75). -/
def enterHandler (s : State) (c cause : Nat) (epc addr : Word) (hc : Bool) (isFault : Bool) : State :=
  let x := ctxAt s c
  if x.inh && isFault then
    postArg (setCtx (dropTurns s (teamTurns c)) c { x with phase := .halted }) .complexLastingError { noArg with flag := decide (196 ≤ c) }
  else
    setCtx s c { x with epc := epc, ecause := BitVec.ofNat 8 cause, eaddr := addr, hc := hc, inh := true, pc := x.tvec, wait := .none }

/-- R203: a notice: a team fault record of kind 1; the team goes on. -/
def notice (s : State) (c cause : Nat) (addr : Word) : State :=
  let x := ctxAt s c
  postTeamRecord s x.v (teamRecordBytes s x cause 1 (pcOffset x x.pc) addr)

/-- Taking an exception, precise at the instruction of context c (R7, R118, R142, R203, R379). In a prologue every illegal or privileged
word is an instruction outside its subset. -/
def takeTrap (s : State) (c cause : Nat) (addr : Word) : State :=
  let x := ctxAt s c
  if isFw c then enterHandler s c cause x.pc addr false true
  else if isPrologue c then cancelPrologue s c (if cause = 1 ∨ cause = 2 then 0x09 else cause)
  else accessFault s c cause x.pc addr

/-- R223 to R225: a not-present fault of a team: the record waits for the fault ring, and the faulting access for its answer. -/
def faultSrc (c : Nat) : Nat := coreOf c % 48 + 128 * dieOf (coreOf c)

def postFault (s : State) (c unit : Nat) (va : Word) (kind : Nat) (malf engine lane : Bool) : State :=
  let x := ctxAt s c
  let f : OutFault := { id := s.xlate.nextId.toNat, v := x.v, ctx := c, unit, engine, lane, va, kind, malf, src := faultSrc c }
  post (modXlate s fun t => { t with nextId := t.nextId + 1, unposted := t.unposted ++ [f] }) .faultRecordPost

/-- R203, R223: a sequencer access of a team meets 0x10; in drain mode the team is killed instead (R142). -/
def takeNotPresent (s : State) (c : Nat) (va : Word) (kind : Nat) (malf : Bool) : State :=
  let x := ctxAt s c
  if isTeam c && x.drain == .off then
    let s1 := postFault s c 0 va kind malf false false
    settleBank (modCtx s1 c fun y => { y with fault := some { id := s.xlate.nextId.toNat, va, answered := false, switched := false } }) (coreOf c)
  else takeTrap s c 0x10 va

end Sys2Proof.Machine
end

