-- ==== Sys2Proof/Machine/Access.lean ====
section
/-!
DEFINITION. A team's accesses to memory (R284): pending accesses, their service and their replies.
-/
namespace Sys2Proof.Machine

/-! ## Pending accesses -/

def pendAt (x : Ctx) (i : Nat) : Option Pend := x.mem[i]?
def setPend (s : State) (c i : Nat) (p : Pend) : State := modCtx s c fun x => { x with mem := x.mem.set i p }
def dropPend (s : State) (c i : Nat) : State := modCtx s c fun x => { x with mem := x.mem.eraseIdx i }

/-- R284: an older pending access touches the same line. -/
def olderSameLine (x : Ctx) (i : Nat) (p : Pend) : Bool :=
  (x.mem.take i).any fun o => o.mt == p.mt && o.home == p.home && o.pa / 64 == p.pa / 64

/-- R228, R230, R297: pending access i of context c is served by its home slice: race check, then its bytes; a race or a LOST line ends the
team at the access. Host pages are served by the host's memory (R33); a remote page's access leaves for its home (R45). -/
def servePend (s : State) (c i : Nat) : State :=
  let x := ctxAt s c
  match pendAt x i with
  | none => s
  | some p =>
    if p.place != .atSlice || olderSameLine x i p then s
    else if p.mt = 2 then sendPend (setPend s c i { p with place := .away }) c i p
    else if p.mt = 1 then
      let r := accessMemory s.host p.kind p.pa p.bytes p.value p.compare
      setPend { hostRequest s x.v (isWriteKind p.kind) p.pa p.bytes with host := r.1 } c i { p with place := .done, result := r.2 }
    else
      let line := lineOf p.pa
      let checked := if p.rc then raceStep s x.v x.epoch (slotOf x) x.vc line (readsKind p.kind) (isWriteKind p.kind) else some s
      match checked with
      | none => killTeam s c 0x18 (pcOffset x p.pc) p.va
      | some s1 =>
        if lostLine s1 p.pa then machineCheck s1 c .mem (memUnit p.pa) p.pc p.va
        else
          let s2 := sliceServe s1 c x.v line (initCharge p.bytes (isAtomicKind p.kind)) (isWriteKind p.kind)
          let r := accessMemory s2.dev p.kind (servedAddr s2 p.pa) p.bytes p.value p.compare
          let s3 := setPend { s2 with dev := r.1 } c i { p with place := .done, result := r.2 }
          if p.sy then syncParts s3 c line p.kind else s3

/-- A flit leaves port n of a team (R197); its destination takes it by FLIT_DELIVER. -/
def sendFlit (s : State) (c n : Nat) (v : Word) : State :=
  let x := ctxAt s c
  let d := mget x.mdst n 0
  setCtx s c { x with tx := mput x.tx n (mget x.tx n [] ++ [{ team := wbits d 23 0, port := wbits d 25 24, value := v }]) }

/-- Writes a sequencer register: s0 discards, a send port sends (R333). -/
def writeReg (s : State) (c d : Nat) (v : Word) : State :=
  if d = 0 then s
  else if 60 ≤ d then sendFlit s c (d - 60) v
  else modCtx s c fun x => { x with regs := mput x.regs d v }

def regNotBusy (x : Ctx) (d : Nat) : Ctx :=
  { x with busy := if mget x.busy d 0 ≤ 1 then mdel x.busy d else mput x.busy d (mget x.busy d 0 - 1) }

/-- R197: the flits of a send port of context c that have not entered their receive queue: those its team had sent before it was last restored lie at their
relay slices. -/
def portFlits (s : State) (c n : Nat) : Nat :=
  let x := ctxAt s c
  (mget x.tx n []).length + (s.relay.filter fun r => r.v == x.v && r.launch == x.launch && r.team == x.team && r.port == n).length

/-- R380, R197: a send port with 8 flits pending takes no further one. -/
def portFull (s : State) (c d : Nat) : Bool := decide (60 ≤ d) && decide (8 ≤ portFlits s c (d - 60))

/-- MEMORY_REPLY's effect: pending access i, once served, returns to its register and is gone. -/
def landPend (s : State) (c i : Nat) : State :=
  let x := ctxAt s c
  match pendAt x i with
  | none => s
  | some p =>
    if p.place != .done || (returnsKind p.kind && portFull s c p.dst) then s
    else
      let s1 := dropPend s c i
      if returnsKind p.kind then modCtx (writeReg s1 c p.dst p.result) c fun y => regNotBusy y p.dst else s1

/-- The oldest pending access of a context that stands at its bucket moves on (R153). -/
def admitPend (s : State) (c : Nat) : State :=
  match (ctxAt s c).mem.findIdx? fun p => p.place == .held with
  | none => s
  | some i => modCtx s c fun x => { x with mem := x.mem.modify i fun p => { p with place := .atSlice } }

/-- A held request is admitted (R153, R157): a pending access goes on; a turn or an event finds it paid when it is made again. -/
def admitReq (s : State) (key : Nat) (h : HeldReq) : State :=
  match h.who with
  | .nobody => s
  | .access c => admitPend s c
  | a => { s with run := { s.run with ledger := s.run.ledger ++ [(a, .paid key h.charge)] } }

end Sys2Proof.Machine
end

