-- ==== Sys2Proof/Machine/Operands.lean ====
section
/-!
DEFINITION. How a control instruction reads its operands, retires, waits and traps (R333, R358, R373, R376, R118, R142); how an access is
issued (R219, R282 to R284, R380); how text is fetched (R369, R484).
-/
namespace Sys2Proof.Machine

abbrev Outcome := Host.Outcome State Fault Refusal

/-- What an instruction's body answers: done with a new state (none: continue at PC + 4); a result for the register d names; a fault; a
not-present fault (R225 KIND, MALF); a wait, after which the instruction runs again; a state that the instruction does not retire from. -/
inductive Do where
  | done (s : State) (next : Option Word)
  | res (v : Word) (s : State) (next : Option Word)
  | trap (cause : Nat) (addr : Word)
  | absent (va : Word) (kind : Nat) (malf : Bool)
  | wait (w : Wait)
  | away (s : State)

/-! ## Which instructions a mode allows -/

/-- R118: what a prologue may execute. -/
def prologueAllows : Instr → Bool
  | .add _ _ _ | .sub _ _ _ | .mul _ _ _ | .mulh _ _ _ | .mulhu _ _ _ | .div _ _ _ | .divu _ _ _ | .rem _ _ _ | .remu _ _ _
  | .and _ _ _ | .or _ _ _ | .xor _ _ _ | .andn _ _ _ | .orn _ _ _ | .sll _ _ _ | .srl _ _ _ | .sra _ _ _ | .ror _ _ _
  | .min _ _ _ | .max _ _ _ | .minu _ _ _ | .maxu _ _ _ | .slt _ _ _ | .sltu _ _ _ | .seq _ _ _ | .sel _ _ _ | .shadd _ _ _ _
  | .clz _ _ | .ctz _ _ | .popc _ _ | .brev _ _ | .bswap _ _ | .sext _ _ _ | .zext _ _ _ | .extr _ _ _ _ | .insr _ _ _ _
  | .addi _ _ _ | .andi _ _ _ | .ori _ _ _ | .xori _ _ _ | .slti _ _ _ | .sltiu _ _ _ | .slli _ _ _ | .srli _ _ _ | .srai _ _ _
  | .lui _ _ | .pcadd _ _ | .ld _ _ _ _ | .st _ _ _ _ | .hcallEnd | .hcallQuota | .hcallLevel => true
  | .beq _ _ off | .bne _ _ off | .blt _ _ off | .bge _ _ off | .bltu _ _ off | .bgeu _ _ off => decide (0 < off.toInt)
  | .j off => decide (0 < off.toInt)
  | .illegalInstruction w => w.extractLsb' 26 6 == 0x35
  | _ => false

/-- R142: what a drain stub may not execute: waits, sends are checked with the ports, and branches that do not go forward. R142 does not name JAL: it is taken as
J is (DESIGN CHOICE, log 100). -/
def drainBans : Instr → Bool
  | .beq _ _ off | .bne _ _ off | .blt _ _ off | .bge _ _ off | .bltu _ _ off | .bgeu _ _ off => decide (off.toInt ≤ 0)
  | .j off | .jal off => decide (off.toInt ≤ 0)
  | .phase _ | .kwait _ _ | .lwait _ | .ownw _ _ | .tagwa _ | .tagwl _ | .wfe | .swp _ | .cmd _ _ _ _ _ => true
  | _ => false

def drainCount : Drain → Nat
  | .off => 0
  | .save n => n
  | .restore n => n

def drainTick : Drain → Drain
  | .off => .off
  | .save n => .save (n + 1)
  | .restore n => .restore (n + 1)

/-! ## Reading registers -/

/-- R333: the values of the source fields in order. A receive port gives the oldest flit this instruction has not taken; `none` when its
queue is empty. -/
def readSrcs (x : Ctx) : List Nat → SMap Nat → Option (List Word × SMap Nat)
  | [], taken => some ([], taken)
  | r :: rest, taken =>
    if 56 ≤ r ∧ r < 60 then
      match (mget x.rx (r - 56) [])[mget taken (r - 56) 0]? with
      | some v => (readSrcs x rest (mput taken (r - 56) (mget taken (r - 56) 0 + 1))).map fun p => (v :: p.1, p.2)
      | none => none
    else (readSrcs x rest taken).map fun p => ((if r = 0 then 0 else mget x.regs r 0) :: p.1, p.2)

/-- What context c reads through the source fields: a prologue has no receive ports, and their registers hold 0 (R117). -/
def sources (c : Nat) (x : Ctx) (rs : List Nat) : Option (List Word × SMap Nat) :=
  if isPrologue c then some (rs.map fun r => if r = 0 then 0 else mget x.regs r 0, []) else readSrcs x rs []

/-- R333: removes the flits an instruction took. -/
def takeFlits (x : Ctx) (taken : SMap Nat) : Ctx :=
  { x with rx := taken.foldl (fun m e => mput m e.1 ((mget m e.1 []).drop e.2)) x.rx }

/-- R197: a send port can be written: enabled, a team of a linked launch. -/
def portOpen (x : Ctx) (d : Nat) : Bool :=
  let m := mget x.mdst (d - 60) 0
  m.getLsbD 31 && x.linked && decide (wbits m 23 0 < x.nteams)

/-! ## Retiring -/

/-- R373: the end check. -/
def endCheck : List LoopEntry → Word → List LoopEntry × Word
  | [], next => ([], next)
  | t :: rest, next =>
    if next = t.e then
      if 1 < t.rem.toNat then ({ t with rem := t.rem - 1 } :: rest, t.b) else endCheck rest next
    else (t :: rest, next)

/-- The instruction of context c retires to `next`: the end check, the PC, its charge (R160), and in drain mode the forward rule of
R142, checked against the state `s0` before it. -/
def retire (s0 s : State) (c : Nat) (next : Word) : State :=
  let x := ctxAt s c
  let e := endCheck x.loops next
  if x.drain != .off && decide (e.2.toNat ≤ x.pc.toNat) then takeTrap s0 c 0x01 0
  else
    chargeCtx (setCtx s c { x with pc := e.2, loops := e.1, wait := .none, leftWait := .none, count := x.count + 1, drain := drainTick x.drain }) c 0 1

/-- The instruction waits: it runs again at its next turn (R202). -/
def waitAt (s : State) (c : Nat) (w : Wait) : State := modCtx s c fun x => { x with wait := w }

/-- R195: the instruction has left wait w while its bank did not execute, and completes: its condition need not hold any more. -/
def leftPlain (x : Ctx) (w : Wait) : Bool := x.leftWait == w && (w == .kwait || w == .lwait || w == .tag || w == .ownw)

/-- Finishes a body's answer. `d` is the written register, if one is. -/
def finish (s0 : State) (c : Nat) (taken : SMap Nat) (d : Option Nat) : Do → State
  | .done s next => retire s0 (modCtx s c fun x => takeFlits x taken) c (next.getD ((ctxAt s0 c).pc + 4))
  | .res v s next =>
    retire s0 (writeReg (modCtx s c fun x => takeFlits x taken) c (d.getD 0) v) c (next.getD ((ctxAt s0 c).pc + 4))
  | .trap cause addr => takeTrap s0 c cause addr
  | .absent va kind malf => takeNotPresent s0 c va kind malf
  | .wait (.queue i) => if (ctxAt s0 c).drain != .off then takeTrap s0 c 0x01 0 else waitAt s0 c (.queue i)
  | .wait w =>
    if leftPlain (ctxAt s0 c) w then retire s0 (modCtx s0 c fun x => takeFlits x taken) c ((ctxAt s0 c).pc + 4) else waitAt s0 c w
  | .away s => s

/-- The common course of a control instruction i that reads `srcs` in order and writes `d`. -/
def ctl (i : Instr) (srcs : List Reg) (d : Option Reg) (body : List Word → State → Do) (s : State) : State :=
  let c := s.run.cur
  let x := ctxAt s c
  let rs := srcs.map (·.toNat)
  let w := d.map (·.toNat)
  if isPrologue c && decide (4096 ≤ x.count) then cancelPrologue s c 0x08
  else if isPrologue c && !prologueAllows i then cancelPrologue s c 0x09
  else if x.drain != .off && (decide (1024 ≤ drainCount x.drain) || drainBans i || (w.getD 0 ≥ 60) || rs.any fun r => decide (56 ≤ r ∧ r < 60)) then
    takeTrap s c 0x01 0
  else if rs.any (fun r => decide (60 ≤ r)) || decide (56 ≤ w.getD 0 ∧ w.getD 0 < 60) then takeTrap s c 0x01 0
  else if decide (60 ≤ w.getD 0) && !portOpen x (w.getD 0) then takeTrap s c 0x01 0
  else if (rs ++ w.toList).any fun r => (mfind x.busy r).isSome then waitAt s c .loads
  else if portFull s c (w.getD 0) then waitAt s c .send
  else
    match sources c x rs with
    | none => waitAt s c .recv
    | some p => finish s c p.2 w (body p.1 s)

/-! ## Issuing accesses -/

def acquires : MemOrd → Bool
  | .acq _ | .acqRel _ | .seq _ => true
  | _ => false
def releases : MemOrd → Bool
  | .rel _ | .acqRel _ | .seq _ => true
  | _ => false

/-- R282: an acquire that has not completed holds later accesses and CMDs. -/
def acquireOpen (x : Ctx) : Bool := x.mem.any fun p => acquires p.ord

def loadsOut (x : Ctx) : Nat := (x.mem.filter fun p => p.kind == .load || p.kind == .pref || p.kind == .ldacq).length

/-- R33: the atomics a host page carries. -/
def hostCarries : AccKind → Bool
  | .amo .add | .amo .swap | .cas => true
  | .amo _ => false
  | _ => true

/-- R219: what an access is checked for. -/
def chkOf (k : AccKind) : Chk :=
  match k with
  | .load | .pref => { read := true }
  | .ldacq => { read := true, plain := false }
  | .store => { write := true }
  | .strel => { write := true, plain := false }
  | .amo _ | .cas => { atomic := true, plain := false, carried := hostCarries k }

/-- R48: the page that holds a physical address is being moved. -/
def pageMoving (s : State) (mt pa : Nat) : Bool :=
  s.mgmt.moving.any fun m => mt == 0 && decide (m.pa ≤ pa ∧ pa < m.pa + 2 ^ pageBits m.size)

/-- R117: the prologue's record window. -/
def windowBase : Nat := 0x0000FFFFFFFFFFC0
def inWindow (va n : Nat) : Bool := decide (windowBase ≤ va ∧ va + n ≤ windowBase + 64)

/-- An address of a firmware core as an offset from a base, among 2^46 addresses. -/
def offsetFrom (base : Nat) (va : Word) : Nat := (va.toNat + (2 ^ 46 - base % 2 ^ 46)) % 2 ^ 46

/-- R55: where an address lies in the SRAM of the complex whose core issues it. -/
def sramOff (va : Word) : Option Nat :=
  let o := offsetFrom (64 * Config.sramAt) va
  if o < 2097152 then some o else none

/-- R121: the boot mailbox that an address of a firmware core shows: its bank's context, and the byte. The 192 mailboxes stand outside the SRAM. -/
def bootMailOff (va : Word) : Option (Nat × Nat) :=
  let o := offsetFrom (64 * Config.sramAt + 2097152 + 64 * (Config.bootMailAt % ((2 ^ 46 - 2097152 - 64 * 192) / 64))) va
  if o < 64 * 192 then some (o / 64, o % 64) else none

/-- R117: the rest of the window's page, which a prologue cannot reach. -/
def besideWindow (va : Word) : Bool := decide (0x0000FFFFFFFFC000 ≤ va.toNat ∧ va.toNat < windowBase)

/-- R228: what a slice access of a context costs: a team's charges, or those of a party without one. -/
def serveFor (c v line charge : Nat) (write : Bool) (s : State) : State :=
  if isPrologue c then serveAlone s (dieOfCtx c) v line charge write else sliceServe s c v line charge write

/-- R150: the initiator a context's requests are regulated at. -/
def initPoint (c : Nat) : Nat := if isTeam c then coreOf c % 48 else 62

/-- R55, R121: the bytes of a complex's own that an address of its firmware core shows: its SRAM's, or a boot mailbox's. -/
def fwBytes (s : State) (c : Nat) (va : Word) (n : Nat) : Option (List Byte) :=
  match sramOff va, bootMailOff va with
  | some a, _ => some (readBytes (sramView s (dieOfCtx c)) a n)
  | none, some (d, a) => some (((wordsToBytes (ctxAt s d).bootMail).drop a).take n)
  | none, none => none

/-- The read of n bytes of one line that context c makes and waits for in one step: the checks of R219 but for alignment, the bucket, the race check, the
slice; what the instruction answers where it meets anything else. -/
def pieceNow (s : State) (c : Nat) (va : Word) (n : Nat) : Except Do (State × List Byte) :=
  let x := ctxAt s c
  match reach s c { read := true } va with
  | (_, .absent m) => .error (.absent va 0 m)
  | (_, .fault cause) => .error (.trap cause va)
  | (s1, .ok mt home pa rc _) =>
    if acquireOpen x || pageMoving s1 mt pa || x.mem.any (fun o => o.mt == mt && o.home == home && o.pa / 64 == pa / 64) then .error (.wait .held)
    else
      let s2 := if isFw c then s1 else issuedHeld (.read x.v c mt home pa n (rc && mt == 0 && isTeam c) x.vc) s1 (regulated s1 (dieOfCtx c) (initPoint c) x.v c (initCharge n false))
      if s2.run.stuck then .error (.away s2) else
      match (if rc && mt == 0 && isTeam c then raceStep s2 x.v x.epoch (slotOf x) x.vc (lineOf pa) true false else some s2) with
      | none => .error (.trap 0x18 va)
      | some s3 =>
        match (match (if isFw c then fwBytes s3 c va n else none) with
          | some b => (s3, Got.ok b)
          | none => readAt s3 x.v mt home pa n (serveFor c x.v (lineOf pa) (initCharge n false) false)) with
        | (s4, .ok b) => if s4.run.stuck then .error (.away s4) else .ok (s4, b)
        | (_, .refused) => .error (.absent va 0 false)
        | (s4, .machine u num) => .error (if isTeam c then .away (machineCheck s4 c u num x.pc va) else .trap 0x25 va)

/-- A read of n bytes that an instruction makes and waits for in one step (JTAB, SWP), in the one or two lines they lie in. -/
def readNow (s : State) (c : Nat) (va : Word) (n : Nat) (f : State → Nat → Do) : Do :=
  let k := min n (64 - va.toNat % 64)
  match pieceNow s c va k with
  | .error d => d
  | .ok (s1, b) =>
    if k = n then f s1 (leNat b)
    else
      match pieceNow s1 c (va + BitVec.ofNat 64 k) (n - k) with
      | .error d => d
      | .ok (s2, r) => f s2 (leNat (b ++ r))

/-- An access of a prologue (R118, R212): a load or store of the record window; a load of the VNPU's memory, which is served at once. -/
def issuePrologue (s : State) (c : Nat) (k : AccKind) (va : Word) (n : Nat) (value : Word) : Do :=
  let x := ctxAt s c
  if inWindow va.toNat n then
    (if va.toNat % n ≠ 0 then .trap 0x17 va
     else
       let r := accessMemory x.record k (va.toNat - windowBase) n value 0
       .res r.2 (setCtx s c { x with record := r.1 }) none)
  else if isWriteKind k then .away (cancelPrologue s c 0x0A)
  else if va.toNat % n ≠ 0 then .trap 0x17 va
  else if besideWindow va then .trap 0x10 va
  else
    match pieceNow s c va n with
    | .ok (s1, b) => .res (BitVec.ofNat 64 (leNat b)) s1 none
    | .error (.absent _ _ _) => .trap 0x10 va
    | .error d => d

/-- An access of a firmware core (R24, R55, R121, R228): its complex's SRAM, a boot mailbox, which it may only read, or device memory through the slices as owner 0. An
access to a page that is being moved waits (R48). -/
def issueFw (s : State) (c : Nat) (k : AccKind) (va : Word) (n : Nat) (value compare : Word) : Do :=
  let pa := va.toNat % 2 ^ 46
  match sramOff va, bootMailOff va with
  | some a, _ =>
    let r := accessMemory (sramView s (dieOfCtx c)) k a n value compare
    .res r.2 (if isWriteKind k then setSram s (dieOfCtx c) r.1 else s) none
  | none, some (d, a) => .res (BitVec.ofNat 64 (leNat (((wordsToBytes (ctxAt s d).bootMail).drop a).take n))) s none
  | none, none =>
    if pageMoving s 0 pa then .wait .held
    else if lostLine s pa then .trap 0x25 va
    else
      let s1 := sliceServe s c 0 (lineOf pa) (initCharge n (isAtomicKind k)) (isWriteKind k)
      let r := accessMemory s1.dev k (servedAddr s1 pa) n value compare
      .res r.2 { s1 with dev := r.1 } none

/-- Issues an access of context c: the checks of R219 in order, the waits of R282, the bucket (R153); the access then stands in the list
of pending accesses. An access to an RC or SY page waits for its bucket where it stands, and is then served in the same step (R297, log 13). -/
def issue (s : State) (c : Nat) (k : AccKind) (va : Word) (n : Nat) (value compare : Word) (dst : Nat) (ord : MemOrd) : Do :=
  let x := ctxAt s c
  if isPrologue c then issuePrologue s c k va n value
  else if va.toNat % n ≠ 0 then .trap 0x17 va
  else if isFw c then issueFw s c k va n value compare
  else if acquireOpen x || (releases ord && !x.mem.isEmpty) || decide (16 ≤ loadsOut x ∧ !isWriteKind k) then .wait .held
  else
    match reach s c (chkOf k) va with
    | (_, .absent m) => .absent va (chkKind (chkOf k)) m
    | (_, .fault cause) => .trap cause va
    | (s1, .ok mt home pa rc sy) =>
      let p : Pend := { kind := k, va, pa, mt, home, rc := rc && mt == 0, sy := sy && mt == 0, bytes := n, value, compare, dst,
                        ord := if sy && isAtomicKind k then .acqRel .device else ord, pc := x.pc,
                        place := .atSlice, result := 0 }
      let now := (rc || sy) && mt == 0
      if pageMoving s1 mt pa || (sy && isAtomicKind k && !x.mem.isEmpty) || ((rc || sy) && olderSameLine x x.mem.length p) then .wait .held
      else
        let point := coreOf c % 48
        let b := if now then (regulated s1 (dieOfCtx c) point x.v c (initCharge n (isAtomicKind k)), true)
          else bucketArrive s1 (dieOfCtx c) point x.v (.access c) c (initCharge n (isAtomicKind k))
        let q := if b.2 then p else { p with place := .held }
        let s2 := modCtx b.1 c fun y =>
          { y with mem := y.mem ++ [q], busy := if returnsKind k && dst != 0 then mput y.busy dst (mget y.busy dst 0 + 1) else y.busy }
        if b.1.run.stuck then .away (issued (.access c p) s1 b.1)
        else if now then
          let s3 := servePend s2 c x.mem.length
          if (ctxAt s3 c).phase == .running then .done s3 none else .away s3
        else .done s2 none

/-! ## Fetching text (R369, R383, R484) -/

/-- The outcome of a fetch of words: their bytes, or what the first word that fails meets, with its address: a fault, a machine check at a unit, 0x10. -/
inductive Fetched where
  | ok (b : List Byte)
  | fault (cause : Nat) (va : Word)
  | machine (u : Unit8) (num : Nat) (va : Word)
  | absent (malf : Bool) (va : Word)
  deriving DecidableEq, Repr

/-- The lines a cache holds at most: 64 KiB and 192 KiB (R180). -/
def cacheLines (lane : Bool) : Nat := if lane then 3072 else 1024

/-- Fills a line; the least recently filled line that is not pinned makes room (log 18). -/
def fillLine (lane : Bool) (l : List CacheLine) (e : CacheLine) : List CacheLine :=
  let l1 := l.filter fun x => !(x.addr == e.addr && x.v == e.v)
  if l1.length < cacheLines lane then e :: l1
  else if l1.any fun x => x.pins.isEmpty then e :: dropLast (fun x => x.pins.isEmpty) l1 else l1

def cacheOf (k : Core) (lane : Bool) : List CacheLine := if lane then k.lcache else k.icache
def setCache (k : Core) (lane : Bool) (l : List CacheLine) : Core := if lane then { k with lcache := l } else { k with icache := l }

def fetchGot (va : Word) : State × Got → State × Fetched
  | (s, .ok b) => (s, .ok b)
  | (s, .refused) => (s, .absent false va)
  | (s, .machine u num) => (s, .machine u num va)

/-- Checks 2 to 5 of a fetch (R219, R369); a prologue's window and the rest of its page (R117); a firmware core's addresses are physical. -/
def reachText (s : State) (c : Nat) (va : Word) : State × Reach :=
  if isPrologue c && besideWindow va then (s, .absent false) else reach s c { exec := true, plain := false } va

/-- Reads a line of text, at `base`, from memory through its home slice: a line fill is charged 64. -/
def readLine (s : State) (c : Nat) (base : Word) : State × Fetched :=
  let x := ctxAt s c
  match (if isFw c then sramOff base else none) with
  | some a => (s, .ok (readBytes (sramView s (dieOfCtx c)) a 64))
  | none =>
    if isPrologue c && decide (windowBase ≤ base.toNat ∧ base.toNat < windowBase + 64) then (s, .ok (readBytes x.record 0 64))
    else
      match reachText s c base with
      | (s1, .absent m) => (s1, .absent m base)
      | (s1, .fault cause) => (s1, .fault cause base)
      | (s1, .ok mt home pa _ _) =>
        if pageMoving s1 mt pa then (stall s1, .ok (List.replicate 64 0))
        else
          let s2 := if isFw c then s1 else issuedHeld (.read x.v c mt home (pa / 64 * 64) 64 false []) s1 (regulated s1 (dieOfCtx c) (initPoint c) x.v c 64)
          fetchGot base (readAt s2 x.v mt home (pa / 64 * 64) 64 (serveFor c x.v (lineOf pa) 64 false))

/-- The 64-byte line of text that holds an address: from the cache, where the checks of R219 pass, or from memory into it. -/
def fetchLine (s : State) (c : Nat) (lane : Bool) (va : Word) : State × Fetched :=
  let base : Word := BitVec.ofNat 64 (va.toNat / 64 * 64)
  if !isTeam c then readLine s c base
  else
    let x := ctxAt s c
    match (cacheOf (coreAt s (coreOf c)) lane).find? fun e => e.addr == base.toNat && e.v == x.v with
    | some e =>
      match reachText s c base with
      | (s1, .absent m) => (s1, .absent m base)
      | (s1, .fault cause) => (s1, .fault cause base)
      | (s1, .ok _ _ _ _ _) => (s1, .ok e.data)
    | none =>
      match readLine s c base with
      | (s1, .ok b) =>
        (modCore s1 (coreOf c) fun k => setCache k lane (fillLine lane (cacheOf k lane) { addr := base.toNat, v := x.v, image := x.image, data := b, pins := [] }), .ok b)
      | r => r

/-- The 4 bytes of text at an address that is a multiple of 4; what they meet names their address. -/
def fetch4 (s : State) (c : Nat) (lane : Bool) (va : Word) : State × Fetched :=
  match fetchLine s c lane va with
  | (s1, .ok b) => (s1, .ok ((b.drop (va.toNat % 64)).take 4))
  | (s1, .fault cause _) => (s1, .fault cause va)
  | (s1, .machine u num _) => (s1, .machine u num va)
  | (s1, .absent m _) => (s1, .absent m va)

/-- n words of text from an address that is a multiple of 4. -/
def fetchWords (s : State) (c : Nat) (lane : Bool) (va : Word) : Nat → State × Fetched
  | 0 => (s, .ok [])
  | n + 1 =>
    match fetch4 s c lane va with
    | (s1, .ok b) =>
      match fetchWords s1 c lane (va + 4) n with
      | (s2, .ok r) => (s2, .ok (b ++ r))
      | r => r
    | r => r

end Sys2Proof.Machine
end

