-- ==== Sys2Proof/Machine/Integer.lean ====
section
/-!
DEFINITION. Integer, bit and immediate instructions (R360 to R365).
-/
namespace Sys2Proof.Machine

/-- The first source value, the second, the third. -/
def val0 (v : List Word) : Word := v.getD 0 0
def val1 (v : List Word) : Word := v.getD 1 0
def val2 (v : List Word) : Word := v.getD 2 0

/-- D := f(A, B). -/
def int2 (i : Instr) (d a b : Reg) (f : Word → Word → Word) (s : State) : Outcome :=
  .next (ctl i [a, b] (some d) (fun v s => .res (f (val0 v) (val1 v)) s none) s)

/-- D := f(A). -/
def int1 (i : Instr) (d a : Reg) (f : Word → Word) (s : State) : Outcome :=
  .next (ctl i [a] (some d) (fun v s => .res (f (val0 v)) s none) s)

def mulhW (a b : Word) : Word := BitVec.ofInt 64 (a.toInt * b.toInt / 2 ^ 64)
def mulhuW (a b : Word) : Word := BitVec.ofNat 64 (a.toNat * b.toNat / 2 ^ 64)

/-- R361: quotients round towards zero, remainders take the dividend's sign; division by 0 gives 2^64 − 1 and A. -/
def divW (a b : Word) : Word := if b = 0 then BitVec.allOnes 64 else BitVec.ofInt 64 (a.toInt.tdiv b.toInt)
def divuW (a b : Word) : Word := if b = 0 then BitVec.allOnes 64 else BitVec.ofNat 64 (a.toNat / b.toNat)
def remW (a b : Word) : Word := if b = 0 then a else BitVec.ofInt 64 (a.toInt.tmod b.toInt)
def remuW (a b : Word) : Word := if b = 0 then a else BitVec.ofNat 64 (a.toNat % b.toNat)

def shiftBy (b : Word) : Nat := b.toNat % 64
def boolW (b : Bool) : Word := if b then 1 else 0

/-- R362. -/
def clzGo (x : Nat) : Nat → Nat
  | 0 => 0
  | n + 1 => if x / 2 ^ n % 2 = 1 then 0 else clzGo x n + 1
def ctzGo (x : Nat) : Nat → Nat
  | 0 => 0
  | n + 1 => if x % 2 = 1 then 0 else ctzGo (x / 2) n + 1
def popGo (x : Nat) : Nat → Nat
  | 0 => 0
  | n + 1 => x % 2 + popGo (x / 2) n
def revGo (x : Nat) : Nat → Nat
  | 0 => 0
  | n + 1 => x % 2 * 2 ^ n + revGo (x / 2) n
def clzW (a : Word) : Word := BitVec.ofNat 64 (clzGo a.toNat 64)
def ctzW (a : Word) : Word := BitVec.ofNat 64 (ctzGo a.toNat 64)
def popcW (a : Word) : Word := BitVec.ofNat 64 (popGo a.toNat 64)
def brevW (a : Word) : Word := BitVec.ofNat 64 (revGo a.toNat 64)
def bswapW (a : Word) : Word := BitVec.ofNat 64 (leNat (natLe 8 a.toNat).reverse)

/-- R362: SEXT and ZEXT by the width in B[6:0]. -/
def zextW (a b : Word) : Word :=
  let w := b.toNat % 128
  if 64 ≤ w then a else BitVec.ofNat 64 (a.toNat % 2 ^ w)
def sextW (a b : Word) : Word :=
  let w := b.toNat % 128
  if w = 0 then 0
  else if 64 ≤ w then a
  else
    let x := a.toNat % 2 ^ w
    if 2 ^ (w - 1) ≤ x then BitVec.ofInt 64 ((x : Int) - 2 ^ w) else BitVec.ofNat 64 x

/-- R363: pos and wid = the encoded width plus 1. -/
def extrW (a : Word) (pos wid : BitVec 6) : Word := BitVec.ofNat 64 (a.toNat / 2 ^ pos.toNat % 2 ^ (wid.toNat + 1))
def insrW (a old : Word) (pos wid : BitVec 6) : Word :=
  let m := 2 ^ (wid.toNat + 1)
  BitVec.ofNat 64 (old.toNat - old.toNat / 2 ^ pos.toNat % m * 2 ^ pos.toNat + a.toNat % m * 2 ^ pos.toNat)

def immI (imm : BitVec 14) : Word := imm.signExtend 64
def immU (imm : BitVec 20) : Word := imm.signExtend 64 <<< 14

/-- ADD (R360). -/
def execAdd (d a b : Reg) (s : State) : Outcome := int2 (.add d a b) d a b (fun a b => a + b) s

/-- SUB (R360). -/
def execSub (d a b : Reg) (s : State) : Outcome := int2 (.sub d a b) d a b (fun a b => a - b) s

/-- MUL (R360). -/
def execMul (d a b : Reg) (s : State) : Outcome := int2 (.mul d a b) d a b (fun a b => a * b) s

/-- MULH (R360). -/
def execMulh (d a b : Reg) (s : State) : Outcome := int2 (.mulh d a b) d a b (fun a b => mulhW a b) s

/-- MULHU (R360). -/
def execMulhu (d a b : Reg) (s : State) : Outcome := int2 (.mulhu d a b) d a b (fun a b => mulhuW a b) s

/-- DIV (R361). -/
def execDiv (d a b : Reg) (s : State) : Outcome := int2 (.div d a b) d a b (fun a b => divW a b) s

/-- DIVU (R361). -/
def execDivu (d a b : Reg) (s : State) : Outcome := int2 (.divu d a b) d a b (fun a b => divuW a b) s

/-- REM (R361). -/
def execRem (d a b : Reg) (s : State) : Outcome := int2 (.rem d a b) d a b (fun a b => remW a b) s

/-- REMU (R361). -/
def execRemu (d a b : Reg) (s : State) : Outcome := int2 (.remu d a b) d a b (fun a b => remuW a b) s

/-- AND (R360). -/
def execAnd (d a b : Reg) (s : State) : Outcome := int2 (.and d a b) d a b (fun a b => a &&& b) s

/-- OR (R360). -/
def execOr (d a b : Reg) (s : State) : Outcome := int2 (.or d a b) d a b (fun a b => a ||| b) s

/-- XOR (R360). -/
def execXor (d a b : Reg) (s : State) : Outcome := int2 (.xor d a b) d a b (fun a b => a ^^^ b) s

/-- ANDN (R360). -/
def execAndn (d a b : Reg) (s : State) : Outcome := int2 (.andn d a b) d a b (fun a b => a &&& ~~~b) s

/-- ORN (R360). -/
def execOrn (d a b : Reg) (s : State) : Outcome := int2 (.orn d a b) d a b (fun a b => a ||| ~~~b) s

/-- SLL (R360). -/
def execSll (d a b : Reg) (s : State) : Outcome := int2 (.sll d a b) d a b (fun a b => a <<< shiftBy b) s

/-- SRL (R360). -/
def execSrl (d a b : Reg) (s : State) : Outcome := int2 (.srl d a b) d a b (fun a b => a >>> shiftBy b) s

/-- SRA (R360). -/
def execSra (d a b : Reg) (s : State) : Outcome := int2 (.sra d a b) d a b (fun a b => a.sshiftRight (shiftBy b)) s

/-- ROR (R360). -/
def execRor (d a b : Reg) (s : State) : Outcome := int2 (.ror d a b) d a b (fun a b => a.rotateRight (shiftBy b)) s

/-- MIN (R360). -/
def execMin (d a b : Reg) (s : State) : Outcome := int2 (.min d a b) d a b (fun a b => if a.slt b then a else b) s

/-- MAX (R360). -/
def execMax (d a b : Reg) (s : State) : Outcome := int2 (.max d a b) d a b (fun a b => if b.slt a then a else b) s

/-- MINU (R360). -/
def execMinu (d a b : Reg) (s : State) : Outcome := int2 (.minu d a b) d a b (fun a b => if a.ult b then a else b) s

/-- MAXU (R360). -/
def execMaxu (d a b : Reg) (s : State) : Outcome := int2 (.maxu d a b) d a b (fun a b => if b.ult a then a else b) s

/-- SLT (R360). -/
def execSlt (d a b : Reg) (s : State) : Outcome := int2 (.slt d a b) d a b (fun a b => boolW (a.slt b)) s

/-- SLTU (R360). -/
def execSltu (d a b : Reg) (s : State) : Outcome := int2 (.sltu d a b) d a b (fun a b => boolW (a.ult b)) s

/-- SEQ (R360). -/
def execSeq (d a b : Reg) (s : State) : Outcome := int2 (.seq d a b) d a b (fun a b => boolW (a == b)) s

/-- SEL (R360): the condition is the old D, read after A and B. -/
def execSel (d a b : Reg) (s : State) : Outcome :=
  .next (ctl (.sel d a b) [a, b, d] (some d) (fun v s => .res (if val2 v ≠ 0 then val0 v else val1 v) s none) s)

/-- SHADD (R360). -/
def execShadd (d a b : Reg) (sh : BitVec 2) (s : State) : Outcome :=
  int2 (.shadd d a b sh) d a b (fun a b => (a <<< sh.toNat) + b) s

/-- SEXT (R362). -/
def execSext (d a b : Reg) (s : State) : Outcome := int2 (.sext d a b) d a b (fun a b => sextW a b) s

/-- ZEXT (R362). -/
def execZext (d a b : Reg) (s : State) : Outcome := int2 (.zext d a b) d a b (fun a b => zextW a b) s

/-- CLZ (R362). -/
def execClz (d a : Reg) (s : State) : Outcome := int1 (.clz d a) d a clzW s

/-- CTZ (R362). -/
def execCtz (d a : Reg) (s : State) : Outcome := int1 (.ctz d a) d a ctzW s

/-- POPC (R362). -/
def execPopc (d a : Reg) (s : State) : Outcome := int1 (.popc d a) d a popcW s

/-- BREV (R362). -/
def execBrev (d a : Reg) (s : State) : Outcome := int1 (.brev d a) d a brevW s

/-- BSWAP (R362). -/
def execBswap (d a : Reg) (s : State) : Outcome := int1 (.bswap d a) d a bswapW s

/-- EXTR (R363). -/
def execExtr (d a : Reg) (pos wid : BitVec 6) (s : State) : Outcome := int1 (.extr d a pos wid) d a (fun a => extrW a pos wid) s

/-- INSR (R363): the register d names is read after A. -/
def execInsr (d a : Reg) (pos wid : BitVec 6) (s : State) : Outcome :=
  .next (ctl (.insr d a pos wid) [a, d] (some d) (fun v s => .res (insrW (val0 v) (val1 v) pos wid) s none) s)

/-- ADDI (R364). -/
def execAddi (d a : Reg) (imm : BitVec 14) (s : State) : Outcome := int1 (.addi d a imm) d a (fun a => a + immI imm) s

/-- ANDI (R364). -/
def execAndi (d a : Reg) (imm : BitVec 14) (s : State) : Outcome := int1 (.andi d a imm) d a (fun a => a &&& immI imm) s

/-- ORI (R364). -/
def execOri (d a : Reg) (imm : BitVec 14) (s : State) : Outcome := int1 (.ori d a imm) d a (fun a => a ||| immI imm) s

/-- XORI (R364). -/
def execXori (d a : Reg) (imm : BitVec 14) (s : State) : Outcome := int1 (.xori d a imm) d a (fun a => a ^^^ immI imm) s

/-- SLTI (R364). -/
def execSlti (d a : Reg) (imm : BitVec 14) (s : State) : Outcome := int1 (.slti d a imm) d a (fun a => boolW (a.slt (immI imm))) s

/-- SLTIU (R364). -/
def execSltiu (d a : Reg) (imm : BitVec 14) (s : State) : Outcome := int1 (.sltiu d a imm) d a (fun a => boolW (a.ult (immI imm))) s

/-- SLLI (R364). -/
def execSlli (d a : Reg) (sh : BitVec 6) (s : State) : Outcome := int1 (.slli d a sh) d a (fun a => a <<< sh.toNat) s

/-- SRLI (R364). -/
def execSrli (d a : Reg) (sh : BitVec 6) (s : State) : Outcome := int1 (.srli d a sh) d a (fun a => a >>> sh.toNat) s

/-- SRAI (R364). -/
def execSrai (d a : Reg) (sh : BitVec 6) (s : State) : Outcome := int1 (.srai d a sh) d a (fun a => a.sshiftRight sh.toNat) s

/-- LUI (R365). -/
def execLui (d : Reg) (imm : BitVec 20) (s : State) : Outcome :=
  .next (ctl (.lui d imm) [] (some d) (fun _ s => .res (immU imm) s none) s)

/-- PCADD (R365). -/
def execPcadd (d : Reg) (imm : BitVec 20) (s : State) : Outcome :=
  .next (ctl (.pcadd d imm) [] (some d) (fun _ s => .res ((curCtx s).pc + immU imm) s none) s)

end Sys2Proof.Machine
end

