-- ==== Sys2Proof/Machine/Flow.lean ====
section
/-!
DEFINITION. Branches, jumps, the jump table, hardware loops and the switch point (R366 to R375).
-/
namespace Sys2Proof.Machine

/-- R366: a branch taken when `p A B` goes to PC + off × 4. -/
def branch (i : Instr) (a b : Reg) (off : BitVec 14) (p : Word → Word → Bool) (s : State) : Outcome :=
  .next (ctl i [a, b] none (fun v s =>
    .done s (if p (val0 v) (val1 v) then some ((curCtx s).pc + off.signExtend 64 * 4) else none)) s)

/-- BEQ (R366). -/
def execBeq (a b : Reg) (off : BitVec 14) (s : State) : Outcome := branch (.beq a b off) a b off (fun a b => a == b) s

/-- BNE (R366). -/
def execBne (a b : Reg) (off : BitVec 14) (s : State) : Outcome := branch (.bne a b off) a b off (fun a b => a != b) s

/-- BLT (R366). -/
def execBlt (a b : Reg) (off : BitVec 14) (s : State) : Outcome := branch (.blt a b off) a b off (fun a b => a.slt b) s

/-- BGE (R366). -/
def execBge (a b : Reg) (off : BitVec 14) (s : State) : Outcome := branch (.bge a b off) a b off (fun a b => !a.slt b) s

/-- BLTU (R366). -/
def execBltu (a b : Reg) (off : BitVec 14) (s : State) : Outcome := branch (.bltu a b off) a b off (fun a b => a.ult b) s

/-- BGEU (R366). -/
def execBgeu (a b : Reg) (off : BitVec 14) (s : State) : Outcome := branch (.bgeu a b off) a b off (fun a b => !a.ult b) s

/-- J (R367). -/
def execJ (off : BitVec 26) (s : State) : Outcome :=
  .next (ctl (.j off) [] none (fun _ s => .done s (some ((curCtx s).pc + off.signExtend 64 * 4))) s)

/-- JAL (R367): s55 := PC + 4. -/
def execJal (off : BitVec 26) (s : State) : Outcome :=
  .next (ctl (.jal off) [] (some 55) (fun _ s => .res ((curCtx s).pc + 4) s (some ((curCtx s).pc + off.signExtend 64 * 4))) s)

/-- JR (R368): A is read before D is written; a misaligned target traps. -/
def execJr (d a : Reg) (imm : BitVec 14) (s : State) : Outcome :=
  .next (ctl (.jr d a imm) [a] (some d) (fun v s =>
    let t := val0 v + immI imm * 4
    if t.toNat % 4 ≠ 0 then .trap 0x17 t else .res ((curCtx s).pc + 4) s (some t)) s)

/-- JTAB (R370): a is the index, d the table base, read and not written. -/
def execJtab (d a : Reg) (len : BitVec 13) (s : State) : Outcome :=
  .next (ctl (.jtab d a len) [a, d] none (fun v s =>
    if len.toNat ≤ (val0 v).toNat then .done s none
    else
      let ea := val1 v + 4 * val0 v
      if ea.toNat % 4 ≠ 0 then .trap 0x17 ea
      else readNow s s.run.cur ea 4 fun s e =>
        if e % 4 ≠ 0 then .trap 0x17 ea else .done s (some ((curCtx s).image + BitVec.ofNat 64 e))) s)

/-- R372: a LOOP met again replaces its own entry. -/
def dropOwn (pc : Word) : List LoopEntry → List LoopEntry
  | [] => []
  | t :: r => if t.la = pc then r else t :: r

/-- R372: the new loop would end beyond the body it lies in. -/
def outgrows (pc e : Word) : List LoopEntry → Bool
  | [] => false
  | t :: _ => decide (t.b.toNat ≤ pc.toNat ∧ pc.toNat < t.e.toNat ∧ t.e.toNat < e.toNat)

/-- LOOP (R372). -/
def execLoop (a : Reg) (off : BitVec 14) (s : State) : Outcome :=
  .next (ctl (.loop a off) [a] none (fun v s =>
    let x := curCtx s
    let e := x.pc + 4 + 4 * off.setWidth 64
    let l := dropOwn x.pc x.loops
    if outgrows x.pc e l then .trap 0x01 0
    else if val0 v = 0 then .done (setCtx s s.run.cur { x with loops := l }) (some e)
    else if 8 ≤ l.length then .trap 0x01 0
    else .done (setCtx s s.run.cur { x with loops := { la := x.pc, b := x.pc + 4, e, rem := val0 v } :: l }) (some (x.pc + 4))) s)

/-- LEXIT (R374): the end check then runs against the entry below. -/
def execLexit (s : State) : Outcome :=
  .next (ctl .lexit [] none (fun _ s =>
    let x := curCtx s
    match x.loops with
    | [] => .trap 0x01 0
    | t :: r => .done (setCtx s s.run.cur { x with loops := r }) (some t.e)) s)

/-- R168: the schedule LVLMAP gives a level; 3 reads as relaxed. -/
def schedOf (h : ImageHeader) (lvl : Nat) : Nat := min (nbits h.lvlmap (2 * lvl + 1) (2 * lvl)) 2

/-- R169: the lanes have nothing begun and not retired. -/
def lanesIdle (x : Ctx) : Bool := x.lanes.sects.isEmpty && x.lanes.retiring.isEmpty

/-- R169: a switch to schedule sc, whose positions are w from control base `base`, waits for the control queue and the lanes; it then moves both positions and empties the
loop stack. A waiting switch keeps its decision and positions in `swpLatch`, as sc + 4 × (w + 1). -/
def takeSwitch (c sc w : Nat) (ea base : Word) (s : State) : Do :=
  if !(curCtx s).ctlq.isEmpty || !lanesIdle (curCtx s) then .away (waitAt (modCtx s c fun y => { y with swpLatch := some (sc + 4 * (w + 1)) }) c .swp)
  else if w % 4 ≠ 0 then .trap 0x17 ea
  else
    .done (modCtx s c fun y =>
        { y with swpLatch := none, sched := sc, loops := [], lanes := { y.lanes with pos := w / 2 ^ 32, ended := false, atPop := false, sects := [] } })
      (some (base + BitVec.ofNat 64 (w % 2 ^ 32)))

/-- R169: the entry of a switch to schedule sc is read, as the loader reads tables (a data read of the team); its bytes 24 to 31 must be 0. -/
def readSwitch (c sc : Nat) (ea base : Word) (s : State) : Do :=
  readNow s c ea 8 fun s w0 =>
  readNow s c (ea + 8) 8 fun s w1 =>
  readNow s c (ea + 16) 8 fun s w2 =>
  readNow s c (ea + 24) 8 fun s w3 =>
    if w3 ≠ 0 then .trap 0x23 ea else takeSwitch c sc (if sc = 0 then w0 else if sc = 1 then w1 else w2) ea base s

/-- SWP (R169, R375): the decision is made once, as the SWP issues, and stands in `swpLatch` while its entry is read and while it waits. -/
def execSwp (imm : BitVec 20) (s : State) : Outcome :=
  .next (ctl (.swp imm) [] none (fun _ s =>
    let c := s.run.cur
    let x := curCtx s
    let ea := x.image + BitVec.ofNat 64 (x.hdr.swtab + 32 * imm.toNat)
    if !isTeam c then .trap 0x01 0
    else match x.swpLatch with
    | some k => if k < 4 then readSwitch c k ea (ctlBase x) s else takeSwitch c (k % 4) (k / 4 - 1) ea (ctlBase x) s
    | none =>
      let sc := schedOf x.hdr (clusterAt s (clusterOf (coreOf c))).level
      if x.hdr.nsw ≤ imm.toNat ∨ sc = x.sched then .done s none
      else .away (waitAt (modCtx s c fun y => { y with swpLatch := some sc }) c .swp)) s)

end Sys2Proof.Machine
end

