-- ==== Sys2Proof/Machine/Memory.lean ====
section
/-!
DEFINITION. Loads, stores, scratchpad accesses, residency, atomics and fences (R380 to R391).
-/
namespace Sys2Proof.Machine

/-- R380: the address of an M-format access: base + off × n. -/
def effAddr (base : Word) (off : BitVec 12) (n : Nat) : Word := base + off.signExtend 64 * BitVec.ofNat 64 n

/-- LD (R380). -/
def execLd (d base : Reg) (size : MemSize) (off : BitVec 12) (s : State) : Outcome :=
  .next (ctl (.ld d base size off) [base] (some d) (fun v s =>
    issue s s.run.cur .load (effAddr (val0 v) off (sizeBytes size)) (sizeBytes size) 0 0 d.toNat .plain) s)

/-- ST (R380). -/
def execSt (src base : Reg) (size : MemSize) (off : BitVec 12) (s : State) : Outcome :=
  .next (ctl (.st src base size off) [base, src] none (fun v s =>
    issue s s.run.cur .store (effAddr (val0 v) off (sizeBytes size)) (sizeBytes size) (val1 v) 0 0 .plain) s)

/-- R381: the checks of a scratchpad access, in order. -/
def spCheck (s : State) (c : Nat) (ea : Word) (n : Nat) : Option Nat :=
  if ea.toNat % n ≠ 0 then some 0x17
  else if 4096 * (ctxAt s c).gran.length ≤ ea.toNat then some 0x20
  else if granuleOwner s c (ea.toNat / 4096) ≠ 0 then some 0x20
  else none

/-- A lane store to a byte has not landed (R416), and no LWAIT has ended with its section or a later one (R286). -/
def laneStoreOpen (x : Ctx) (a : Nat) : Bool := (mget x.lanes.memhz a []).any fun e => decide (x.lanes.clock ≤ e.1 ∧ x.lanes.seen ≤ e.2.1)

/-- The byte at a team-relative address as the sequencer reads it: a free value while a lane store to it is in flight (R286, log 7). -/
def seqByte (s : State) (c a : Nat) : Byte := if laneStoreOpen (ctxAt s c) a then (freeAt s (262144 + a)).setWidth 8 else scratchByte s c a

/-- The bytes the sequencer reads. -/
def seqRead (s : State) (c a n : Nat) : State × Nat :=
  (if (List.range n).any fun i => laneStoreOpen (ctxAt s c) (a + i) then useFree s else s, leNat ((List.range n).map fun i => seqByte s c (a + i)))

/-- LDSP (R381). -/
def execLdsp (d base : Reg) (size : MemSize) (off : BitVec 12) (s : State) : Outcome :=
  .next (ctl (.ldsp d base size off) [base] (some d) (fun v s =>
    let c := s.run.cur
    let n := sizeBytes size
    let ea := effAddr (val0 v) off n
    if !isTeam c then .trap 0x01 0
    else match spCheck s c ea n with
      | some cause => .trap cause ea
      | none => .res (BitVec.ofNat 64 (seqRead s c ea.toNat n).2) (seqRead s c ea.toNat n).1 none) s)

/-- STSP (R381). -/
def execStsp (src base : Reg) (size : MemSize) (off : BitVec 12) (s : State) : Outcome :=
  .next (ctl (.stsp src base size off) [base, src] none (fun v s =>
    let c := s.run.cur
    let n := sizeBytes size
    let ea := effAddr (val0 v) off n
    if !isTeam c then .trap 0x01 0
    else match spCheck s c ea n with
      | some cause => .trap cause ea
      | none => .done (putScratch s c ea.toNat (natLe n (val1 v).toNat)) none) s)

/-- PREF (R382): the checks of a one-byte load; the line comes into its home slice. -/
def execPref (base : Reg) (off : BitVec 12) (s : State) : Outcome :=
  .next (ctl (.pref base off) [base] none (fun v s =>
    issue s s.run.cur .pref (effAddr (val0 v) off 8) 1 0 0 0 .plain) s)

/-! ## Residency (R383 to R386) -/

inductive ResOp where
  | fill | pin | unpin
  deriving DecidableEq, Repr

/-- R383: which text of the team a line belongs to: some false for control text, some true for the lane stream. -/
def textOf (x : Ctx) (line : Nat) : Option Bool :=
  let inside := fun (off len : Nat) =>
    let lo := (x.image + BitVec.ofNat 64 off).toNat
    decide (lo < line + 64 ∧ line < lo + len)
  if inside x.hdr.ctext x.hdr.clen then some false else if inside x.hdr.lane x.hdr.llen then some true else none

def setSkip (s : State) (c : Nat) : State := modCtx s c fun x => { x with skip := true }
def setPinov (s : State) (c : Nat) : State := modCtx s c fun x => { x with pinov := true }

def pinLimit (lane : Bool) : Nat := if lane then 1536 else 512
def pinnedLines (l : List CacheLine) : Nat := (l.filter fun e => !e.pins.isEmpty).length

/-- One line at level 0. -/
def residentL0 (op : ResOp) (s : State) (c : Nat) (lane : Bool) (line : Nat) : State :=
  let core := coreOf c
  let v := (ctxAt s c).v
  let b := bankOf c
  let mod := fun (s : State) (f : CacheLine → CacheLine) =>
    modCore s core fun k => setCache k lane ((cacheOf k lane).map fun e => if e.addr == line && e.v == v then f e else e)
  match op with
  | .unpin =>
    match reachText s c (BitVec.ofNat 64 line) with
    | (s1, .ok _ _ _ _ _) => mod s1 fun e => { e with pins := e.pins.filter (· != b) }
    | (s1, _) => setSkip s1 c
  | _ =>
    match fetchLine s c lane (BitVec.ofNat 64 line) with
    | (s1, .ok _) =>
      if op == .pin then
        let l := cacheOf (coreAt s1 core) lane
        if l.any fun e => e.addr == line && e.v == v && !e.pins.isEmpty then mod s1 fun e => { e with pins := b :: e.pins.filter (· != b) }
        else if pinLimit lane ≤ pinnedLines l then setPinov s1 c
        else mod s1 fun e => { e with pins := [b] }
      else s1
    | (s1, _) => setSkip s1 c

/-- The requests of a residency instruction pass the core's own point (R152); the complexes are not regulated. -/
def fillCharge (s : State) (c : Nat) : State := if isFw c then s else regulated s (dieOfCtx c) (coreOf c % 48) (ctxAt s c).v c 64

/-- R45: a fill of a line whose home slice lies in another module: the request leaves, and nobody waits for its answer. -/
def fillRemote (s : State) (v home pa : Nat) : State :=
  let m := { noMsg with src := modId s, dest := home, tag := s.run.nextTag, v, kind := .load, pa := pa / 64 * 64, bytes := 64 }
  if s.run.stuck || unreachable s then s
  else { sendRemote s m with run := { s.run with nextTag := s.run.nextTag + 1, asked := s.run.asked ++ [(.nobody, m)] } }

/-- One line at level 1: its home slice; at most 8 pinned lines in a set, in a way the VNPU may allocate (R385). A line homed on another module is filled there and
cannot be pinned, since no message of R45 pins; SRAM and host pages have no home slice (DESIGN CHOICE, log 81). -/
def residentL1 (op : ResOp) (s : State) (c : Nat) (va : Word) : State :=
  if isFw c && (sramOff va).isSome then setSkip s c
  else match reach s c { exec := true, plain := false } va with
  | (s1, .ok 0 _ pa _ _) =>
    let x := lineOf pa
    let key := sliceKey s1 x
    let mod := fun (s : State) (f : SliceLine → SliceLine) =>
      { s with slices := mput s.slices key ((mget s.slices key []).map fun e => if e.line == x then f e else e) }
    match op with
    | .unpin => mod s1 fun e => { e with pins := e.pins.filter (· != c) }
    | _ =>
      if pageMoving s1 0 pa then stall s1
      else if lostLine s1 pa then setSkip s1 c
      else
        let v := (ctxAt s1 c).v
        let s2 := sliceServe (fillCharge s1 c) c v x 64 false
        if op == .pin then
          let l := mget s2.slices key []
          match l.find? fun e => e.line == x with
          | some e =>
            if !mayUse (allowedWays s2 v) e.way || (e.pins.isEmpty && decide (8 ≤ (l.filter fun y => !y.pins.isEmpty).length)) then setPinov s2 c
            else mod s2 fun y => { y with pins := c :: y.pins.filter (· != c) }
          | none => setPinov s2 c
        else s2
  | (s1, .ok 2 home pa _ _) =>
    match op with
    | .unpin => s1
    | .fill => fillRemote (fillCharge s1 c) (ctxAt s1 c).v home pa
    | .pin => setPinov (fillRemote (fillCharge s1 c) (ctxAt s1 c).v home pa) c
  | (s1, _) => setSkip s1 c

def residentLine (op : ResOp) (level : BitVec 1) (c : Nat) (s : State) (line : Nat) : State :=
  if level = 1 then residentL1 op s c (BitVec.ofNat 64 line)
  else match textOf (ctxAt s c) line with
    | some lane => residentL0 op s c lane line
    | none => setSkip s c

/-- The 64-byte lines that meet [a, a + len). -/
def linesOf (a len : Nat) : List Nat :=
  if len = 0 then [] else (List.range ((a + len - 1) / 64 - a / 64 + 1)).map fun i => (a / 64 + i) * 64

/-- IPREF, IPIN, IUNPIN (R383, R384): no fault beyond decode. A firmware core has no text of a team, so level 0 skips its lines (log 16). -/
def residency (i : Instr) (op : ResOp) (d a : Reg) (level : BitVec 1) (s : State) : Outcome :=
  .next (ctl i [a, d] none (fun v s =>
    let c := s.run.cur
    let len := min (val1 v).toNat (2 ^ 20)
    let s1 := if 2 ^ 20 < (val1 v).toNat then setSkip s c else s
    .done ((linesOf (val0 v).toNat len).foldl (residentLine op level c) s1) none) s)

/-- IPREF (R384). -/
def execIpref (d a : Reg) (level : BitVec 1) (s : State) : Outcome := residency (.ipref d a level) .fill d a level s
/-- IPIN (R384, R385). -/
def execIpin (d a : Reg) (level : BitVec 1) (s : State) : Outcome := residency (.ipin d a level) .pin d a level s
/-- IUNPIN (R384). -/
def execIunpin (d a : Reg) (level : BitVec 1) (s : State) : Outcome := residency (.iunpin d a level) .unpin d a level s

/-! ## Atomics, ordered accesses, fences -/

def wideBytes (wide : Bool) : Nat := if wide then 8 else 4

/-- AMO (R387). -/
def execAmo (d a b : Reg) (op : AmoOp) (wide : Bool) (ord : MemOrd) (s : State) : Outcome :=
  .next (ctl (.amo d a b op wide ord) [a, b] (some d) (fun v s =>
    issue s s.run.cur (.amo op) (val0 v) (wideBytes wide) (val1 v) 0 d.toNat ord) s)

/-- CAS (R388): D, the compare value, is read after A and B. -/
def execCas (d a b : Reg) (wide : Bool) (ord : MemOrd) (s : State) : Outcome :=
  .next (ctl (.cas d a b wide ord) [a, b, d] (some d) (fun v s =>
    issue s s.run.cur .cas (val0 v) (wideBytes wide) (val1 v) (val2 v) d.toNat ord) s)

/-- LDACQ (R390). -/
def execLdacq (d a : Reg) (size : MemSize) (ord : MemOrd) (s : State) : Outcome :=
  .next (ctl (.ldacq d a size ord) [a] (some d) (fun v s =>
    issue s s.run.cur .ldacq (val0 v) (sizeBytes size) 0 0 d.toNat ord) s)

/-- STREL (R390). -/
def execStrel (a b : Reg) (size : MemSize) (ord : MemOrd) (s : State) : Outcome :=
  .next (ctl (.strel a b size ord) [a, b] none (fun v s =>
    issue s s.run.cur .strel (val0 v) (sizeBytes size) (val1 v) 0 0 ord) s)

def fenceCore : MemOrd → Bool
  | .acq .core | .rel .core | .acqRel .core | .seq .core => true
  | _ => false

/-- R391: what a FENCE still waits for: a release for every earlier access, an acquire for earlier loads and atomics; a core-scope fence
for nothing that a slice acknowledges. -/
def fenceWaits (x : Ctx) (ord : MemOrd) : Bool :=
  !fenceCore ord && ((releases ord && !x.mem.isEmpty) || x.mem.any fun p => returnsKind p.kind)

/-- FENCE (R391). -/
def execFence (ord : MemOrd) (s : State) : Outcome :=
  .next (ctl (.fence ord) [] none (fun _ s => if fenceWaits (curCtx s) ord then .wait .loads else .done s none) s)

end Sys2Proof.Machine
end

