-- ==== Sys2Proof/Machine/Sync.lean ====
section
/-!
DEFINITION. Tokens to the lanes, engine commands, counters, tags, granule owners, phases (R190 to R192, R200, R392 to R399).
-/
namespace Sys2Proof.Machine

/-! ## The queue pool (R190, R191) -/

def minDefault (i : Nat) : Nat := if i = 0 then 128 else if i ≤ 3 then 16 else 8
def capDefault (i : Nat) : Nat := if i = 0 then 512 else if i ≤ 3 then 128 else 64
def qMin (x : Ctx) (i : Nat) : Nat := mget x.qmin i (minDefault i)
def qCap (x : Ctx) (i : Nat) : Nat := mget x.qcap i (capDefault i)
def qLevel (x : Ctx) (i : Nat) : Nat :=
  if i = 0 then x.ctlq.length else if i ≤ 3 then (mget x.cmdq (i - 1) []).length else (mget x.rx (i - 4) []).length

/-- The entries of queue i, with one that a waiting instruction has been granted (R191, R195). -/
def poolLevel (x : Ctx) (i : Nat) : Nat := qLevel x i + if x.leftWait = .queue i then 1 else 0

def sumOver (f : Nat → Nat) : Nat := (List.range 8).foldl (fun a i => a + f i) 0

/-- R191: queue i of context c takes a new entry; one that has been granted already is there (R195). -/
def queueTakes (s : State) (c i : Nat) : Bool :=
  let x := ctxAt s c
  let y := ctxAt s (otherBank c)
  let level := poolLevel x i
  let used := sumOver (poolLevel x) + sumOver (poolLevel y)
  let due := sumOver (fun j => qMin x j - poolLevel x j) + sumOver (fun j => qMin y j - poolLevel y j)
  x.leftWait == .queue i || decide (level < qMin x i) || (decide (level < qCap x i) && decide (due < 1024 - used))

/-- R190: the sum of MIN over the core's 16 queues when queue i of context c takes MIN m. -/
def minSum (s : State) (c i m : Nat) : Nat :=
  let x := ctxAt s c
  let y := ctxAt s (otherBank c)
  sumOver (fun j => if j = i then m else qMin x j) + sumOver (qMin y)

/-! ## Tokens (R392) -/

/-- A token joins the control queue in this cycle (R413). -/
def appendToken (s : State) (c : Nat) (t : Token) : State :=
  modCtx s c fun x => { x with ctlq := x.ctlq ++ [t], appended := some (clusterAt s (clusterOf (coreOf c))).cycle }

/-- Appends a control-queue entry, or waits for one. -/
def token (i : Instr) (a : Reg) (f : Word → Except Nat Token) (s : State) : Outcome :=
  .next (ctl i [a] none (fun v s =>
    let c := s.run.cur
    if !isTeam c then .trap 0x01 0
    else match f (val0 v) with
      | .error cause => .trap cause 0
      | .ok t => if queueTakes s c 0 then .done (appendToken s c t) none else .wait (.queue 0)) s)

/-- TMASK (R392). -/
def execTmask (a : Reg) (s : State) : Outcome := token (.tmask a) a (fun v => .ok { kind := 0, payload := v }) s
/-- TTRIP (R392): A[63:32] must be 0. -/
def execTtrip (a : Reg) (s : State) : Outcome :=
  token (.ttrip a) a (fun v => if 2 ^ 32 ≤ v.toNat then .error 0x01 else .ok { kind := 1, payload := v }) s
/-- TOUT (R392). -/
def execTout (a : Reg) (s : State) : Outcome := token (.tout a) a (fun v => .ok { kind := 2, payload := boolW (v != 0) }) s
/-- TDATA (R392). -/
def execTdata (a : Reg) (s : State) : Outcome := token (.tdata a) a (fun v => .ok { kind := 3, payload := v }) s

/-! ## LSECT and LWAIT (R393, R394) -/

/-- R394: the lanes wait at a pop on an empty control queue, or have ended, and every issued word has landed. -/
def laneIdleBit (x : Ctx) : Bool := ((x.lanes.atPop && x.ctlq.isEmpty) || x.lanes.ended) && decide (x.lanes.landed < x.lanes.clock)

def lsect (x : Ctx) : Word :=
  BitVec.ofNat 64 ((if x.lanes.any then 2 ^ 33 else 0) + (if laneIdleBit x then 2 ^ 32 else 0) +
    min (x.lanes.sects.length + x.lanes.retiring.length) 0xFFFF * 2 ^ 16 + x.lanes.num)

/-- R286: as an LWAIT ends, the sequencer sees the lane stores up to the end of the section that has retired last. -/
def seeLanes (x : Ctx) : Ctx := { x with lanes := { x.lanes with seen := x.lanes.numTo } }

/-- LWAIT (R286, R393). -/
def execLwait (a : Reg) (s : State) : Outcome :=
  .next (ctl (.lwait a) [a] none (fun v s =>
    let x := curCtx s
    if !isTeam s.run.cur then .trap 0x01 0
    else if (x.lanes.any && x.lanes.num == (val0 v).toNat % 65536) || laneIdleBit x then .done (modCtx s s.run.cur seeLanes) none
    else .wait .lwait) s)

/-! ## Commands (R395, R353) -/

/-- R189: a copy with TEN raises the count of its tag and clears its CTB bit. -/
def tagUp (x : Ctx) (t : Nat) : Ctx :=
  { x with tags := mput x.tags t (mget x.tags t 0 + 1), ctb := x.ctb &&& ~~~(1#64 <<< t) }

/-- A command as its CMD queues it. -/
def newCmd (s : State) (c : Nat) (i : Instr) : QCmd :=
  { cmd := i, pc := (ctxAt s c).pc, num := s.run.nextCmd, steps := 0, pos := 0, begun := 0, sc := 0, walk := [], snap := [], started := false, trap26 := false, vc := (ctxAt s c).vc }

/-- R395: the command joins its engine's queue. -/
def queueCmd (s : State) (c eng : Nat) (i : Instr) : State :=
  let q := newCmd s c i
  modCtx { s with run := { s.run with nextCmd := s.run.nextCmd + 1 } } c fun y => { y with cmdq := mput y.cmdq eng (mget y.cmdq eng [] ++ [q]) }

/-- CMD (R353, R395). Engine 3 is no assigned combination: it traps at decode, before its operands are read. -/
def execCmd (eng : BitVec 2) (a b : Reg) (op flags : BitVec 6) (s : State) : Outcome :=
  let i : Instr := .cmd eng a b op flags
  if eng == 3 then .next (ctl i [] none (fun _ _ => .trap 0x01 0) s)
  else .next (ctl i [a, b] none (fun v s =>
    let c := s.run.cur
    let x := curCtx s
    if !isTeam c then .trap 0x01 0
    else if acquireOpen x then .wait .held
    else if !queueTakes s c (1 + eng.toNat) then .wait (.queue (1 + eng.toNat))
    else
      let s1 := if eng == 1 && (val1 v).getLsbD 22 then setCtx s c (tagUp x (wbits (val1 v) 21 16)) else s
      .done (queueCmd s1 c eng.toNat (decodeCommand eng op { flags, wa := val0 v, wb := val1 v })) none) s)

/-! ## Counters, owners, tags (R396, R397) -/

/-- An instruction of the sync group: only a team has these parts. -/
def sync (i : Instr) (srcs : List Reg) (d : Option Reg) (body : List Word → State → Do) (s : State) : Outcome :=
  .next (ctl i srcs d (fun v s => if isTeam s.run.cur then body v s else .trap 0x01 0) s)

def counter (x : Ctx) (k : BitVec 4) : BitVec 32 := mget x.k k.toNat 0

/-- KWAIT (R396). -/
def execKwait (k : BitVec 4) (b : Reg) (s : State) : Outcome :=
  sync (.kwait k b) [b] none (fun v s =>
    if (counter (curCtx s) k - (val0 v).extractLsb' 0 32).toNat < 2 ^ 31 then .done s none else .wait .kwait) s

/-- KSIG (R396). -/
def execKsig (k : BitVec 4) (b : Reg) (s : State) : Outcome :=
  sync (.ksig k b) [b] none (fun v s =>
    .done (modCtx s s.run.cur fun x => { x with k := mput x.k k.toNat (counter x k + (val0 v).extractLsb' 0 32) }) none) s

/-- KRD (R396). -/
def execKrd (d : Reg) (k : BitVec 4) (s : State) : Outcome :=
  sync (.krd d k) [] (some d) (fun _ s => .res ((counter (curCtx s) k).setWidth 64) s none) s

/-- OWNX (R397). -/
def execOwnx (a b : Reg) (s : State) : Outcome :=
  sync (.ownx a b) [a, b] none (fun v s =>
    let c := s.run.cur
    let f := wbits (val0 v) 7 0
    let n := wbits (val0 v) 15 8
    let o := wbits (val1 v) 1 0
    if o = 0 then .trap 0x01 0
    else if n = 0 then .done s none
    else if (curCtx s).gran.length < f + n then .trap 0x20 0
    else if !ownersAre s c f n 0 then .trap 0x20 0
    else .done (setOwners s c f n o) none) s

/-- OWNW (R397). -/
def execOwnw (a b : Reg) (s : State) : Outcome :=
  sync (.ownw a b) [a, b] none (fun v s =>
    let f := wbits (val0 v) 7 0
    let n := wbits (val0 v) 15 8
    if n = 0 then .done s none
    else if (curCtx s).gran.length < f + n then .trap 0x20 0
    else if ownersAre s s.run.cur f n (wbits (val1 v) 1 0) then .done s none else .wait .ownw) s

/-- TAGWA (R396). -/
def execTagwa (a : Reg) (s : State) : Outcome :=
  sync (.tagwa a) [a] none (fun v s => if (curCtx s).ctb &&& val0 v = val0 v then .done s none else .wait .tag) s

/-- TAGWL (R396). -/
def execTagwl (a : Reg) (s : State) : Outcome :=
  sync (.tagwl a) [a] none (fun v s =>
    if (curCtx s).ctb &&& val0 v ≠ 0 ∨ val0 v = 0 then .done s none else .wait .tag) s

/-- TAGFF (R396). -/
def execTagff (d a : Reg) (s : State) : Outcome :=
  sync (.tagff d a) [a] (some d) (fun v s => .res (ctzW ((curCtx s).ctb &&& val0 v)) s none) s

/-- TAGCLR (R396). -/
def execTagclr (a : Reg) (s : State) : Outcome :=
  sync (.tagclr a) [a] none (fun v s => .done (modCtx s s.run.cur fun x => { x with ctb := x.ctb &&& ~~~(val0 v) }) none) s

/-! ## Phases (R200, R399) -/

/-- R200: the neighbours along a declared level of extent `trip` and stride `st`. -/
def nbrsAlong (t st trip : Nat) : List Nat :=
  (if 0 < t / st % trip then [t - st] else []) ++ (if t / st % trip + 1 < trip then [t + st] else [])

def neighboursGo (t : Nat) : Nat → List Nat → List Nat
  | _, [] => []
  | st, trip :: r => nbrsAlong t st trip ++ neighboursGo t (st * trip) r

def neighbours (s : State) (x : Ctx) (glb : Bool) : List Nat :=
  if glb then (List.range x.nteams).filter (· != x.team)
  else match launchAt s x.launch with
    | some l => neighboursGo x.team 1 (l.trips.take l.hdr.nspat)
    | none => []

/-- PHASE (R200, R399): a device-scope fence, then PH rises once, then the wait for the neighbours; the last team whose PH reaches a global phase with L = 0 merges the
clocks (or the end of the last one that had not, `phasesEnd`). -/
def execPhase (glb : Bool) (s : State) : Outcome :=
  sync (.phase glb) [] none (fun _ s =>
    let c := s.run.cur
    let x := curCtx s
    if !x.linked then .trap 0x01 0
    else if !x.mem.isEmpty then .wait .loads
    else
      let y := if x.phRaised then x else { x with ph := x.ph + 1, phRaised := true, phAll := glb }
      let s1 := setCtx s c y
      let ok := (neighbours s1 y glb).all (withinLead s1 y)
      let s2 := if x.phRaised then s1 else phasesEnd s1 x.launch
      if ok then .done (modCtx s2 c fun z => { z with phRaised := false, phAll := false }) none else .away (waitAt s2 c .phase)) s

end Sys2Proof.Machine
end

