-- ==== Sys2Proof/Machine/Engine.lean ====
section
/-!
DEFINITION. The common course of an engine command (R187, R287, R293, R355, R356, R444, R445): taking, rejecting, starting, completing; engine
accesses to device memory (R219, R299, R456).
-/
namespace Sys2Proof.Machine

/-! ## Word B (R355) -/

def gaf (c : EngineFields) : Nat := wbits c.wb 63 56
def gan (c : EngineFields) : Nat := wbits c.wb 55 48
def gbf (c : EngineFields) : Nat := wbits c.wb 47 40
def gbn (c : EngineFields) : Nat := wbits c.wb 39 32
def nxa (c : EngineFields) : Nat := wbits c.wb 31 30
def nxb (c : EngineFields) : Nat := wbits c.wb 29 28
def ken (c : EngineFields) : Bool := c.wb.getLsbD 27
def ksel (c : EngineFields) : Nat := wbits c.wb 26 23
def ten (c : EngineFields) : Bool := c.wb.getLsbD 22
def tagOfCmd (c : EngineFields) : Nat := wbits c.wb 21 16

/-- The first byte and the length of ranges A and B, team-relative. -/
def baseA (c : EngineFields) : Nat := 4096 * gaf c
def lenA (c : EngineFields) : Nat := 4096 * gan c
def baseB (c : EngineFields) : Nat := 4096 * gbf c
def lenB (c : EngineFields) : Nat := 4096 * gbn c

/-- The engine, code and fields of a command. -/
def partsOf (i : Instr) : Nat × Nat × EngineFields :=
  match commandParts i with
  | some (e, o, c) => (e.toNat, o.toNat, c)
  | none => (0, 0, { flags := 0, wa := 0, wb := 0 })

/-! ## Taking and rejecting -/

/-- The queue's copy of a command that stands at the head; a command that does not is as one queued now. -/
def headCmd (s : State) (c eng : Nat) (i : Instr) : QCmd :=
  match mget (ctxAt s c).cmdq eng [] with
  | q :: _ => if q.cmd = i then q else newCmd s c i
  | [] => newCmd s c i

/-- The command leaves the head of its queue. -/
def dropHead (x : Ctx) (eng : Nat) (i : Instr) : Ctx :=
  match mget x.cmdq eng [] with
  | q :: r => if q.cmd = i then { x with cmdq := mput x.cmdq eng r } else x
  | [] => x

/-- The head's copy is updated where it stands. -/
def setHead (x : Ctx) (eng : Nat) (q : QCmd) : Ctx :=
  match mget x.cmdq eng [] with
  | h :: r => if h.cmd = q.cmd then { x with cmdq := mput x.cmdq eng (q :: r) } else x
  | [] => x

/-- R189, R444: a copy that ends without completing lowers its tag's count and leaves its CTB bit. -/
def tagDrop (x : Ctx) (t : Nat) : Ctx := { x with tags := mput x.tags t (mget x.tags t 0 - 1) }

/-- R189: a copy that completes lowers its tag's count and sets the CTB bit at 0. -/
def tagDone (x : Ctx) (t : Nat) : Ctx :=
  let y := tagDrop x t
  if mget y.tags t 0 = 0 then { y with ctb := y.ctb ||| (1#64 <<< t) } else y

/-- The engine fault record of a command (R445). -/
def engineRecord (s : State) (c : Nat) (q : QCmd) (cause : Nat) (addr : Word) : State :=
  let x := ctxAt s c
  let p := partsOf q.cmd
  postTeamRecord s x.v (engineRecordBytes s x cause p.1 p.2.1 q.steps q.pc addr)

/-- A rejection's effect on the team: the record, the tag of a copy with TEN, the event flag (R356, R405, R444), a budget trap that is due at the command's end (R155). -/
def rejected (s : State) (c : Nat) (q : QCmd) (cause : Nat) (addr : Word) : State :=
  let p := partsOf q.cmd
  modCtx (engineRecord s c q cause addr) c fun x => { (if p.1 == 1 && ten p.2.2 then tagDrop x (tagOfCmd p.2.2) else x) with ev := true, pend26 := x.pend26 || q.trap26 }

/-- R187: an engine takes from the other bank next. -/
def turnBank (s : State) (c eng : Nat) : State := modCore s (coreOf c) fun k => { k with nextBank := mput k.nextBank eng (1 - bankOf c) }

/-- R356: the command at the head is rejected; those behind it proceed, the other bank's first (R187). -/
def reject (s : State) (c eng : Nat) (q : QCmd) (cause : Nat) (addr : Word) : State :=
  turnBank (rejected (modCtx s c fun x => dropHead x eng q.cmd) c q cause addr) c eng

/-- R445, R457, R459: a fault that ends a started command and kills its team. -/
def engineKill (s : State) (c : Nat) (q : QCmd) (cause : Nat) (addr : Word) : State :=
  killTeam (engineRecord s c q cause addr) c cause (pcOffset (ctxAt s c) q.pc) addr

/-- R356: the checks every command meets: flags, reserved bits, TEN, unused ranges. -/
def wordBad (eng : Nat) (c : EngineFields) (flags : Nat) (useA useB : Bool) : Bool :=
  c.flags.toNat / (flags + 1) != 0 || wbits c.wb 15 0 != 0 || (ten c && eng != 1) || (!useA && gan c != 0) || (!useB && gbn c != 0)

/-! ## Starting -/

/-- R143, R163, R287: earlier accesses of the team are over and it is not in drain mode; the VNPU's quota is not exhausted (a class A window is not affected). -/
def inClassA (s : State) (c : Nat) : Bool := classOf s (ctxAt s c).v == 1 && servedOn s (coreOf c) (ctxAt s c).v

def mayStart (s : State) (c : Nat) : Bool :=
  let x := ctxAt s c
  x.mem.isEmpty && x.phase == .running && x.drain == .off && (!(vnpuAt s x.v).exhausted || inClassA s c)

/-- The physical granules of a range of a team. -/
def physRange (x : Ctx) (f n : Nat) : List Nat := (x.gran.drop f).take n

def runOf (s : State) (c : Nat) (q : QCmd) : RunCmd :=
  let x := ctxAt s c
  { ctx := c, v := x.v, launch := x.launch, team := x.team, cmd := q, paused := none, released := false, rows := [] }

/-- The team a started CPX or CPR reaches. -/
def peerOf (s : State) (u : RunCmd) : Option Nat :=
  let p := partsOf u.cmd.cmd
  if p.2.1 = 0x14 ∨ p.2.1 = 0x16 then
    ((s.ctxs.find? fun e => decide (e.1 < 192) && e.2.phase != .empty && e.2.launch == u.launch && e.2.team == wbits p.2.2.wa 23 0)).map (·.1)
  else none

/-- R293: the granules (core, granule) a command locks. -/
def lockedBy (s : State) (u : RunCmd) : List (Nat × Nat) :=
  let p := partsOf u.cmd.cmd
  let own := fun f n => (physRange (ctxAt s u.ctx) f n).map fun g => (coreOf u.ctx, g)
  let far := fun f n => match peerOf s u with
    | some k => (physRange (ctxAt s k) f n).map fun g => (coreOf k, g)
    | none => []
  (if p.2.1 = 0x14 then far (gaf p.2.2) (gan p.2.2) else own (gaf p.2.2) (gan p.2.2)) ++
    (if p.2.1 = 0x16 then far (gbf p.2.2) (gbn p.2.2) else own (gbf p.2.2) (gbn p.2.2))

/-- Every command issued on the cores of a cluster that has not completed: queued, started, or a collective that has been taken. -/
def issuedNear (s : State) (core : Nat) : List RunCmd :=
  (List.range 8).flatMap fun j =>
    let n := core / 8 * 8 + j
    (coreAt s n).units.map (·.2) ++ ([2 * n, 2 * n + 1].flatMap fun c => (ctxAt s c).cmdq.flatMap fun e => e.2.map (runOf s c)) ++
      (s.collectives.filter fun w => coreOf w.ctx == n).map fun w => runOf s w.ctx w.cmd

/-- R293: no command issued earlier holds a granule that the command locks. -/
def lockFree (s : State) (u : RunCmd) : Bool :=
  (issuedNear s (coreOf u.ctx)).all fun w => decide (u.cmd.num ≤ w.cmd.num) || (lockedBy s w).all fun e => !(lockedBy s u).contains e

/-- A unit's command as it goes on; a budget trap that it has met meanwhile stays (R155). -/
def putUnit (s : State) (core key : Nat) (u : RunCmd) : State :=
  modCore s core fun k =>
    { k with units := mput k.units key { u with cmd := { u.cmd with trap26 := u.cmd.trap26 || match mfind k.units key with | some w => w.ctx == u.ctx && w.cmd.trap26 | none => false } } }

/-- Unit n of an engine runs now. -/
def inUnit (s : State) (n : Nat) : State := { s with run := { s.run with unit := n } }

/-- The command leaves its queue and stands in its unit. -/
def startCmd (s : State) (c eng unit : Nat) (u : RunCmd) : State :=
  modCore (modCtx s c fun x => dropHead x eng u.cmd.cmd) (coreOf c) fun k =>
    { k with units := mput k.units unit u, nextBank := mput k.nextBank eng (1 - bankOf c) }

/-- R183, R444: the owners of the used ranges, read in the cycle the command would start. -/
def ownersOk (s : State) (c eng : Nat) (e : EngineFields) (useA useB : Bool) : Bool :=
  (!useA || ownersAre s c (gaf e) (gan e) (engOwner eng)) && (!useB || ownersAre s c (gbf e) (gbn e) (engOwner eng))

/-- R444: at completion the ranges take their next owners, the counter is signalled, the tag is lowered, EV is set (R405). `pa` and `pb` are the teams that
hold range A and range B; a granule of both takes NXA (R454). -/
def complete (s : State) (c pa pb : Nat) (e : EngineFields) (eng : Nat) : State :=
  let s1 := setOwners s pb (gbf e) (gbn e) (nxb e)
  let s3 := setOwners s1 pa (gaf e) (gan e) (nxa e)
  modCtx s3 c fun x =>
    let y := if ken e then { x with k := mput x.k (ksel e) (mget x.k (ksel e) 0 + 1) } else x
    { (if eng == 1 && ten e then tagDone y (tagOfCmd e) else y) with ev := true }

/-- R155: a budget trap that a command has met is pending from its end. -/
def settleTrap (s : State) (u : RunCmd) : State := if u.cmd.trap26 then modCtx s u.ctx fun x => { x with pend26 := true } else s

/-- How many pieces or rows a unit does in a turn (log 57). -/
def turnPieces (s : State) : Nat := s.run.pace + 1

/-! ## Engine accesses to device memory -/

/-- Why an engine access stops. -/
inductive EngErr where
  | absent (va : Word) (write malf : Bool)
  | fault (cause : Nat) (addr : Word)
  | machine (u : Unit8) (num : Nat) (addr : Word)
  | held
  deriving DecidableEq, Repr

/-- What an engine access comes to: its result, or why it stops and the state in which it does: what came before it in its piece has been done (R299). -/
abbrev EngRes (α : Type) := Except (State × EngErr) α

/-- A 64-byte line an engine has reached: its number, memory type, home module, first byte, whether it is race-checked; `issued`: its request has been made; `late`: it
waits. -/
structure LineRef where
  line : Nat
  mt : Nat
  home : Nat
  pa : Nat
  rc : Bool
  issued : Bool
  late : Bool
  deriving DecidableEq, Repr

/-- R156: while a copy looks ahead, a line does not wait for those before it. -/
def aheadOf (s : State) : State := if s.run.ahead then { s with run := { s.run with stuck := false } } else s
def alsoStuck (s0 s : State) : State := if s0.run.stuck then stall s else s

/-- R152, R219, R299, R456: an engine reaches a line, to read it or to write `n` bytes of it: translation and checks, its bucket, the race check with the clock of the
command's issue, the slice. -/
def reachLine (s0 : State) (c : Nat) (vc : SMap Nat) (write : Bool) (n : Nat) (whole : Bool) (va : Word) : EngRes (State × LineRef) :=
  let s := aheadOf s0
  let x := ctxAt s c
  match reach s c { read := !write, write } va with
  | (_, .absent m) => .error (s0, .absent va write m)
  | (_, .fault cause) => .error (s0, .fault cause va)
  | (s1, .ok mt home pa rc _) =>
    if pageMoving s1 mt pa then .error (s0, .held)
    else
      let arrived := regulated s1 (dieOfCtx c) (coreOf c % 48) x.v c (initCharge n false)
      let s2 := if write then arrived else issued (.read x.v c mt home (pa / 64 * 64) n (rc && mt == 0) vc) s1 arrived
      let r : LineRef := { line := va.toNat / 64, mt, home, pa := pa / 64 * 64, rc := rc && mt == 0, issued := !s1.run.stuck, late := s2.run.stuck }
      if mt = 1 ∧ hostLost s2 = true then .error (s0, .machine .hostPort 0 va)
      else if mt ≠ 0 then .ok (alsoStuck s0 s2, r)
      else
        match (if rc then raceStep s2 x.v x.epoch (slotOf x) vc (lineOf pa) (!write) write else some s2) with
        | none => .error (s0, .fault 0x18 va)
        | some s3 =>
          if lostLine s3 pa && (!(write && whole) || deadLine s3 pa) then .error (s0, .machine .mem (memUnit pa) va)
          else
            let s4 := if write && whole then clearLost s3 pa else s3
            .ok (alsoStuck s0 (sliceServe s4 c x.v (lineOf pa) (initCharge n false) write), r)

def engGot (s0 : State) (va : Word) (write : Bool) : State × Got → EngRes (State × List Byte)
  | (s, .ok b) => .ok (alsoStuck s0 s, b)
  | (_, .refused) => .error (s0, .absent va write false)
  | (_, .machine u num) => .error (s0, .machine u num va)

/-- The 64 bytes of a reached line; another module's are asked for (R45). -/
def lineRead (s : State) (c : Nat) (va : Word) (r : LineRef) : EngRes (State × List Byte) :=
  if r.mt = 0 then .ok (s, devBytes s r.pa 64)
  else if r.mt = 1 then .ok (hostRequest s (ctxAt s c).v false r.pa 64, readBytes s.host r.pa 64)
  else if r.late then .ok (s, List.replicate 64 0)
  else engGot s va false (remoteRead (aheadOf s) (ctxAt s c).v r.home r.pa 64)

/-- The bytes of a run are written at another module's line (R45). -/
def runsRemote (c : Nat) (va : Word) (r : LineRef) : List (Nat × List Byte) → State → EngRes State
  | [], s => .ok s
  | w :: rest, s =>
    match engGot s va true (remoteWrite (aheadOf s) (ctxAt s c).v r.home (r.pa + w.1) w.2) with
    | .error e => .error e
    | .ok (s1, _) => runsRemote c va r rest s1

/-- Writes bytes of a reached line, by their place in it. -/
def lineWrite (s0 : State) (c : Nat) (vc : SMap Nat) (va : Word) (r : LineRef) (runs : List (Nat × List Byte)) : EngRes State :=
  let s := if r.issued then noteIssued (.write (ctxAt s0 c).v c r.mt r.home r.pa runs r.rc vc) s0 else s0
  if r.mt = 0 then .ok { s with dev := runs.foldl (fun m w => writeBytes m (servedAddr s (r.pa + w.1)) w.2) s.dev }
  else if r.mt = 1 then .ok (runs.foldl (fun t w => { hostRequest t (ctxAt s c).v true (r.pa + w.1) w.2.length with host := writeBytes t.host (r.pa + w.1) w.2 }) s)
  else if r.late then .ok s
  else runsRemote c va r runs s

/-- Reads n bytes at each address, reaching each line once while the addresses stay in it. -/
def devRead (c : Nat) (vc : SMap Nat) (n : Nat) : List Nat → State → Option (Nat × List Byte) → EngRes (State × List (List Byte))
  | [], s, _ => .ok (s, [])
  | va :: rest, s, last =>
    let a : Word := BitVec.ofNat 64 va
    match (match (match last with | some l => if l.1 = va / 64 then some l else none | none => none) with
      | some l => Except.ok (s, l.2)
      | none =>
        match reachLine s c vc false 64 false a with
        | .error e => .error e
        | .ok (s1, r) => lineRead s1 c a r) with
    | .error e => .error e
    | .ok (s2, b) =>
      match devRead c vc n rest s2 (some (va / 64, b)) with
      | .error e => .error e
      | .ok (s3, l) => .ok (s3, (b.drop (va % 64)).take n :: l)

/-- Writes to adjacent bytes of one line, as one. -/
def joinWrites : List (Nat × List Byte) → List (Nat × List Byte)
  | [] => []
  | w :: rest =>
    match joinWrites rest with
    | [] => [w]
    | r :: l => if r.1 = w.1 + w.2.length ∧ r.1 / 64 = w.1 / 64 then (w.1, w.2 ++ r.2) :: l else w :: r :: l

/-- Consecutive writes to one line together: the line's address, and the bytes by their place in it. -/
def lineGroups : List (Nat × List Byte) → List (Nat × List (Nat × List Byte))
  | [] => []
  | w :: rest =>
    match lineGroups rest with
    | [] => [(w.1 / 64 * 64, [(w.1 % 64, w.2)])]
    | g :: l => if g.1 = w.1 / 64 * 64 then (g.1, (w.1 % 64, w.2) :: g.2) :: l else (w.1 / 64 * 64, [(w.1 % 64, w.2)]) :: g :: l

/-- Writes the bytes of lines in order, each line as one request (R152). -/
def devWriteLines (c : Nat) (vc : SMap Nat) : List (Nat × List (Nat × List Byte)) → State → EngRes State
  | [], s => .ok s
  | g :: rest, s =>
    let a : Word := BitVec.ofNat 64 (g.1 + ((g.2.head?).map (·.1)).getD 0)
    match reachLine s c vc true (runsLen g.2) (runsWhole g.2) a with
    | .error e => .error e
    | .ok (s1, r) =>
      match lineWrite s1 c vc a r g.2 with
      | .error e => .error e
      | .ok s2 => devWriteLines c vc rest s2

/-- Writes bytes at addresses, each within one line. -/
def devWrite (c : Nat) (vc : SMap Nat) (l : List (Nat × List Byte)) (s : State) : EngRes State := devWriteLines c vc (lineGroups (joinWrites l)) s

/-- R456: a copy that stops goes on at its first incomplete step, which is rewritten whole: its progress without the current step, where a row of the record
has nx elements and len bytes of scales. -/
def wholeSteps (nx len : Nat) (q : QCmd) : QCmd := { q with pos := q.begun, sc := len * (q.begun / nx) }

/-- The state from which a piece that did not come to its end goes on: one that waits, or comes again after a not-present fault, has not been. -/
def stopState (s : State) (e : State × EngErr) : State :=
  match e.2 with
  | .held | .absent _ _ _ => s
  | _ => e.1

/-- The agent that runs has met the loss of a host page's line (R33). -/
def dropLost (s : State) : State := { s with run := { s.run with ledger := s.run.ledger.erase (s.run.agent, .hostLost) } }

/-- R24, R206, R445, R459: a started command of context c ends by an error, or pauses at a not-present fault; `u` is where it stood. -/
def engineStop (s : State) (c key : Nat) (u : RunCmd) (e : EngErr) : State :=
  match e with
  | .absent va write malf =>
    let id := s.xlate.nextId.toNat
    let s1 := putUnit (postFault s c key va (if write then 1 else 0) malf true false) (coreOf c) key { u with paused := some id }
    if key = 4 then
      modCore s1 (coreOf c) fun k => match mfind k.units 4 with
        | some w => { k with units := mput (mdel k.units 4) (64 + id) w }
        | none => k
    else s1
  | .fault cause addr => engineKill (modCore (walkRecord s c cause u.cmd.steps u.cmd.pc addr) (coreOf c) fun k => { k with units := mdel k.units key }) c u.cmd cause addr
  | .machine unit num addr =>
    engineKill (modCore (postMachine (dropLost s) c unit num u.cmd.steps u.cmd.pc addr) (coreOf c) fun k => { k with units := mdel k.units key }) c u.cmd 0x25 addr
  | .held => putUnit s (coreOf c) key u

/-- The piece that led from s ends early. An error behind a request that waits comes once that has been admitted. -/
def pieceStops (s : State) (c key : Nat) (u : RunCmd) (e : State × EngErr) : State :=
  if e.1.run.stuck then e.1 else engineStop (stopState s e) c key u e.2

end Sys2Proof.Machine
end

