-- ==== Sys2Proof/Machine/Copy.lean ====
section
/-!
DEFINITION. Walk records and the copy commands (R452 to R459, R462).
-/
namespace Sys2Proof.Machine

/-! ## Walk records (R452, R453) -/

structure Walk where
  base : Nat
  nx : Nat
  ny : Nat
  nz : Nat
  xstr : Int
  ystr : Int
  zstr : Int
  esz : Nat
  blk : Nat
  sbase : Nat
  systr : Int
  szstr : Int
  deriving DecidableEq, Repr

def signed32 (x : Nat) : Int := (BitVec.ofNat 32 x).toInt

def walkOf (b : List Byte) : Walk :=
  { base := fieldAt b 0 8, nx := fieldAt b 8 4, ny := fieldAt b 12 4, nz := fieldAt b 16 4, xstr := signed32 (fieldAt b 20 4),
    ystr := signed32 (fieldAt b 24 4), zstr := signed32 (fieldAt b 28 4), esz := fieldAt b 32 1, blk := fieldAt b 33 1,
    sbase := fieldAt b 40 8, systr := signed32 (fieldAt b 48 4), szstr := signed32 (fieldAt b 52 4) }

def extentOk (n : Nat) : Bool := decide (1 ≤ n ∧ n ≤ 2 ^ 24)

/-- R453: the record is malformed. -/
def walkBad (b : List Byte) (w : Walk) : Bool :=
  fieldAt b 34 6 != 0 || fieldAt b 56 8 != 0 || !extentOk w.nx || !extentOk w.ny || !extentOk w.nz || decide (3 < w.esz) || decide (2 < w.blk) ||
    (w.blk != 0 && (w.esz != 0 || w.xstr != 1 || w.nx % (if w.blk = 1 then 32 else 16) != 0))

/-- R453: bases and strides are aligned. -/
def walkAligned (w : Walk) : Bool :=
  let n := 2 ^ w.esz
  let m : Nat := if w.blk = 0 then n else max n 4
  w.base % n == 0 && w.xstr % (n : Int) == 0 && w.ystr % (n : Int) == 0 && w.zstr % (n : Int) == 0 && w.sbase % m == 0 &&
    w.systr % (m : Int) == 0 && w.szstr % (m : Int) == 0

def walkCount (w : Walk) : Nat := w.nx * w.ny * w.nz

/-- The address of element n (R453). -/
def elemAt (w : Walk) (n : Nat) : Int :=
  w.base + (n % w.nx : Nat) * w.xstr + (n / w.nx % w.ny : Nat) * w.ystr + (n / (w.nx * w.ny) : Nat) * w.zstr

/-- The address of row r's scales. -/
def scaleAt (w : Walk) (r : Nat) : Int := w.sbase + (r % w.ny : Nat) * w.systr + (r / w.ny : Nat) * w.szstr

/-- Bytes of a row's scales. -/
def scaleLen (w : Walk) : Nat := if w.blk = 0 then 0 else 4 * (w.nx / (if w.blk = 1 then 32 else 16))

/-- The bytes of a dimension's reach below and above its base. -/
def reachLow (n : Nat) (str : Int) : Int := min 0 (((n : Int) - 1) * str)
def reachHigh (n : Nat) (str : Int) : Int := max 0 (((n : Int) - 1) * str)

/-- R453: the first and the last byte of a record's elements, and of its scales. -/
def walkSpan (w : Walk) : Int × Int :=
  (w.base + reachLow w.nx w.xstr + reachLow w.ny w.ystr + reachLow w.nz w.zstr,
   w.base + reachHigh w.nx w.xstr + reachHigh w.ny w.ystr + reachHigh w.nz w.zstr + 2 ^ w.esz - 1)
def walkScaleSpan (w : Walk) : Int × Int :=
  (w.sbase + reachLow w.ny w.systr + reachLow w.nz w.szstr,
   w.sbase + reachHigh w.ny w.systr + reachHigh w.nz w.szstr + scaleLen w - 1)

def spanIn (p : Int × Int) (lo len : Nat) : Bool := decide ((lo : Int) ≤ p.1 ∧ p.2 < lo + len)
def walkIn (w : Walk) (lo len : Nat) : Bool := spanIn (walkSpan w) lo len && (w.blk == 0 || spanIn (walkScaleSpan w) lo len)
def spansMeet (p q : Int × Int) : Bool := decide (p.1 ≤ q.2 ∧ q.1 ≤ p.2)

/-! ## Places and pieces (R454, R456) -/

inductive Place where
  | dev
  | own
  | peer
  deriving DecidableEq, Repr

/-- R454: source and destination of a command code; the source of CPF is its pattern. -/
def copyPlaces (op : Nat) (mem : Bool) : Place × Place :=
  match op with
  | 0x11 => (.dev, .own)
  | 0x12 => (.own, .dev)
  | 0x13 => (.own, .own)
  | 0x14 => (.own, .peer)
  | 0x15 => (.own, if mem then .dev else .own)
  | 0x16 => (.peer, .own)
  | _ => (.dev, .dev)

/-- R454: the ranges a code uses. -/
def copyUses (op : Nat) (mem : Bool) : Bool × Bool :=
  match op with
  | 0x11 => (true, false)
  | 0x12 => (false, true)
  | 0x15 => (!mem, false)
  | 0x17 => (false, false)
  | _ => (true, true)

/-- R456: elements in the step that starts at element n. -/
def stepLen (a b : Walk) (n : Nat) : Nat :=
  min (walkCount a - n) (min (a.nx - n % a.nx) (min (b.nx - n % b.nx) (4096 / 2 ^ a.esz)))

/-- Device virtual addresses wrap at 2^64. -/
def vaOf (x : Int) : Nat := (x % 2 ^ 64).toNat

/-- Reads n bytes at each address of a place. -/
def readPieces (pl : Place) (peer : Nat) (c : Nat) (vc : SMap Nat) (n : Nat) (l : List Int) (s : State) : EngRes (State × List (List Byte)) :=
  match pl with
  | .dev => devRead c vc n (l.map vaOf) s none
  | .own => .ok (s, l.map fun a => scratchBytes s c a.toNat n)
  | .peer => .ok (s, l.map fun a => scratchBytes s peer a.toNat n)

/-- Writes bytes at each address of a place. -/
def writePieces (pl : Place) (peer : Nat) (c : Nat) (vc : SMap Nat) (l : List Int) (d : List (List Byte)) (s : State) : EngRes State :=
  match pl with
  | .dev => devWrite c vc ((l.map vaOf).zip d) s
  | .own => .ok ((l.zip d).foldl (fun m e => putScratch m c e.1.toNat e.2) s)
  | .peer => .ok ((l.zip d).foldl (fun m e => putScratch m peer e.1.toNat e.2) s)

/-- What a copy moves: places, records, peer. -/
structure CopyJob where
  c : Nat
  peer : Nat
  op : Nat
  src : Place
  dst : Place
  a : Walk
  b : Walk
  deriving DecidableEq, Repr

/-- Elements n, n + 1, … at most `most` of them, whose addresses lie in one 64-byte line. -/
def sameLine (addr : Nat → Int) (n : Nat) : Nat → Nat
  | 0 => 0
  | most + 1 => let m := sameLine addr n most; if m = most ∧ addr (n + m) / 64 = addr n / 64 then m + 1 else m

/-- The elements of the piece at element n of a step that ends before element `stop`: at most 64 bytes, in one line of device memory, the destination's if
both are there. -/
def pieceLen (j : CopyJob) (n stop : Nat) : Nat :=
  let addr := elemAt (if j.dst = .dev ∨ j.src ≠ .dev then j.b else j.a)
  sameLine addr n (min (stop - n) (64 / 2 ^ j.a.esz))

/-- The scale bytes that are due before the next element: the row, and how far it has come. -/
def scalesDue (j : CopyJob) (q : QCmd) : Option (Nat × Nat) :=
  let len := scaleLen j.a
  if q.sc < len * (q.pos / j.a.nx) then some (q.sc / len, q.sc % len) else none

/-- Moves bytes from addresses to addresses; the source as it stood at start where the command has staged it (R457). -/
def movePiece (j : CopyJob) (q : QCmd) (n : Nat) (src dst : List Int) (s : State) : EngRes State :=
  match (if j.op = 0x15 then Except.ok (s, src.map fun _ => (q.walk.take 8).take n)
    else if q.snap.isEmpty then readPieces j.src j.peer j.c q.vc n src s
    else .ok (s, src.map fun a => readBytes q.snap a.toNat n)) with
  | .error e => .error e
  | .ok (s1, d) => if s1.run.stuck && !s.run.stuck then .ok s1 else writePieces j.dst j.peer j.c q.vc dst d s1

/-- R456, R459: with its step's last piece moved, the step counts, and its 64-byte pieces are charged. -/
def closeStep (j : CopyJob) (q : QCmd) (s : State) : State × QCmd :=
  let m := stepLen j.a j.b q.begun
  if q.begun < q.pos ∧ q.pos = q.begun + m ∧ scalesDue j q = none then
    let row := j.a.blk ≠ 0 ∧ q.pos % j.a.nx = 0
    (chargeCtx s j.c 10 ((m * 2 ^ j.a.esz + 63) / 64 + if row then (scaleLen j.a + 63) / 64 else 0), { q with steps := q.steps + 1, begun := q.pos })
  else (s, q)

/-- R456: the next piece of a copy: elements of its current step, or at the end of a row up to 64 bytes of that row's scales. -/
def copyPiece (j : CopyJob) (q : QCmd) (s : State) : EngRes (State × QCmd) :=
  match scalesDue j q with
  | some (r, o) =>
    let n := min (64 / 4) ((scaleLen j.a - o) / 4)
    let at' := fun (w : Walk) => (List.range n).map fun (i : Nat) => scaleAt w r + o + 4 * (i : Int)
    (movePiece j q 4 (at' j.a) (at' j.b) s).map fun s1 => let q1 := { q with sc := q.sc + 4 * n }; closeStep j q1 s1
  | none =>
    let m := pieceLen j q.pos (q.begun + stepLen j.a j.b q.begun)
    let idx := (List.range m).map (· + q.pos)
    (movePiece j q (2 ^ j.a.esz) (idx.map (elemAt j.a)) (idx.map (elemAt j.b)) s).map fun s1 => let q1 := { q with pos := q.pos + m }; closeStep j q1 s1

/-- A copy has moved everything. -/
def copyOver (j : CopyJob) (q : QCmd) : Bool := decide (walkCount j.a ≤ q.begun)

def srcWalk (q : QCmd) : Walk := walkOf (q.walk.take 64)
def dstWalk (q : QCmd) : Walk := walkOf (q.walk.drop 64)

/-- A CPF takes its element count and size from the destination record alone. -/
def copyWalks (op : Nat) (q : QCmd) : Walk × Walk := if op = 0x15 then (dstWalk q, dstWalk q) else (srcWalk q, dstWalk q)

/-- R143, R456: a copy that stops or pauses goes on at its first incomplete step. -/
def stoppedCopy (q : QCmd) : QCmd :=
  let w := (copyWalks (partsOf q.cmd).2.1 q).1
  wholeSteps w.nx (scaleLen w) q

/-- R456, R459: a copy stands between two steps. -/
def atStep (q : QCmd) : Bool := q.pos == q.begun

/-- R139, R143: a started matrix command of a team goes on until it is done, the team stopped or not. -/
def goesOn (s : State) (c : Nat) : Bool :=
  let x := ctxAt s c
  (x.phase == .running || x.phase == .stopped) && x.drain == .off

/-- The copy engine of a core has made requests for a piece that it has not moved yet. -/
def pieceBegun (s : State) (core : Nat) : Bool :=
  let a : Agent := .turn (.engine core 1)
  (s.run.ledger.any fun e => e.1 == a) || (s.run.asked.any fun e => e.1 == a) || s.buckets.any fun e => e.2.held.any fun h => h.who == a

/-- R456, R459: a started copy of context c stands between two steps. -/
def betweenSteps (s : State) (u : RunCmd) : Bool := atStep u.cmd && !pieceBegun s (coreOf u.ctx)

/-- R139, R143, R163, R459: a started copy of a team goes on while the team runs, or has stopped for its quota and is not to be evicted; else to the end of its
step. -/
def copyGoesOn (s : State) (u : RunCmd) : Bool :=
  let x := ctxAt s u.ctx
  goesOn s u.ctx && (x.phase == .running || !betweenSteps s u || ((vnpuAt s x.v).exhausted && !x.evict))

/-- R155: a budget trap that a step of an engine which has been taken back has met for the team. -/
def engineTrap (s : State) (c eng : Nat) : Bool := s.run.ledger.any fun e => e == (.turn (.engine (coreOf c) eng), .trap c)

/-- R143, R155: the queue's copy of a started copy that stops: at its first incomplete step, with a budget trap that it has met. -/
def leftCopy (s : State) (u : RunCmd) : QCmd := let q := stoppedCopy u.cmd; { q with trap26 := q.trap26 || engineTrap s u.ctx 1 }

/-- R156, R456: the pieces behind one that waits, up to the end of their step: their lines reach their regulation points too, in no defined order. The step is then
taken back. -/
def lookAhead (j : CopyJob) (steps : Nat) : Nat → QCmd → State → State
  | 0, _, s => s
  | n + 1, q, s =>
    if q.steps ≠ steps then s
    else match copyPiece j q { s with run := { s.run with stuck := false, ahead := true } } with
      | .ok (s1, q1) => lookAhead j steps n q1 (stall s1)
      | .error e => stall e.1

/-- The next n pieces of a copy, up to its end, the end of a step of a stopped team's, or the first error; `u` keeps its progress. -/
def copyGo (j : CopyJob) : Nat → RunCmd → State → State
  | 0, u, s => putUnit s (coreOf j.c) 4 u
  | n + 1, u, s =>
    if copyOver j u.cmd || !copyGoesOn s u then putUnit s (coreOf j.c) 4 u
    else match copyPiece j u.cmd s with
      | .ok (s1, q) => if s1.run.stuck then lookAhead j u.cmd.steps 4096 q s1 else copyGo j n { u with cmd := q } s1
      | .error e => pieceStops s j.c 4 (match e.2 with | .absent _ _ _ => { u with cmd := stoppedCopy u.cmd } | _ => u) e

/-! ## Taking a copy (R455, R458) -/

def srec (e : EngineFields) : Nat := wbits e.wa 63 44
def drec (e : EngineFields) : Nat := wbits e.wa 43 24

/-- R455 check 1: a record lies in the allotment, in a thread-owned granule, aligned. -/
def recordOk (s : State) (c a align len : Nat) : Bool :=
  let x := ctxAt s c
  a % align == 0 && decide (a + len ≤ 4096 * x.gran.length) && granuleOwner s c (a / 4096) == 0

/-- The walk bytes a copy keeps: the source record (or the pattern), then the destination record. -/
def readWalk (s : State) (c : Nat) (e : EngineFields) (pat : Bool) : List Byte :=
  (if pat then scratchBytes s c (srec e) 8 ++ List.replicate 56 0 else scratchBytes s c (srec e) 64) ++ scratchBytes s c (drec e) 64


/-- R458: the peer team of a CPX or CPR, when it can be reached. -/
def peerTeam (s : State) (c : Nat) (team : Nat) : Option Nat :=
  let x := ctxAt s c
  if x.linked && decide (team < x.nteams) && team != x.team then
    (s.ctxs.find? fun e => decide (e.1 < 192) && e.2.phase != .empty && e.2.launch == x.launch && e.2.team == team &&
      clusterOf (coreOf e.1) == clusterOf (coreOf c)).map (·.1)
  else none

/-- R455 check 4: the scratchpad spans lie in their ranges. -/
def spansOk (op : Nat) (mem : Bool) (e : EngineFields) (w : Walk × Walk) : Bool :=
  let p := copyPlaces op mem
  (p.1 == .dev || op == 0x15 || walkIn w.1 (baseB e) (lenB e)) && (p.2 == .dev || walkIn w.2 (baseA e) (lenA e))

/-- R210: a copy that targets a frozen core's scratchpad is held, the peer still there or already taken out of its bank. -/
def peerFrozen (s : State) (c op : Nat) (e : EngineFields) : Bool :=
  let x := ctxAt s c
  (op == 0x14 || op == 0x16) &&
    match peerTeam s c (wbits e.wa 23 0) with
    | some p => (coreAt s (coreOf p)).frozen
    | none => s.saves.any fun w => w.2.ctx.launch == x.launch && w.2.ctx.team == wbits e.wa 23 0 && clusterOf w.2.core == clusterOf (coreOf c) &&
        (coreAt s w.2.core).frozen

/-- R455 check 5, R458: the peer is there and its range is copy-owned by it. -/
def peerOk (s : State) (c op : Nat) (e : EngineFields) : Bool :=
  if op = 0x14 ∨ op = 0x16 then
    match peerTeam s c (wbits e.wa 23 0) with
    | some p => if op = 0x14 then ownersAre s p (gaf e) (gan e) 2 else ownersAre s p (gbf e) (gbn e) 2
    | none => false
  else true

/-- R455: the checks of a copy as it is taken; its records are read. -/
def takeCopy (s : State) (c op : Nat) (mem : Bool) (e : EngineFields) (q : QCmd) : Except (Nat × Word) QCmd :=
  let pat := op == 0x15
  if !recordOk s c (srec e) (if pat then 8 else 64) (if pat then 8 else 64) then .error (0x20, BitVec.ofNat 64 (srec e))
  else if !recordOk s c (drec e) 64 64 then .error (0x20, BitVec.ofNat 64 (drec e))
  else
    let q1 := { q with walk := readWalk s c e pat }
    let w := copyWalks op q1
    if (!pat && walkBad (q1.walk.take 64) w.1) || walkBad (q1.walk.drop 64) w.2 then .error (0x01, 0)
    else if !walkAligned w.1 || !walkAligned w.2 then .error (0x17, 0)
    else if w.1.esz != w.2.esz || w.1.blk != w.2.blk || walkCount w.1 != walkCount w.2 || (w.1.blk != 0 && w.1.nx != w.2.nx) || (pat && w.2.blk != 0) then .error (0x01, 0)
    else if !spansOk op mem e w then .error (0x20, 0)
    else if !(peerFrozen s c op e || peerOk s c op e) then .error (0x20, 0)
    else .ok q1

/-- R457: the command faults with 0x24 at start. -/
def overlapFault (op : Nat) (w : Walk × Walk) : Bool :=
  spansMeet (walkSpan w.1) (walkSpan w.2) &&
    (op == 0x17 || (op == 0x13 && !(w.1.ny == 1 && w.1.nz == 1 && w.2.ny == 1 && w.2.nz == 1) &&
      decide (65536 < walkCount w.1 * 2 ^ w.1.esz + scaleLen w.1 * w.1.ny * w.1.nz)))

def jobOf (s : State) (c op : Nat) (mem : Bool) (e : EngineFields) (q : QCmd) : CopyJob :=
  let p := copyPlaces op mem
  let w := copyWalks op q
  { c, peer := (peerTeam s c (wbits e.wa 23 0)).getD c, op, src := p.1, dst := p.2, a := w.1, b := w.2 }

/-- R457: the source bytes of a CPG whose spans meet, as they stand at its start. -/
def stage (s : State) (c op : Nat) (w : Walk × Walk) : Memory :=
  if op = 0x13 ∧ (spansMeet (walkSpan w.1) (walkSpan w.2) ∨ w.1.blk ≠ 0) then writeBytes [] 0 (scratchBytes s c 0 (4096 * (ctxAt s c).gran.length)) else []

/-- A copy as it starts: what R457 stages is staged once; a reissued one keeps its progress (R143). -/
def startedCopy (s : State) (c op : Nat) (q : QCmd) : QCmd :=
  if q.started then q else { q with started := true, snap := stage s c op (copyWalks op q) }

/-- The owners a copy needs at start (R183): its own ranges', and its peer's. One that goes on after a restore has its own ranges no more (R183), and is
checked against its peer alone (R458). -/
def copyOwners (s : State) (c op : Nat) (mem : Bool) (e : EngineFields) (q : QCmd) : Bool :=
  let u := copyUses op mem
  (q.started || ownersOk s c 1 e (u.1 && op != 0x14) (u.2 && op != 0x16)) && peerOk s c op e

/-- R139, R163: a copy that has started before, and had stopped with its team, goes on once the team runs. -/
def mayGoOn (s : State) (c : Nat) : Bool := (ctxAt s c).phase == .running && (ctxAt s c).drain == .off

/-- The common course of a copy command: taken once, then it waits and starts (R444, R455 to R458). -/
def copyCmd (i : Instr) (e : EngineFields) (op : Nat) (s : State) : Outcome :=
  let c := s.run.cur
  let q := headCmd s c 1 i
  let mem := op == 0x15 && e.flags.getLsbD 0
  let u := copyUses op mem
  .next <|
    if wordBad 1 e (if op = 0x15 then 1 else 0) u.1 u.2 || (!(op == 0x14 || op == 0x16) && wbits e.wa 23 0 != 0) then reject s c 1 q 0x01 0
    else match (if q.walk.isEmpty then takeCopy s c op mem e q else .ok q) with
      | .error err => reject s c 1 q err.1 err.2
      | .ok q1 =>
        let s1 := modCtx s c fun y => setHead y 1 q1
        if !(mayStart s c || (q1.started && mayGoOn s c)) || (mfind (coreAt s (coreOf c)).units 4).isSome || peerFrozen s c op e || !lockFree s (runOf s c q1) then turnBank s1 c 1
        else if !copyOwners s c op mem e q1 then reject s1 c 1 q1 0x20 0
        else if !q1.started && overlapFault op (copyWalks op q1) then engineKill s1 c q1 0x24 0
        else
          let q2 := startedCopy s c op q1
          let s2 := inUnit (startCmd s1 c 1 4 (runOf s1 c q2)) 4
          copyGo (jobOf s2 c op mem e q2) (turnPieces s) (runOf s1 c q2) s2

/-- R458, R210: the peer of a started CPX or CPR is in no bank, but has not ended: the copy waits for it (log 60). -/
def peerAway (s : State) (u : RunCmd) : Bool :=
  let p := partsOf u.cmd.cmd
  (p.2.1 == 0x14 || p.2.1 == 0x16) && (peerFrozen s u.ctx p.2.1 p.2.2 ||
    s.saves.any fun w => w.2.ctx.launch == u.launch && w.2.ctx.team == wbits p.2.2.wa 23 0)

/-- R458: the peer of a started CPX or CPR has retired or been killed. -/
def peerGone (s : State) (u : RunCmd) : Bool :=
  let p := partsOf u.cmd.cmd
  (p.2.1 == 0x14 || p.2.1 == 0x16) && !peerAway s u && (peerTeam s u.ctx (wbits p.2.2.wa 23 0)).isNone

/-- Runs a started copy on from its progress (R456, R226, R458). -/
def resumeCopy (s : State) (u : RunCmd) : State :=
  let p := partsOf u.cmd.cmd
  let mem := p.2.1 == 0x15 && p.2.2.flags.getLsbD 0
  if peerGone s u || peerAway s u then s
  else copyGo (jobOf s u.ctx p.2.1 mem p.2.2 u.cmd) (turnPieces s) u (inUnit s 4)

/-- A started copy has moved everything (R444). -/
def copyDone (s : State) (u : RunCmd) : Bool :=
  let p := partsOf u.cmd.cmd
  copyOver (jobOf s u.ctx p.2.1 (p.2.1 == 0x15 && p.2.2.flags.getLsbD 0) p.2.2 u.cmd) u.cmd

/-- CPL (R454): device memory to own scratchpad. -/
def execCpl (e : EngineFields) (s : State) : Outcome := copyCmd (.cpl e) e 0x11 s
/-- CPW (R454): own scratchpad to device memory. -/
def execCpw (e : EngineFields) (s : State) : Outcome := copyCmd (.cpw e) e 0x12 s
/-- CPG (R454, R457): own scratchpad to own scratchpad. -/
def execCpg (e : EngineFields) (s : State) : Outcome := copyCmd (.cpg e) e 0x13 s
/-- CPX (R454, R458): own scratchpad to a peer's. -/
def execCpx (e : EngineFields) (s : State) : Outcome := copyCmd (.cpx e) e 0x14 s
/-- CPF (R454, R456): fills with a pattern. -/
def execCpf (e : EngineFields) (s : State) : Outcome := copyCmd (.cpf e) e 0x15 s
/-- CPR (R454, R458): a peer's scratchpad to the own. -/
def execCpr (e : EngineFields) (s : State) : Outcome := copyCmd (.cpr e) e 0x16 s
/-- CPH (R454, R457): device memory to device memory. -/
def execCph (e : EngineFields) (s : State) : Outcome := copyCmd (.cph e) e 0x17 s

/-- UNASSIGNED_ENGINE_COMMAND (R354, R356): rejected with 0x01. -/
def execUnassignedEngineCommand (eng : BitVec 2) (op : BitVec 6) (e : EngineFields) (s : State) : Outcome :=
  let i : Instr := .unassignedEngineCommand eng op e
  .next (reject s s.run.cur eng.toNat (headCmd s s.run.cur eng.toNat i) 0x01 0)

end Sys2Proof.Machine
end

