-- ==== Sys2Proof/Machine/Flags.lean ====
section
/-!
DEFINITION. The sticky status flags: a lane's LST (R246, R416, R441) and a set's ACST (R265).
-/
namespace Sys2Proof.Machine

/-- Flags of words whose bound has passed are in LST. -/
def settleFlags (l : Lanes) : Lanes :=
  let now := l.flying.filter fun e => decide (e.1 < l.clock)
  { l with
    lst := now.foldl (fun m e => mput m e.2.1 (mget m e.2.1 0 ||| e.2.2)) l.lst
    flying := l.flying.filter fun e => !decide (e.1 < l.clock) }

/-- Raises flags in a lane, landing at a clock. -/
def raiseFlags (l : Lanes) (at' : Nat) (fs : List (Nat × LFlags)) : Lanes :=
  { l with flying := l.flying ++ (fs.filter fun e => e.2 != 0).map fun e => (at', e.1, e.2) }

/-- R441: at a VSTAT, which of the flags still in flight have landed is a free choice, `pick`; those are in LST from here on. -/
def settleSome (l : Lanes) (pick : Nat → Bool) : Lanes :=
  let z := l.flying.zipIdx
  { l with
    lst := (z.filter fun e => pick e.2).foldl (fun m e => mput m e.1.2.1 (mget m e.1.2.1 0 ||| e.1.2.2)) l.lst
    flying := (z.filter fun e => !pick e.2).map (·.1) }

/-- R265: ORs flags of lane form into a set's status. -/
def orAcst (a : AccSet) (f : LFlags) : AccSet :=
  { a with sat := a.sat || f.getLsbD 5, nv := a.nv || f.getLsbD 4, ovf := a.ovf || f.getLsbD 2 }

end Sys2Proof.Machine
end

