-- ==== Sys2Proof/Machine/Matrix.lean ====
section
/-!
DEFINITION. Matrix arithmetic and the matrix commands (R258 to R279, R446 to R451).
-/
namespace Sys2Proof.Machine

/-! ## Elements and products (R258 to R263, R266, R267) -/

/-- The elements of 128 bytes in a format: pairs of bytes, bytes, or nibbles with the lower index in the low half. -/
def elemsOf (fmt : Nat) (b : List Byte) : List Nat :=
  if fmtWidth fmt = 16 then (chunk 2 (b.length / 2) b).map leNat
  else if fmtWidth fmt = 4 then b.flatMap fun x => [x.toNat % 16, x.toNat / 16]
  else b.map (·.toNat)

/-- R258: the activation format may meet the latched weight format. -/
def pairs (w a : Nat) : Bool :=
  if w = 3 ∨ w = 4 then a == 3 || a == 4 else w == a && [1, 2, 5, 7, 8].contains w

/-- R258: K per pass. -/
def kOf (w : Nat) : Nat := if w = 1 ∨ w = 2 then 64 else if w = 8 then 256 else 128

/-- R267: the guaranteed bits G. -/
def gBits (fmt fid : Nat) : Nat :=
  let t : List Nat := match fmt with
    | 1 => [0, 5, 7, 9]
    | 2 => [0, 7, 10, 12]
    | 3 | 4 => [0, 3, 4, 4]
    | 7 => [0, 4, 5, 7]
    | 5 => [0, 4, 6, 8]
    | _ => [0, 0, 0, 0]
  t.getD fid 0

/-- R268: the boundary c_F of a guarantee of G bits: the columns below it lie on VL. -/
def lowWidth (g : Nat) : Nat := [0, 0, 0, 2, 2, 3, 4, 4, 5, 6, 7, 7, 8].getD g 0

/-- R268: the exact sum of the partial products of two operands in columns 0 to c − 1. -/
def lowColumns (c a b : Nat) : Nat :=
  (List.range c).foldl (fun n k => n + ((List.range (k + 1)).filter fun i => a.testBit i && b.testBit (k - i)).length * 2 ^ k) 0

/-- R267, R268, FREE VALUE: the delivered product of two operands: the exact columns of VC, with the G-bit field that the VL region hands on, which is the free value r's. -/
def delivered (g r a b : Nat) : Int := if g = 0 then a * b else (a * b : Nat) - (lowColumns (lowWidth g) a b : Nat) + (r % 2 ^ g : Nat)

/-- R267, R470, FREE VALUE: the delivered product of two DB8 elements: any within 2^G of the exact one, chosen by the free value r. R470 lists as allowed two outcomes that
R268's columns do not give, so for DB8 the bound of R267 is all that holds (DEDUCED, log 10). -/
def deliveredBlock (g r p : Nat) : Int := if g = 0 then p else (p : Int) + (r % (2 ^ (g + 1) - 1) : Nat) - (2 ^ g - 1)

/-- R270: the residue checker sees a mismatch. -/
def mismatch (p : Nat) (p' : Int) : Nat := if (p' - p) % 15 = 0 then 0 else 1

/-- A delivered magnitude under the sign of its product. -/
def signed (neg : Bool) (p' : Int) : Int := if neg then -p' else p'

/-- R260: the term of one floating-point product. A term that is NaN or infinite is not sliced. -/
def floatTerm (fa fw g r a w : Nat) : FVal × Nat :=
  match decodeF fa a, decodeF fw w with
  | .fin na ma ea, .fin nw mw ew =>
    let p' := delivered g r ma mw
    (.fin ((na != nw) != decide (p' < 0)) p'.natAbs (ea + ew), mismatch (ma * mw) p')
  | x, y => ((fMul x y).1, 0)

/-- The signed delivered product of two INT8 elements. -/
def intTerm (g r a w : Nat) : Int × Nat :=
  let x := (BitVec.ofNat 8 a).toInt
  let y := (BitVec.ofNat 8 w).toInt
  let p' := delivered g r x.natAbs y.natAbs
  (signed (decide (x < 0) != decide (y < 0)) p', mismatch (x.natAbs * y.natAbs) p')

/-- The signed delivered product of two block elements, with their selectors. -/
def blockTerm (fmt g r a w : Nat) : Nat × Nat × Int × Nat :=
  let x := elemParts fmt a
  let y := elemParts fmt w
  let p := x.2.2 * y.2.2
  let p' := deliveredBlock g r p
  (x.1, y.1, signed (x.2.1 != y.2.1) p', mismatch p p')

/-- Products of a column: elements paired with the free values of their multipliers, from index `i`. -/
def products {α : Type} (f : Nat → Nat → Nat → α) (free : Nat → Nat) (i : Nat) : List Nat → List Nat → List α
  | a :: as, w :: ws => f (free i) a w :: products f free (i + 1) as ws
  | _, _ => []

/-- floor(log2 |t|) of a nonzero finite term. -/
def termLog : FVal → Option Int
  | .fin _ m e => if m = 0 then none else some ((Nat.log2 m : Int) + e)
  | _ => none

/-- R261: a term truncated towards zero to a multiple of 2^g, in those units. -/
def truncTerm (g : Int) : FVal → Int
  | .fin n m e =>
    let p := scale2 m 1 (e - g)
    let x : Int := (p.1 / p.2 : Nat)
    if n then -x else x
  | _ => 0

/-- R261: the new FP32 accumulator value and flags. -/
def accFloat (acc : Nat) (terms : List FVal) : Nat × LFlags :=
  let a := decodeF 0 acc
  let pos := terms.contains (.inf false)
  let neg := terms.contains (.inf true)
  if terms.any isNan || (pos && neg) then (nanEnc 0, flNV)
  else if pos || neg then
    let x := fAdd 0 a (.inf neg)
    (( roundVal 0 rneInf x.1).1, nvIf x.2)
  else
    match (terms.filterMap termLog) with
    | [] => (acc, 0)
    | h :: t =>
      let g := t.foldl max h - 50
      let sum := (terms.map (truncTerm g)).foldl (· + ·) 0
      if sum = 0 then (acc, 0)
      else
        let y := roundVal 0 rneInf (fAdd 0 a (.fin (decide (sum < 0)) sum.natAbs g)).1
        (y.1, y.2 &&& flOF)

/-- R262: the new INT32 accumulator value. -/
def accInt (acc : Lane) (sum : Int) : Lane × LFlags :=
  let x := acc.toInt + sum
  if x < -(2 ^ 31) then (BitVec.intMin 32, flSAT) else if 2 ^ 31 - 1 < x then (BitVec.intMax 32, flSAT) else (BitVec.ofInt 32 x, 0)

/-- The scale pairs of 4 bytes each. -/
def scalePairs (b : List Byte) : List (Nat × Nat) := (chunk 4 (b.length / 4) b).map fun x => (fieldAt x 0 2, fieldAt x 2 2)

/-- R260, R263: the four terms of a block under its scales, NaN where a scale is illegal. -/
def blockTerms (ps : List (Nat × Nat × Int × Nat)) (sa sw : Nat × Nat) : List FVal :=
  if !(legalScale sa.1 && legalScale sa.2 && legalScale sw.1 && legalScale sw.2) then [.nan]
  else
    [(0, 0), (0, 1), (1, 0), (1, 1)].map fun (e : Nat × Nat) =>
      let i : Int := (ps.filter fun p => p.1 == e.1 && p.2.1 == e.2).foldl (fun m p => m + p.2.2.1) 0
      let x := scaleVal (if e.1 = 0 then sa.1 else sa.2)
      let y := scaleVal (if e.2 = 0 then sw.1 else sw.2)
      .fin (decide (i < 0)) (i.natAbs * x.1 * y.1) (x.2 + y.2)

def blocksOf {α : Type} (n : Nat) : Nat → List α → List (List α)
  | 0, _ => []
  | k + 1, l => l.take n :: blocksOf n k (l.drop n)

/-- One column of a pass: the accumulator entry, its flags, the mismatches. -/
def passColumn (fa fw fid : Nat) (free : Nat → Nat) (i : Nat) (row : List Nat) (rs : List (Nat × Nat)) (col : List Nat) (cs : List (Nat × Nat))
    (acc : Lane) : Lane × LFlags × Nat :=
  if fw = fmtI8 then
    let l := products (intTerm (gBits fw fid)) free i row col
    let y := accInt acc (l.foldl (fun m e => m + e.1) 0)
    (y.1, y.2, l.foldl (fun m e => m + e.2) 0)
  else if fw = fmtDB8 ∨ fw = fmtDB4 then
    let l := products (blockTerm fw (gBits fw fid)) free i row col
    let terms := ((blocksOf 32 rs.length l).zip (rs.zip cs)).flatMap fun e => blockTerms e.1 e.2.1 e.2.2
    let y := accFloat acc.toNat terms
    (imageOfNat y.1, y.2, l.foldl (fun m e => m + e.2.2.2) 0)
  else
    let l := products (floatTerm fa fw (max (gBits fa fid) (gBits fw fid))) free i row col
    let y := accFloat acc.toNat (l.map (·.1))
    (imageOfNat y.1, y.2, l.foldl (fun m e => m + e.2) 0)

/-- One pass (R260 to R262) into row r of a set. -/
def passRow (t : Tile) (cols : List (List Nat)) (cscales : List (List (Nat × Nat))) (fa fid : Nat) (free : Nat → Nat) (r : Nat)
    (row : List Byte) (rs : List Byte) (a : AccSet) : AccSet × Nat :=
  let els := elemsOf fa row
  let sp := scalePairs rs
  ((cols.zip (cscales ++ List.replicate 128 [])).zipIdx).foldl (fun (m : AccSet × Nat) e =>
      let k := 128 * r + e.2
      let y := passColumn fa t.fmt fid free ((128 * r + e.2) * 256) els sp e.1.1 e.1.2 (mget m.1.ent k 0)
      (orAcst { m.1 with ent := mput m.1.ent k y.1 } y.2.1, m.2 + y.2.2)) (a, 0)

/-! ## Units, sets, buffers (R446, R447, R265, R278) -/

def unitOf (s : State) (core u : Nat) : Option RunCmd := mfind (coreAt s core).units u

/-- The team-named set of a matrix command, if it names one. -/
def namedSet (i : Instr) : Option Nat :=
  match i with
  | .mst c | .mep c | .macl c | .masv c | .mars c => some (wbits c.wa 59 58)
  | _ => none

/-- A key of the matrix engine: its units, and restored epilogues that wait for theirs. -/
def matrixKey (k : Nat) : Bool := decide (k < 4 ∨ k = 32 ∨ k = 33)

/-- R446: an earlier command of the bank that names the set has not completed and is no MEP that has released it. -/
def setBusy (s : State) (c acc : Nat) : Bool :=
  (coreAt s (coreOf c)).units.any fun e => matrixKey e.1 && e.2.ctx == c && namedSet e.2.cmd.cmd == some acc && !e.2.released

def physSet (x : Ctx) (acc : Nat) : Nat := x.accs.getD acc 0
def setAt (s : State) (core p : Nat) : AccSet := mget (coreAt s core).accs p freshSet
def modSet (s : State) (core p : Nat) (f : AccSet → AccSet) : State :=
  modCore s core fun k => { k with accs := mput k.accs p (f (mget k.accs p freshSet)) }

def ownTag (c : Nat) (x : Ctx) : AccOwner := { v := x.v, launch := x.launch, team := x.team, bank := bankOf c, evicted := false }

/-- R278: the set lies under an evicted owner's tag that is not this team's. -/
def heldByEvicted (s : State) (c p : Nat) : Bool :=
  let x := ctxAt s c
  match (setAt s (coreOf c) p).owner with
  | some o => o.evicted && !(o.v == x.v && o.launch == x.launch && o.team == x.team)
  | none => false

/-- The set as a command of context c would find it: one under an evicted owner's tag is spilled and zeroed first (R446). -/
def seenSet (s : State) (c p : Nat) : AccSet := if heldByEvicted s c p then freshSet else setAt s (coreOf c) p

/-- R265: the team's tag stands on the set it names. -/
def claimSet (s : State) (c p : Nat) : State := modSet s (coreOf c) p fun a => { a with owner := some (ownTag c (ctxAt s c)) }

def ownTiles (k : Core) (b : Nat) : List Tile := k.tiles.filter fun t => t.bank == b
def lastTile (k : Core) (b : Nat) : Option Tile := (ownTiles k b).getLast?

/-- The tile a bank has loaded last, one that a restore has still to refill before all others (R447). -/
def newestTile (k : Core) (b : Nat) : Option Tile := orElse (k.refills.filter fun t => t.bank == b).getLast? fun _ => lastTile k b

/-- A started stream uses the current tile of its bank. -/
def streaming (k : Core) (b : Nat) : Bool := k.units.any fun e => e.1 == 1 && bankOf e.2.ctx == b

/-- R447: buffer i may be filled by a load of bank b. -/
def fillable (k : Core) (b i : Nat) : Bool :=
  match k.tiles[i]? with
  | none => true
  | some t =>
    if t.bank = b then !(t.cur && streaming k b)
    else !t.cur && lastTile k t.bank != some t

/-- R447: the tiles after a load of bank b puts tile t in: first in place of its own last-loaded tile that is not current, then in an empty
buffer, then in any other that qualifies; none when no buffer does. -/
def placeTile (k : Core) (b : Nat) (t : Tile) : Option (List Tile) :=
  let own := match lastTile k b with | some o => !o.cur | none => false
  if own then some (k.tiles.filter (fun x => some x != lastTile k b) ++ [t])
  else if k.tiles.length < 2 then some (k.tiles ++ [t])
  else if fillable k b 0 then some (k.tiles.drop 1 ++ [t])
  else if fillable k b 1 then some (k.tiles.take 1 ++ [t])
  else none

/-- R447: the first stream after a load makes the bank's last-loaded tile its current one. -/
def swapTile (k : Core) (b : Nat) : Core :=
  { k with tiles := k.tiles.map fun t => if t.bank = b then { t with cur := decide (some t = lastTile k b) } else t }

/-! ## The rail loop (R272) -/

/-- R272: a class A window, or its stop span, covers a core of the cluster. -/
def classASpan (s : State) (k : Nat) : Bool := (List.range 8).any fun j => inGuard s (8 * k + j)

def levelsQueued (s : State) (k : Nat) : List Nat :=
  (List.range 16).flatMap fun j =>
    let c := 16 * k + j
    let x := ctxAt s c
    if x.phase == .empty then []
    else if !(mget x.cmdq 0 []).isEmpty || (coreAt s (coreOf c)).units.any fun e => matrixKey e.1 && e.2.ctx == c then [x.fid] else []

/-- R272: the cluster's target level. -/
def targetLevel (s : State) (k : Nat) : Nat := if classASpan s k then 0 else (levelsQueued s k).foldl min 3

/-- R273: the VL value the loop holds for a level. -/
def vlOf (p : Cluster) (f : Nat) : Nat := match f with | 0 => p.vc | 1 => p.vl1 | 2 => p.vl2 | _ => p.vl3

/-- R272: a command at fidelity f may start: the target level is a more exact one, or VL has reached the level's value. -/
def railReady (s : State) (k f : Nat) : Bool := decide (targetLevel s k < f) || decide (vlOf (clusterAt s k) f ≤ (clusterAt s k).vl)

/-! ## The common course of a matrix command -/

/-- R277, R446: rows of an epilogue, a restored one's among them, stand in the output buffer. -/
def bufferHeld (k : Core) : Bool := k.units.any fun e => e.1 == 2 || e.1 == 32 || e.1 == 33

/-- Waits of R272 and R446 that every matrix command meets: its unit, the output buffer, its set, a tile of its bank to be refilled, VL. -/
def matrixWaits (s : State) (c unit : Nat) (i : Instr) : Bool :=
  let k := coreAt s (coreOf c)
  (mfind k.units unit).isSome || (unit == 2 && bufferHeld k) || (match namedSet i with | some a => setBusy s c a | none => false) ||
    (k.refills.any fun t => t.bank == bankOf c) || !railReady s (clusterOf (coreOf c)) (ctxAt s c).fid

/-- A matrix command: checks, waits, owners, then `body`, which gives the state with the command's effects or a late rejection. -/
def matrixCmd (i : Instr) (unit : Nat) (useA useB : Bool) (check : Ctx → Option Nat) (waits : State → Nat → Bool)
    (body : State → Nat → RunCmd → Except Nat State) (s : State) : Outcome :=
  let c := s.run.cur
  let x := ctxAt s c
  let q := headCmd s c 0 i
  let e := (partsOf i).2.2
  .next <|
    if wordBad 0 e 0 useA useB then reject s c 0 q 0x01 0
    else match check x with
      | some cause => reject s c 0 q cause 0
      | none =>
        match (namedSet i).map (physSet x) with
        | some p =>
          if heldByEvicted s c p then turnBank (post s (.accumulatorSpill (coreOf c) p c)) c 0
          else if !mayStart s c || matrixWaits s c unit i || waits s c || !lockFree s (runOf s c q) then turnBank s c 0
          else if !ownersOk s c 0 e useA useB then reject s c 0 q 0x20 0
          else match body (claimSet s c p) c (runOf s c q) with
            | .ok t => t
            | .error cause => reject s c 0 q cause 0
        | none =>
          if !mayStart s c || matrixWaits s c unit i || waits s c || !lockFree s (runOf s c q) then turnBank s c 0
          else if !ownersOk s c 0 e useA useB then reject s c 0 q 0x20 0
          else match body s c (runOf s c q) with
            | .ok t => t
            | .error cause => reject s c 0 q cause 0

/-! ## Weight loads (R448) -/

def planeBytes (fmt : Nat) : Nat := if fmt = fmtDB8 then 2048 else if fmt = fmtDB4 then 4096 else 0

def loadCheck (e : EngineFields) : Option Nat :=
  let fmt := wbits e.wa 63 60
  if ! [1, 2, 3, 4, 5, 7, 8].contains fmt || wbits e.wa 27 0 != 0 then some 0x01
  else if planeBytes fmt = 0 ∧ gbn e ≠ 0 then some 0x01
  else if lenA e < wbits e.wa 59 44 * 64 + 16384 then some 0x20
  else if planeBytes fmt ≠ 0 ∧ lenB e < wbits e.wa 43 28 * 64 + planeBytes fmt then some 0x20
  else none

/-- R448: byte b of column c of an MWA tile: K row k lies at byte k × 128 × e. -/
def fromRows (fmt : Nat) (d : List Byte) : List Byte :=
  let v := d.toArray
  (List.range 16384).map fun j =>
    let c := j / 128
    let b := j % 128
    if fmtWidth fmt = 16 then v.getD (256 * (b / 2) + 2 * c + b % 2) 0
    else if fmtWidth fmt = 4 then
      let nib := fun k => (v.getD (64 * k + c / 2) 0).toNat / (if c % 2 = 0 then 1 else 16) % 16
      BitVec.ofNat 8 (nib (2 * b) + 16 * nib (2 * b + 1))
    else v.getD (128 * b + c) 0

def weightLoad (i : Instr) (e : EngineFields) (rows : Bool) (s : State) : Outcome :=
  let fmt := wbits e.wa 63 60
  matrixCmd i 0 true (planeBytes fmt != 0) (fun _ => loadCheck e)
    (fun s c =>
      let k := coreAt s (coreOf c)
      (placeTile k (bankOf c) { bank := bankOf c, cur := false, fmt, data := [], scales := [] }).isNone)
    (fun s c u =>
      let d := scratchBytes s c (baseA e + wbits e.wa 59 44 * 64) 16384
      let sc := scratchBytes s c (baseB e + wbits e.wa 43 28 * 64) (planeBytes fmt)
      let t : Tile := { bank := bankOf c, cur := false, fmt, data := if rows then fromRows fmt d else d, scales := sc }
      .ok (chargeCtx (modCore (startCmd s c 0 0 u) (coreOf c) fun k => { k with tiles := (placeTile k (bankOf c) t).getD k.tiles }) c 10
        (256 + planeBytes fmt / 64))) s

/-- MWL (R448). -/
def execMwl (e : EngineFields) (s : State) : Outcome := weightLoad (.mwl e) e false s
/-- MWA (R448). -/
def execMwa (e : EngineFields) (s : State) : Outcome := weightLoad (.mwa e) e true s

/-! ## The stream (R449) -/

def rowScales (fmt : Nat) : Nat := if fmt = fmtDB8 then 16 else if fmt = fmtDB4 then 32 else 0
def passWeight (fmt : Nat) : Nat := match fmt with | 1 | 2 => 4 | 3 | 4 => 5 | 5 => 6 | 7 => 7 | _ => 8

def mstCheck (s : State) (e : EngineFields) (x : Ctx) : Option Nat :=
  let fmt := wbits e.wa 63 60
  let row0 := wbits e.wa 57 51
  let nr := wbits e.wa 50 44
  let acc := wbits e.wa 59 58
  let k := coreAt s (coreOf s.run.cur)
  let b := bankOf s.run.cur
  if wbits e.wa 11 0 ≠ 0 ∨ 127 < row0 + nr ∨ x.accs.length ≤ acc then some 0x01
  else match newestTile k b with
    | none => some 0x01
    | some t =>
      if !pairs t.fmt fmt || (seenSet s s.run.cur (physSet x acc)).kindInt != (fmt == fmtI8) then some 0x01
      else if rowScales fmt = 0 ∧ gbn e ≠ 0 then some 0x01
      else if lenA e < wbits e.wa 43 28 * 64 + 128 * (nr + 1) then some 0x20
      else if rowScales fmt ≠ 0 ∧ lenB e < wbits e.wa 27 12 * 64 + rowScales fmt * (nr + 1) then some 0x20
      else none

def errAdd (x : BitVec 32) (n : Nat) : BitVec 32 := BitVec.ofNat 32 (min (x.toNat + n) (2 ^ 32 - 1))

/-- R270, R271, R273: mismatches counted for the core, the VNPU and the loop's interval at the target level in force. -/
def countMismatches (s : State) (c fid n prods : Nat) : State :=
  let k := clusterOf (coreOf c)
  let f := targetLevel s k
  if fid = 0 then modCluster s k fun p => { p with products := mput p.products f (mget p.products f 0 + prods) }
  else
    let s1 := modCore s (coreOf c) fun k => { k with errlo := errAdd k.errlo n }
    let s2 := modVnpu s1 (ctxAt s c).v fun x => { x with errlo := errAdd x.errlo n }
    modCluster s2 k fun p => { p with mism := mput p.mism f (mget p.mism f 0 + n), products := mput p.products f (mget p.products f 0 + prods) }

/-- The current tile of a bank (R447). -/
def curTile (k : Core) (b : Nat) : Option Tile := (ownTiles k b).find? (·.cur)

/-- Pass n of a stream (R449): row n of range A under tile t into its row of the set, and its mismatches. -/
def passOf (s : State) (c : Nat) (e : EngineFields) (t : Tile) (fid n : Nat) (a : AccSet) : AccSet × Nat :=
  let fmt := wbits e.wa 63 60
  let row := scratchBytes s c (baseA e + wbits e.wa 43 28 * 64 + 128 * n) 128
  let rs := scratchBytes s c (baseB e + wbits e.wa 27 12 * 64 + rowScales fmt * n) (rowScales fmt)
  let cols := (chunk 128 128 t.data).map (elemsOf t.fmt)
  let cs := (chunk (planeBytes t.fmt / 128) 128 t.scales).map scalePairs
  passRow t cols cs fmt fid (fun i => (freeAt s i).toNat) (wbits e.wa 57 51 + n) row rs a

/-- Pass n lands: the set with its flags (R265), the counts, the charge. -/
def streamRow (s : State) (c : Nat) (e : EngineFields) (t : Tile) (n : Nat) : State :=
  let x := ctxAt s c
  let p := physSet x (wbits e.wa 59 58)
  let y := passOf s c e t x.fid n (setAt s (coreOf c) p)
  let s1 := modSet s (coreOf c) p fun _ => y.1
  chargeCtx (countMismatches (if gBits t.fmt x.fid = 0 then s1 else useFree s1) c x.fid y.2 (kOf t.fmt * 128)) c (passWeight t.fmt) 1

/-- Rows of a row-wise command: NR + 1. -/
def rowCount (e : EngineFields) : Nat := wbits e.wa 50 44 + 1

/-- The next n rows of a command of unit `unit`, each done by `row`; `steps` counts them. -/
def rowsGo (unit rows : Nat) (row : State → Nat → State) : Nat → RunCmd → State → State
  | 0, u, s => putUnit s (coreOf u.ctx) unit u
  | n + 1, u, s =>
    if rows ≤ u.cmd.steps then putUnit s (coreOf u.ctx) unit u
    else rowsGo unit rows row n { u with cmd := { u.cmd with steps := u.cmd.steps + 1 } } (row s u.cmd.steps)

/-- The next rows of a started stream. -/
def streamGo (u : RunCmd) (e : EngineFields) (s : State) : State :=
  match curTile (coreAt s (coreOf u.ctx)) (bankOf u.ctx) with
  | some t => rowsGo 1 (rowCount e) (fun s n => streamRow s u.ctx e t n) (turnPieces s) u s
  | none => s

/-- MST (R449). -/
def execMst (e : EngineFields) (s : State) : Outcome :=
  let fmt := wbits e.wa 63 60
  matrixCmd (.mst e) 1 true (rowScales fmt != 0) (mstCheck s e)
    (fun s c => match unitOf s (coreOf c) 0 with | some u => u.ctx == c | none => false)
    (fun s c u => .ok (streamGo u e (modCore (startCmd s c 0 1 u) (coreOf c) fun k => swapTile k (bankOf c)))) s

/-! ## The epilogue (R275 to R277, R450) -/

def dstBytes (fmt : Nat) : Nat := fmtWidth fmt / 8

def mepRaw (e : EngineFields) : Bool := e.wa.getLsbD 43
def mepMem (e : EngineFields) : Bool := e.wa.getLsbD 41

/-- R450: checks 1 and 2. -/
def mepCheck (s : State) (e : EngineFields) (x : Ctx) : Option Nat :=
  let fmt := wbits e.wa 63 60
  let acc := wbits e.wa 59 58
  let isInt := (seenSet s s.run.cur (physSet x acc)).kindInt
  if 7 ≤ fmt ∨ wbits e.wa 8 0 ≠ 0 ∨ (mepRaw e ∧ !isInt ∧ (fmt = 5 ∨ fmt = 6)) ∨ 127 < wbits e.wa 57 51 + wbits e.wa 50 44 ∨ x.accs.length ≤ acc then some 0x01
  else if !mepMem e ∧ lenA e < wbits e.wa 40 25 * 64 + 128 * dstBytes fmt * rowCount e then some 0x20
  else if (!mepRaw e ∨ mepMem e) ∧ lenB e < wbits e.wa 24 9 * 64 + 1040 then some 0x20
  else none

/-- R275: one entry narrowed. -/
def narrowEntry (fmt : Nat) (raw relu isInt : Bool) (ovt : Word) (acc sc bias : Nat) : Lane × LFlags :=
  let rn := rneFull ovt
  let av := if isInt then intVal (BitVec.ofNat 32 acc).toInt else decodeF 0 acc
  if raw then convert fmt rn av
  else
    let x := if isInt then decodeF 0 (roundVal 0 rn av).1 else av
    let t := fmaF 0 rn x (decodeF 0 sc) (decodeF 0 bias)
    let tv := decodeF 0 t.1
    let zero := relu && !isNan tv && fSign tv
    let y := convert fmt rn (if zero then .fin false 0 0 else tv)
    (y.1, t.2 ||| y.2)

/-- R275: row r of a set, narrowed: its bytes and the flags. -/
def narrowRow (fmt : Nat) (raw relu : Bool) (ovt : Word) (a : AccSet) (r : Nat) (block : List Byte) : List Byte × LFlags :=
  (List.range 128).foldl (fun (m : List Byte × LFlags) c =>
    let y := narrowEntry fmt raw relu a.kindInt ovt (mget a.ent (128 * r + c) 0).toNat (fieldAt block (4 * c) 4) (fieldAt block (512 + 4 * c) 4)
    (m.1 ++ natLe (dstBytes fmt) y.1.toNat, m.2 ||| y.2)) ([], 0)

/-- R450: the parameter block's fields. -/
def daddr (block : List Byte) : Nat := fieldAt block 1024 8
def dstr (block : List Byte) : Nat := fieldAt block 1032 4

/-- R276, R450: row n of an epilogue is read into the output buffer, and its flags into ACST. -/
def readRow (s : State) (u : RunCmd) (e : EngineFields) (n : Nat) : State × EpiRow :=
  let x := ctxAt s u.ctx
  let fmt := wbits e.wa 63 60
  let p := physSet x (wbits e.wa 59 58)
  let y := narrowRow fmt (mepRaw e) (e.wa.getLsbD 42) x.ovt (setAt s (coreOf u.ctx) p) (wbits e.wa 57 51 + n) u.cmd.walk
  let at' := if mepMem e then (daddr u.cmd.walk + n * dstr u.cmd.walk) % 2 ^ 64 else baseA e + wbits e.wa 40 25 * 64 + 128 * dstBytes fmt * n
  (chargeCtx (modSet s (coreOf u.ctx) p fun b => orAcst b y.2) u.ctx 9 1, { addr := at', mem := mepMem e, data := y.1 })

/-- One output row is stored: in the allotment, or line by line in device memory. -/
def storeRow (s : State) (c : Nat) (vc : SMap Nat) (r : EpiRow) : EngRes State :=
  if r.mem then devWrite c vc (((chunk 64 (r.data.length / 64) r.data)).zipIdx.map fun e => ((r.addr + 64 * e.2) % 2 ^ 64, e.1)) s
  else .ok (putScratch s c r.addr r.data)

/-- The rows an epilogue has read: those stored, and those in the buffer. -/
def rowsRead (u : RunCmd) : Nat := u.cmd.steps + u.rows.length

/-- R276: up to n rows of an epilogue are read, while the output buffer has room. -/
def readAhead (e : EngineFields) : Nat → RunCmd → State → RunCmd × State
  | 0, u, s => (u, s)
  | n + 1, u, s =>
    if rowsRead u < rowCount e ∧ u.rows.length < 64 then
      let r := readRow s u e (rowsRead u)
      readAhead e n { u with rows := u.rows ++ [r.2] } r.1
    else (u, s)

/-- R276: an epilogue reads on, whatever its stores do. -/
def epilogueReads (e : EngineFields) (u : RunCmd) (s : State) : State :=
  let r := readAhead e (min 64 (turnPieces s)) u s
  putUnit r.2 (coreOf u.ctx) 2 r.1

/-- R276: the next n rows of an epilogue: with each, rows are read while the buffer has room, and the oldest in it is stored; `steps` counts the stored ones. How far the reads
run ahead of the stores goes by the turn's pace (log 57). -/
def epilogueGo (e : EngineFields) : Nat → RunCmd → State → State
  | 0, u, s => putUnit s (coreOf u.ctx) 2 u
  | n + 1, u, s =>
    let r := readAhead e (min 64 (turnPieces s)) u s
    match r.1.rows with
    | [] => putUnit r.2 (coreOf u.ctx) 2 r.1
    | w :: rest =>
      match storeRow r.2 u.ctx u.cmd.vc w with
      | .ok s2 => if s2.run.stuck then s2 else epilogueGo e n { r.1 with rows := rest, cmd := { r.1.cmd with steps := r.1.cmd.steps + 1 } } s2
      | .error err => pieceStops r.2 u.ctx 2 r.1 err

/-- MEP (R450): the parameter block is read as the command starts. -/
def execMep (e : EngineFields) (s : State) : Outcome :=
  matrixCmd (.mep e) 2 (!mepMem e) (!mepRaw e || mepMem e) (mepCheck s e) (fun _ _ => false)
    (fun s c u =>
      let block := if !mepRaw e || mepMem e then scratchBytes s c (baseB e + wbits e.wa 24 9 * 64) 1040 else []
      if mepMem e && (decide (daddr block % 64 ≠ 0) || decide (dstr block % 64 ≠ 0) || decide (fieldAt block 1036 4 ≠ 0)) then .error 0x01
      else .ok (epilogueGo e (turnPieces s) { u with cmd := { u.cmd with walk := block } } (inUnit (startCmd s c 0 2 u) 2))) s

/-! ## The accumulator port (R451) -/

def maclCheck (e : EngineFields) (x : Ctx) : Option Nat :=
  if wbits e.wa 63 60 ≠ 0 ∨ wbits e.wa 56 0 ≠ 0 ∨ x.accs.length ≤ wbits e.wa 59 58 then some 0x01 else none

/-- MACL (R265, R451). -/
def execMacl (e : EngineFields) (s : State) : Outcome :=
  matrixCmd (.macl e) 3 false false (maclCheck e) (fun _ _ => false)
    (fun s c u =>
      let p := physSet (ctxAt s c) (wbits e.wa 59 58)
      .ok (chargeCtx (modSet (startCmd s c 0 3 u) (coreOf c) p fun a =>
        { a with ent := [], kindInt := e.wa.getLsbD 57, sat := false, nv := false, ovf := false }) c 9 128)) s

def portCheck (e : EngineFields) (x : Ctx) : Option Nat :=
  if wbits e.wa 63 60 ≠ 0 ∨ wbits e.wa 27 0 ≠ 0 ∨ 127 < wbits e.wa 57 51 + wbits e.wa 50 44 ∨ x.accs.length ≤ wbits e.wa 59 58 then some 0x01
  else if lenA e < wbits e.wa 43 28 * 64 + 512 * rowCount e then some 0x20 else none

def rowBytes (a : AccSet) (r : Nat) : List Byte := (List.range 128).flatMap fun c => natLe 4 (mget a.ent (128 * r + c) 0).toNat

def loadRow (a : AccSet) (r : Nat) (b : List Byte) : AccSet :=
  ((chunk 4 128 b).zipIdx).foldl (fun m e => { m with ent := mput m.ent (128 * r + e.2) (BitVec.ofNat 32 (leNat e.1)) }) a

/-- MASV's row n. -/
def saveRow (e : EngineFields) (c : Nat) (s : State) (n : Nat) : State :=
  let a := setAt s (coreOf c) (physSet (ctxAt s c) (wbits e.wa 59 58))
  chargeCtx (putScratch s c (baseA e + wbits e.wa 43 28 * 64 + 512 * n) (rowBytes a (wbits e.wa 57 51 + n))) c 9 1

/-- MARS's row n. -/
def restoreRow (e : EngineFields) (c : Nat) (s : State) (n : Nat) : State :=
  let b := scratchBytes s c (baseA e + wbits e.wa 43 28 * 64 + 512 * n) 512
  chargeCtx (modSet s (coreOf c) (physSet (ctxAt s c) (wbits e.wa 59 58)) fun a => loadRow a (wbits e.wa 57 51 + n) b) c 9 1

/-- The next rows of a command of the accumulator port. -/
def portGo (u : RunCmd) (s : State) : State :=
  match u.cmd.cmd with
  | .masv e => rowsGo 3 (rowCount e) (saveRow e u.ctx) (turnPieces s) u s
  | .mars e => rowsGo 3 (rowCount e) (restoreRow e u.ctx) (turnPieces s) u s
  | _ => s

/-- MASV (R451). -/
def execMasv (e : EngineFields) (s : State) : Outcome :=
  matrixCmd (.masv e) 3 true false (portCheck e) (fun _ _ => false) (fun s c u => .ok (portGo u (startCmd s c 0 3 u))) s

/-- MARS (R451). -/
def execMars (e : EngineFields) (s : State) : Outcome :=
  matrixCmd (.mars e) 3 true false (portCheck e) (fun _ _ => false) (fun s c u => .ok (portGo u (startCmd s c 0 3 u))) s

/-- A started command of a matrix unit has nothing left to do (R444). -/
def matrixDone (u : RunCmd) : Bool :=
  match u.cmd.cmd with
  | .mst e | .masv e | .mars e => decide (rowCount e ≤ u.cmd.steps)
  | .mep e => u.released && decide (rowCount e ≤ u.cmd.steps)
  | _ => true

/-! ## Release and spills -/

/-- R276: the epilogue has read its last row and holds its set no longer. -/
def releaseDue (s : State) (core : Nat) : Bool :=
  match unitOf s core 2 with
  | some u => !u.released && match u.cmd.cmd with | .mep e => decide (rowCount e ≤ rowsRead u) | _ => false
  | none => false

/-- EPILOGUE_RELEASE (R276). -/
def execEpilogueRelease (core : Nat) (s : State) : Outcome :=
  .next (match unitOf s core 2 with
    | some u => if releaseDue s core then modCore s core fun k => { k with units := mput k.units 2 { u with released := true } } else s
    | none => s)

/-- The save area of an evicted team. -/
def saveOf (s : State) (o : AccOwner) : Option (Nat × Saved) :=
  s.saves.find? fun e => e.2.ctx.v == o.v && e.2.ctx.launch == o.launch && e.2.ctx.team == o.team

/-- R278, R279: physical set p of a core goes to its evicted owner's save area; with the owner's VNPU in reset it is only given up (R280). -/
def spillSet (s : State) (core p : Nat) : State :=
  let a := setAt s core p
  match a.owner with
  | some o =>
    let s1 := match (if (vnpuAt s o.v).resetting then none else saveOf s o) with
      | some (n, sv) =>
        { s with saves := mput s.saves n { sv with sets := mput sv.sets (sv.ctx.accs.findIdx (· == p)) { a with owner := none } }, overhead := s.overhead + weight s 10 * 1024 }
      | none => s
    modSet s1 core p fun _ => { freshSet with lastV := o.v }
  | none => s

/-- ACCUMULATOR_SPILL (R278): the set is spilled, zeroed and given to the team that names it. -/
def execAccumulatorSpill (core set ctx : Nat) (s : State) : Outcome :=
  .next (if heldByEvicted s ctx set && coreOf ctx == core then claimSet (spillSet s core set) ctx set else s)

end Sys2Proof.Machine
end

