-- ==== Sys2Proof/Machine/Collective.lean ====
section
/-!
DEFINITION. Collective commands (R52, R53, R232, R460 to R463) and the completion of engine commands (R444).
-/
namespace Sys2Proof.Machine

/-! ## Word A (R460) -/

def clFmt (e : EngineFields) : Nat := wbits e.wa 63 60
def clOp (e : EngineFields) : Nat := wbits e.wa 59 58
def clRootM (e : EngineFields) : Nat := wbits e.wa 57 56
def clCid (e : EngineFields) : Nat := wbits e.wa 55 44
def clBytes (e : EngineFields) : Nat := wbits e.wa 43 29 * 64
def clRoot (e : EngineFields) : Nat := wbits e.wa 23 0
def clRing (e : EngineFields) : Bool := e.flags.getLsbD 0

/-- R461: the number of modules that take part. -/
def clModules (s : State) (e : EngineFields) : Nat := if clRing e && ringAdmitted s then ringN s else 1
def clModule (s : State) (e : EngineFields) : Nat := if clRing e && ringAdmitted s then modId s else 0

def isReduce (op : Nat) : Bool := op == 0x21 || op == 0x23

/-- A CLBC participant other than the root reads no input. -/
def clReads (s : State) (x : Ctx) (op : Nat) (e : EngineFields) : Bool :=
  op != 0x24 || (clRoot e == x.team && clRootM e == clModule s e)

/-- R462: bytes of a participant's output. -/
def clOutput (op : Nat) (bytes parts : Nat) : Nat :=
  match op with
  | 0x21 => bytes / parts
  | 0x22 => bytes * parts
  | _ => bytes

/-- R460: word A's own rules. -/
def clWordBad (op : Nat) (e : EngineFields) : Bool :=
  wbits e.wa 28 24 != 0 || decide (wbits e.wa 43 29 < 1 ∨ 16384 < wbits e.wa 43 29) ||
    (if isReduce op then ! [0, 1, 2, 6].contains (clFmt e) || clOp e == 3 else decide (6 < clFmt e) || clOp e != 0) ||
    (op != 0x24 && (clRootM e != 0 || clRoot e != 0))

/-- R461, R462: the checks of a collective as it is taken. -/
def clCheck (s : State) (x : Ctx) (op : Nat) (e : EngineFields) : Option Nat :=
  let m := clModules s e
  let n := x.nteams * m
  let els := clBytes e / (fmtWidth (clFmt e) / 8)
  if wordBad 2 e 1 true (clReads s x op e || gbn e != 0) || clWordBad op e || !x.linked then some 0x01
  else if op = 0x21 ∧ (n = 0 ∨ els % n ≠ 0) then some 0x01
  else if op = 0x24 ∧ (x.nteams ≤ clRoot e ∨ m ≤ clRootM e) then some 0x01
  else if lenA e < clOutput op (clBytes e) n then some 0x20
  else if clReads s x op e ∧ lenB e < clBytes e then some 0x20
  else none

/-- R461: a team's next instance of a CID. -/
def cidKey (team cid : Nat) : Nat := team * 4096 + cid
def instanceOf (s : State) (l team cid : Nat) : Nat :=
  match launchAt s l with
  | some x => mget x.cids (cidKey team cid) 0
  | none => 0

def countInstance (s : State) (l team cid : Nat) : State :=
  modLaunch s l fun x => { x with cids := mput x.cids (cidKey team cid) (mget x.cids (cidKey team cid) 0 + 1) }

/-- The taken commands of an instance. -/
def instanceParts (s : State) (l cid n : Nat) : List ColWait :=
  s.collectives.filter fun w => w.launch == l && w.cid == cid && w.inst == n && !w.done

def dropInstance (s : State) (h : ColWait) : State :=
  { s with collectives := s.collectives.filter fun w => !(w.launch == h.launch && w.cid == h.cid && w.inst == h.inst && !w.done) }

/-- Every team of the launch has been taken. -/
def instanceFull (s : State) (l cid n : Nat) : Bool :=
  match launchAt s l with
  | some x => (List.range x.nteams).all fun t => (instanceParts s l cid n).any fun w => w.team == t
  | none => false

/-! ## Reduction (R52, R232, R462) -/

def elementsOf (fmt : Nat) (b : List Byte) : List Nat := (chunk (fmtWidth fmt / 8) (b.length / (fmtWidth fmt / 8)) b).map leNat

/-- R462: one reduction of two elements. -/
def reduceTwo (fmt op x y : Nat) : Nat :=
  if fmt = fmtI32 then
    let a : Lane := BitVec.ofNat 32 x
    let b : Lane := BitVec.ofNat 32 y
    (match op with | 0 => a + b | 1 => if a.sle b then a else b | _ => if b.sle a then a else b).toNat
  else match op with
    | 0 => (addF fmt rneInf (decodeF fmt x) (decodeF fmt y)).1
    | 1 => minmaxF fmt true false x y
    | _ => minmaxF fmt true true x y

/-- R232: one level of the pairwise tree over a list of inputs. -/
def treeLevel (fmt op : Nat) : List (List Nat) → List (List Nat)
  | x :: y :: r => x.zipWith (reduceTwo fmt op) y :: treeLevel fmt op r
  | l => l

def treeReduce (fmt op : Nat) : Nat → List (List Nat) → List Nat
  | 0, l => l.headD []
  | n + 1, l => treeReduce fmt op n (treeLevel fmt op l)

/-- R52: the ring's order for shard k over the modules' first-level values. -/
def ringReduce (fmt op m k : Nat) (xs : List Nat) : Nat :=
  ((List.range m).drop 1).foldl (fun a i => reduceTwo fmt op a (xs.getD ((k + 1 + i) % m) 0)) (xs.getD ((k + 1) % m) 0)

/-- R52: the shard of element j of E over M modules, and the elements of a shard (DESIGN CHOICE where M does not divide E, log 27). -/
def shardOf (els m j : Nat) : Nat := j * m / els
def shardElems (m k : Nat) (l : List Nat) : List Nat := (l.zipIdx.filter fun e => shardOf l.length m e.2 == k).map (·.1)

/-- The reduced elements of all inputs, by module and team. -/
def reduceAll (fmt op m t els : Nat) (inputs : List (List Byte)) : List Nat :=
  let mods := (List.range m).map fun i => treeReduce fmt op t (((inputs.drop (i * t)).take t).map (elementsOf fmt))
  if m = 1 then mods.headD []
  else (List.range els).map fun j => ringReduce fmt op m (shardOf els m j) (mods.map fun l => l.getD j 0)

def bytesOfElems (fmt : Nat) (l : List Nat) : List Byte := l.flatMap (natLe (fmtWidth fmt / 8))

/-- R462: participant p's output. `inputs` lists every participant's input, in order of participant index. -/
def outputOf (op : Nat) (e : EngineFields) (m t p : Nat) (inputs : List (List Byte)) : List Byte :=
  let fmt := clFmt e
  let els := clBytes e / (fmtWidth fmt / 8)
  match op with
  | 0x21 =>
    let n := els / (t * m)
    bytesOfElems fmt (((reduceAll fmt (clOp e) m t els inputs).drop (p * n)).take n)
  | 0x22 => inputs.flatMap id
  | 0x23 => bytesOfElems fmt (reduceAll fmt (clOp e) m t els inputs)
  | _ => inputs.getD (clRootM e * t + clRoot e) []

/-! ## Shards (R52) -/

/-- The first-level value of this module's teams. -/
def firstLevel (e : EngineFields) (t : Nat) (ws : List ColWait) : List Nat :=
  treeReduce (clFmt e) (clOp e) t ((List.range t).map fun i => match ws.find? fun w => w.team == i with | some w => elementsOf (clFmt e) w.data | none => [])

/-- Shards leave, each once on a port: with a port down those for it take the other way (R43). -/
def sendShards (s : State) (l : List ShardMsg) : State :=
  { s with out := { s.out with shards := s.out.shards ++ (l.map fun m => { m with port := otherWay s m.port }).eraseDups } }

/-- R52: what leaves this module once all its commands of an instance over m modules are taken: a reduction's first-level shards of the other modules, a gather's
inputs, by port 0; a root's broadcast by both ports. -/
def shardsOf (h : ColWait) (e : EngineFields) (m own t : Nat) (ws : List ColWait) : List ShardMsg :=
  let msg := fun (port k : Nat) (d : List Byte) => ({ port, launch := h.launch, cid := h.cid, inst := h.inst, team := k, data := d } : ShardMsg)
  if isReduce h.code then
    let x := firstLevel e t ws
    ((List.range m).filter (· != own)).map fun k => msg 0 k (bytesOfElems (clFmt e) (shardElems m k x))
  else if h.code = 0x22 then ws.map fun w => msg 0 w.team w.data
  else ((ws.filter fun w => !w.data.isEmpty).flatMap fun w => [msg 0 w.team w.data, msg 1 w.team w.data])

/-- All commands of an instance on this module are taken: with no other module it runs; else its shards leave, unless no port is up (R53). -/
def instanceTaken (s : State) (w : ColWait) (e : EngineFields) (t : Nat) : State :=
  let m := clModules s e
  if m = 1 then post s (.collectiveInstanceMatch w.launch w.cid)
  else if unreachable s then postArg s (.collectiveInstanceMatch w.launch w.cid) { noArg with flag := true, n := (modId s + 1) % m }
  else sendShards s (shardsOf w e m (clModule s e) t (instanceParts s w.launch w.cid w.inst))

/-- R461: once every participant's command of an instance has been taken, they are compared; one that was rejected as it was taken is among them (log 83). -/
def instanceMet (s : State) (w : ColWait) (e : EngineFields) (t : Nat) : State :=
  let ws := instanceParts s w.launch w.cid w.inst
  if !instanceFull s w.launch w.cid w.inst then s
  else if ws.all (·.bad) then dropInstance s w
  else if ws.any (·.bad) then post s (.collectiveInstanceMatch w.launch w.cid)
  else instanceTaken s w e t

/-- R356, R461: a collective is rejected as it is taken; it counts as its team's command of the instance. -/
def rejectCollective (s : State) (c : Nat) (q : QCmd) (e : EngineFields) (op cause : Nat) : State :=
  let x := ctxAt s c
  let w : ColWait := { launch := x.launch, cid := clCid e, inst := instanceOf s x.launch x.team (clCid e), team := x.team, ctx := 999, cmd := q, code := op, data := [],
                       done := false, bad := true }
  let s1 := reject (countInstance s x.launch x.team (clCid e)) c 2 q cause 0
  if x.linked then instanceMet { s1 with collectives := s1.collectives ++ [w] } w e x.nteams else s1

/-- The common course of a collective (R444, R461, R463): taken, checked, its input read; it then waits for its instance. -/
def collectiveCmd (i : Instr) (e : EngineFields) (op : Nat) (s : State) : Outcome :=
  let c := s.run.cur
  let x := ctxAt s c
  let q := headCmd s c 2 i
  let reads := clReads s x op e
  .next <|
    match clCheck s x op e with
    | some cause => rejectCollective s c q e op cause
    | none =>
      if !mayStart s c || (s.collectives.any fun w => w.ctx == c) || !lockFree s (runOf s c q) then turnBank s c 2
      else if !ownersOk s c 2 e true true then rejectCollective s c q e op 0x20
      else
        let n := instanceOf s x.launch x.team (clCid e)
        let data := if reads then scratchBytes s c (baseB e) (clBytes e) else []
        let w : ColWait := { launch := x.launch, cid := clCid e, inst := n, team := x.team, ctx := c, cmd := q, code := op, data, done := false, bad := false }
        let s1 := countInstance (modCtx s c fun y => dropHead y 2 i) x.launch x.team (clCid e)
        let s2 := turnBank { s1 with collectives := s1.collectives ++ [w] } c 2
        instanceMet (chargeCtx s2 c 10 (data.length / 64)) w e x.nteams

/-- CLRS (R462): reduce-scatter. -/
def execClrs (e : EngineFields) (s : State) : Outcome := collectiveCmd (.clrs e) e 0x21 s
/-- CLAG (R462): all-gather. -/
def execClag (e : EngineFields) (s : State) : Outcome := collectiveCmd (.clag e) e 0x22 s
/-- CLAR (R462): all-reduce. -/
def execClar (e : EngineFields) (s : State) : Outcome := collectiveCmd (.clar e) e 0x23 s
/-- CLBC (R462): broadcast. -/
def execClbc (e : EngineFields) (s : State) : Outcome := collectiveCmd (.clbc e) e 0x24 s

/-- R52: the shard of an all-reduce that ends on module `own`, which the all-gather then passes round the ring. -/
def ownShard (e : EngineFields) (m t own : Nat) (inputs : List (List Byte)) : List Byte :=
  let els := clBytes e / (fmtWidth (clFmt e) / 8)
  bytesOfElems (clFmt e) (shardElems m own (reduceAll (clFmt e) (clOp e) m t els inputs))

/-- R461: two commands of an instance agree. -/
def clAgree (a b : ColWait) : Bool :=
  a.code == b.code && (partsOf a.cmd.cmd).2.2.wa == (partsOf b.cmd.cmd).2.2.wa && (partsOf a.cmd.cmd).2.2.flags == (partsOf b.cmd.cmd).2.2.flags

def setDone (s : State) (ctx : Nat) : State :=
  { s with collectives := s.collectives.map fun w => if w.ctx == ctx then { w with done := true } else w }
def dropCollective (s : State) (ctx : Nat) : State := { s with collectives := s.collectives.filter fun w => w.ctx != ctx }

/-- Input p of an instance over M modules: this module's teams from their commands, the others' from what their modules sent. -/
def instanceInputs (ws : List ColWait) (m t own bytes : Nat) (far : List Byte) : List (List Byte) :=
  (List.range (m * t)).map fun p =>
    if p / t = own then match ws.find? fun w => w.team == p % t with | some w => w.data | none => []
    else
      let q := if own < p / t then p - t else p
      (far.drop (q * bytes)).take bytes

/-- COLLECTIVE_INSTANCE_MATCH (R52, R53, R461, R462). Over several modules the event carries the other modules' inputs in `data`, in
order of participant index; `flag` says that module `n` is unreachable, `flag2` that its commands differ. The record of R53 names the module in ADDR, with
CAUSE 0x25 (log 61). -/
def execCollectiveInstanceMatch (launch cid : Nat) (s : State) : Outcome :=
  let a := s.run.arg
  .next <|
    match s.collectives.find? fun w => w.launch == launch && w.cid == cid && !w.done && instanceFull s launch cid w.inst with
    | none => s
    | some h =>
      let ws := instanceParts s launch cid h.inst
      let e := (partsOf h.cmd.cmd).2.2
      let live := ws.filter (!·.bad)
      if a.flag then live.foldl (fun m w => engineRecord m w.ctx w.cmd 0x25 (BitVec.ofNat 64 a.n)) (dropInstance s h)
      else if a.flag2 || ws.any fun w => !clAgree h w then live.foldl (fun m w => rejected m w.ctx w.cmd 0x01 0) (dropInstance s h)
      else if ws.any (·.bad) then s
      else
        let t := match launchAt s launch with | some x => x.nteams | none => 0
        let m := clModules s e
        let own := clModule s e
        let inputs := instanceInputs ws m t own (clBytes e) a.data
        let s1 := if h.code = 0x23 ∧ m ≠ 1 then sendShards s [{ port := 0, launch, cid, inst := h.inst, team := own, data := ownShard e m t own inputs }] else s
        ws.foldl (fun st w =>
          let we := (partsOf w.cmd.cmd).2.2
          let out := outputOf h.code e m t (own * t + w.team) inputs
          chargeCtx (setDone (putScratch st w.ctx (baseA we) out) w.ctx) w.ctx 10 ((out.length + 63) / 64)) s1

/-! ## Completion -/

/-- R163 step 3: VNPU v has started matrix, copy or collective commands. -/
def anyStarted (s : State) (v : Nat) : Bool :=
  (s.cores.any fun e => e.2.units.any fun u => u.2.v == v) || s.collectives.any fun w => !w.bad && (ctxAt s w.ctx).v == v

/-- R163 step 4: with the last started command over, the overrun is due. -/
def settleQuota (s : State) (v : Nat) : State :=
  let x := vnpuAt s v
  if x.exhausted && !x.overrun && !anyStarted s v then post s (.quotaExhausted v) else s

/-- A started command has nothing left to do, or its peer is gone (R458). -/
def commandDone (s : State) (unit : Nat) (u : RunCmd) : Bool :=
  u.paused.isNone && (if unit = 4 then copyDone s u || peerGone s u else matrixDone u)

def dropUnit (s : State) (core unit : Nat) : State := modCore s core fun k => { k with units := mdel k.units unit }

/-- ENGINE_COMMAND_COMPLETE (R444, R458): unit 5 is the collective engine. -/
def execEngineCommandComplete (core unit : Nat) (s : State) : Outcome :=
  .next <|
    if unit = 5 then
      match s.collectives.find? fun w => w.done && coreOf w.ctx == core with
      | some w => settleQuota (complete (dropCollective s w.ctx) w.ctx w.ctx w.ctx (partsOf w.cmd.cmd).2.2 2) (ctxAt s w.ctx).v
      | none => s
    else
      match unitOf s core unit with
      | none => s
      | some u =>
        if !commandDone s unit u then s
        else if unit = 4 ∧ !copyDone s u then settleQuota (settleTrap (rejected (dropUnit s core unit) u.ctx u.cmd 0x20 0) u) u.v
        else
          let p := partsOf u.cmd.cmd
          let peer := (peerOf s u).getD 300
          settleQuota (settleTrap (complete (dropUnit s core unit) u.ctx (if p.2.1 = 0x14 then peer else u.ctx) (if p.2.1 = 0x16 then peer else u.ctx) p.2.2 p.1) u) u.v

end Sys2Proof.Machine
end

