-- ==== Sys2Proof/Machine/StateTable.lean ====
section
/-!
DEFINITION. The state table that one firmware complex hands to the other: its records, what an importer accepts and what it takes from them (R15, R73 to R75).
The layout of the records' bodies is the model's own (log 63).
-/
namespace Sys2Proof.Machine

/-! ## Words -/

def wordOf (n : Nat) : Word := BitVec.ofNat 64 n
def flagWord (b : Bool) : Word := if b then 1 else 0

/-- A list of pairs: its length, then the pairs. -/
def pairWords (l : List (Nat × Nat)) : List Word := wordOf l.length :: l.flatMap fun e => [wordOf e.1, wordOf e.2]

def pairUp : List Word → List (Nat × Nat)
  | a :: b :: l => (a.toNat, b.toNat) :: pairUp l
  | _ => []

/-- The pairs at the head of a body, and what follows them. -/
def readPairs (l : List Word) : List (Nat × Nat) × List Word :=
  let n := 2 * (l.headD 0).toNat
  (pairUp ((l.drop 1).take n), (l.drop 1).drop n)

def isSet (l : List Word) (n : Nat) : Bool := (l.getD n 0).getLsbD 0

/-! ## Records (R73) -/

/-- A record: TYPE, VER 1, LEN in bytes with the header, and its body. -/
def tableRecord (ty : Nat) (body : List Word) : List Word := wordOf (ty + 2 ^ 16 + 2 ^ 32 * (8 * (body.length + 1))) :: body

def contractWords : Option Contract → List Word
  | some c => wordOf c.emax :: bytesToWords 8 c.bytes
  | none => List.replicate 9 0

/-- Record 0x0001: the VNPU, whether a contract is in force, is staged, whether its removal is; the two contracts; the VNPU's state. -/
def contractRecord (s : State) (v : Nat) : List Word :=
  let x := vnpuAt s v
  let staged := mfind s.contracts.staged v
  tableRecord 0x0001 ([wordOf v, flagWord (mfind s.contracts.inForce v).isSome, flagWord staged.isSome, flagWord (staged = some none)] ++
    contractWords (mfind s.contracts.inForce v) ++ contractWords (staged.getD none) ++ [wordOf x.epoch, flagWord x.resetting, wordOf x.eused])

def windowWords (w : Window) : List Word :=
  [wordOf (w.start + 2 ^ 32 * w.len), wordOf (w.cores.toNat % 2 ^ 64),
   wordOf (w.cores.toNat / 2 ^ 64 + 2 ^ 32 * w.owner + (if w.shared then 2 ^ 40 else 0) + if w.valid then 2 ^ 41 else 0)]

/-- Record 0x0002: the frame table in force, the staged one, and when the last was accepted. -/
def frameRecord (f : Frame) : List Word :=
  tableRecord 0x0002 ([wordOf f.len, wordOf f.view.length] ++ f.view.flatMap windowWords ++ [wordOf f.lastDone, flagWord f.staged.isSome] ++
    match f.staged with | some t => wordOf t.1 :: wordOf t.2.length :: t.2.flatMap windowWords | none => [])

def ringRecord (v r : Nat) (x : Ring) : List Word := tableRecord 0x0003 [wordOf v, wordOf r, wordOf (x.head.toNat + 2 ^ 32 * x.tail.toNat)]

def placeWords (e : Nat × CorePlace) : List Word :=
  [wordOf e.1, wordOf e.2.site, flagWord e.2.absent] ++ pairWords (e.2.withheld.map fun g => (g, 0))

/-- Record 0x0006: the spare maps and the SVCREQ counts. -/
def serviceRecord (v : Service) : List Word :=
  tableRecord 0x0006 ([wordOf v.cores, wordOf v.slices, wordOf v.lanes, wordOf v.granules, wordOf v.cplx, flagWord v.kaleFailed, flagWord v.chardFailed] ++
    pairWords v.spareUsed ++ pairWords v.sliceMap ++ pairWords (v.repairSpent.map fun n => (n, 0)) ++ pairWords v.spareFrames ++ pairWords v.requests ++
    [wordOf v.places.length] ++ v.places.flatMap placeWords)

/-- The state table of now. -/
def stateTable (s : State) : List Word :=
  ((List.range 17).filter fun v => (mfind s.contracts.inForce v).isSome || (mfind s.contracts.staged v).isSome).flatMap (contractRecord s) ++
    frameRecord s.frame ++ (s.vnpus.flatMap fun e => e.2.rings.flatMap fun r => ringRecord e.1 r.1 r.2) ++
    (s.saves.flatMap fun e => tableRecord 0x0004 [wordOf e.1, e.2.ctx.ecnt]) ++
    tableRecord 0x0005 (pairWords s.mgmt.transient ++ pairWords s.mgmt.lasting ++ pairWords (s.mgmt.transientAt.flatMap fun e => e.2.map fun t => (e.1, t))) ++ serviceRecord (serviceOf s) ++ tableRecord 0xFFFF []

/-- R75: the active complex brings the standby's copy up to date. -/
def mirrorTable (s : State) : State := if s.fw.standby then modFw s fun f => { f with mirror := stateTable s } else s

/-! ## The importer (R74) -/

/-- The records of a table up to 0xFFFF, with their bodies; none where the import fails: a LEN that is wrong, a record past the end, no 0xFFFF. -/
def parseTable : Nat → List Word → Option (List (Nat × List Word))
  | 0, _ => none
  | _, [] => none
  | fuel + 1, h :: rest =>
    let len := wbits h 63 32
    if len < 8 ∨ len % 8 ≠ 0 ∨ 8 * (rest.length + 1) < len then none
    else if wbits h 15 0 = 0xFFFF then some []
    else (parseTable fuel (rest.drop (len / 8 - 1))).map fun l => (wbits h 15 0, rest.take (len / 8 - 1)) :: l

/-- A table without its records of some TYPEs. -/
def withoutTypes (missing : List Nat) (l : List Word) : List Word :=
  if missing.isEmpty then l
  else (((parseTable (l.length + 1) l).getD []).filter fun e => !missing.contains e.1).flatMap (fun e => tableRecord e.1 e.2) ++ tableRecord 0xFFFF []

def importOk (l : List Word) : Bool := (parseTable (l.length + 1) l).isSome

/-- The bodies of the records of a TYPE. -/
def bodiesOf (rs : List (Nat × List Word)) (ty : Nat) : List (List Word) := (rs.filter fun e => e.1 == ty).map (·.2)

def readContract (l : List Word) : Contract := { emax := (l.headD 0).toNat, bytes := wordsToBytes ((l.drop 1).take 8) }

/-- The contracts of records 0x0001; a VNPU without one has none. -/
def importContracts (bs : List (List Word)) (c : Contracts) : Contracts :=
  { c with
    inForce := bs.foldl (fun m b => if isSet b 1 then mput m (b.headD 0).toNat (readContract (b.drop 4)) else m) []
    staged := bs.foldl (fun m b => if isSet b 2 then mput m (b.headD 0).toNat (if isSet b 3 then none else some (readContract (b.drop 13))) else m) [] }

def readWindow (l : List Word) : Window :=
  let a := l.getD 0 0
  let c := l.getD 2 0
  { start := wbits a 31 0, len := wbits a 63 32, cores := BitVec.ofNat 96 ((l.getD 1 0).toNat + 2 ^ 64 * wbits c 31 0), owner := wbits c 39 32,
    shared := c.getLsbD 40, valid := c.getLsbD 41 }

def readWindows : Nat → List Word → List Window
  | 0, _ => []
  | n + 1, l => readWindow l :: readWindows n (l.drop 3)

/-- The frame table of record 0x0002; without one, one window of the whole frame for VNPU 0. -/
def importFrame (bs : List (List Word)) (f : Frame) : Frame :=
  match bs with
  | b :: _ =>
    let n := (b.getD 1 0).toNat
    let r := b.drop (2 + 3 * n)
    { f with len := (b.headD 0).toNat, view := readWindows n (b.drop 2), lastDone := (r.headD 0).toNat,
             staged := if isSet r 1 then some ((r.getD 2 0).toNat, readWindows (r.getD 3 0).toNat (r.drop 4)) else none }
  | [] => { f with view := [{ defaultWindow with len := f.len * 1000 }], staged := none }

def readPlaces : Nat → List Word → SMap CorePlace
  | 0, _ => []
  | n + 1, l =>
    let p := readPairs (l.drop 3)
    mput (readPlaces n p.2) (l.headD 0).toNat { site := (l.getD 1 0).toNat, absent := isSet l 2, withheld := p.1.map (·.1) }

def readService (l : List Word) : Service :=
  let n := fun i => (l.getD i 0).toNat
  let used := readPairs (l.drop 7)
  let slices := readPairs used.2
  let spent := readPairs slices.2
  let frames := readPairs spent.2
  let requests := readPairs frames.2
  { cores := n 0, slices := n 1, lanes := n 2, granules := n 3, cplx := n 4, kaleFailed := isSet l 5, chardFailed := isSet l 6,
    spareUsed := used.1, sliceMap := slices.1, repairSpent := spent.1.map (·.1), spareFrames := frames.1, requests := requests.1,
    places := readPlaces (requests.2.headD 0).toNat (requests.2.drop 1) }

/-- R15: the machine's maps, counts and failed complexes are those of a service part; frames already moved keep their marks of lost lines. -/
def applyService (s : State) (v : Service) : State :=
  let s1 := { s with
    cores := v.places.foldl (fun m e => mput m e.1 { mget m e.1 freshCore with site := e.2.site, absent := e.2.absent, withheld := e.2.withheld }) s.cores }
  let s2 := modMgmt s1 fun m =>
    { m with cores := v.cores, slices := v.slices, lanes := v.lanes, granules := v.granules, cplx := v.cplx, requests := v.requests,
             spareUsed := v.spareUsed, sliceMap := v.sliceMap, repairSpent := v.repairSpent,
             remap := v.spareFrames.foldl (fun r e => if (mfind r e.1).isSome then r else mput r e.1 (e.2, 0)) m.remap }
  modFw s2 fun f => { f with kaleFailed := v.kaleFailed, chardFailed := v.chardFailed }

/-- Record 0x0005: the transient and the lasting error counts, and the times of the last transient ones (R23); without it all are 0. -/
def importErrors (bs : List (List Word)) (m : Mgmt) : Mgmt :=
  match bs with
  | b :: _ =>
    let a := readPairs b
    let l := readPairs a.2
    { m with transient := a.1, lasting := l.1, transientAt := (readPairs l.2).1.foldl (fun t e => mput t e.1 (mget t e.1 [] ++ [e.2])) [] }
  | [] => { m with transient := [], lasting := [], transientAt := [] }

/-- R73 to R75: what an importer takes from a table. Ring pointers and the energy counters of saved contexts stay
as the hardware holds them. A table that is not accepted changes nothing. -/
def importTable (s : State) (l : List Word) : State :=
  match parseTable (l.length + 1) l with
  | none => s
  | some rs =>
    let s1 := modFrame (modContracts s (importContracts (bodiesOf rs 1))) (importFrame (bodiesOf rs 2))
    let s2 := modMgmt s1 (importErrors (bodiesOf rs 5))
    match bodiesOf rs 6, s.fw.service with
    | b :: _, _ => applyService s2 (readService b)
    | [], some v => applyService s2 v
    | [], none => s2

end Sys2Proof.Machine
end

