-- ==== Sys2Proof/Machine/Lanes.lean ====
section
/-!
DEFINITION. The lanes: issue, bounds and landing (R413 to R417), masks and indirect fields (R418, R419), sections and pops (R349, R350,
R420), faults (R442).
-/
namespace Sys2Proof.Machine

/-! ## Positions and sections -/

/-- The section retires now (R393); the words up to its end have issued before clock `to'`. -/
def retireNow (l : Lanes) (num to' : Nat) : Lanes := { l with any := true, num, numTo := to' }

/-- R393: closed sections whose own words have all landed retire, those of one cycle in the order in which they closed. -/
def retireDue (l : Lanes) : Lanes :=
  let due := fun (e : Nat × Nat × Nat) => decide (e.2.1 < l.clock)
  (l.retiring.filter due).foldl (fun m e => retireNow m e.1 e.2.2) { l with retiring := l.retiring.filter fun e => !due e }

/-- R349, R393: at a section's end it repeats, or closes and waits for its words to land; a last top-level section ends the stream. -/
def closeSects (l : Lanes) : List Sect → Lanes
  | [] => { l with sects := [] }
  | t :: r =>
    if l.pos = t.stop then
      if 1 < t.trips ∧ t.first < t.stop then { l with pos := t.first, sects := { t with trips := t.trips - 1 } :: r }
      else closeSects { l with retiring := l.retiring ++ [(t.num, t.landed, l.clock)], ended := l.ended || (t.last && r.isEmpty) } r
    else { l with sects := t :: r }

/-- The lanes move on to a position. -/
def moveTo (l : Lanes) (pos : Nat) : Lanes := closeSects { l with pos } l.sects

/-- One cycle of the lane clock. -/
def laneTick (l : Lanes) : Lanes := settleFlags (retireDue { l with clock := l.clock + 1 })

/-- One cycle of the lane clock, in which a word has issued: the lanes move on to a position. -/
def laneStep (l : Lanes) (pos : Nat) : Lanes := settleFlags (retireDue (moveTo { l with clock := l.clock + 1 } pos))

/-- R394: the lanes stand at a pop on an empty control queue; the cycle passes. -/
def laneWait (s : State) (c : Nat) : State := modCtx s c fun x => { x with lanes := laneTick { x.lanes with atPop := true } }

/-- R205: the offset that a lane fault's record names: the innermost open header, or the item at top level. -/
def laneOffset (l : Lanes) : Nat := match l.sects with | t :: _ => t.hdr | [] => l.pos

/-- R442: a lane fault kills the team. -/
def laneFault (s : State) (c cause : Nat) (addr : Word) : State :=
  let x := ctxAt s c
  killTeam (walkRecord s c cause 0 x.pc addr) c cause (laneOffset x.lanes) addr

/-- R24, R206: a fetch of the lane stream meets a machine check at a unit: its record, then the kill. -/
def laneMachine (s : State) (c : Nat) (u : Unit8) (num : Nat) (addr : Word) : State :=
  let x := ctxAt s c
  killTeam (postMachine s c u num 0 x.pc addr) c 0x25 (laneOffset x.lanes) addr

/-! ## A word's view of the lanes -/

/-- What a lane word sees at issue. `reg i r` is register r of lane i; a destination in flight gives a free value (R414). -/
structure LaneView where
  x : Ctx
  f : LaneFields
  mask : BitVec 64
  full : Bool
  reg : Nat → Nat → Lane
  q : Nat → Nat → Bool

/-- R414: a write of destination k has not landed. -/
def inFlight {α : Type} (l : Lanes) (m : SMap (List (Nat × α))) (k : Nat) : Bool := (mget m k []).any fun e => decide (l.clock ≤ e.1)

def laneReg (s : State) (l : Lanes) (i r : Nat) : Lane :=
  let k := 256 * i + r
  if inFlight l l.hz k then (freeAt s k).setWidth 32 else mget l.regs k 0

def laneQ (s : State) (l : Lanes) (p i : Nat) : Bool :=
  if inFlight l l.qhz (64 * p + i) then (freeAt s (16384 + 64 * p + i)).getLsbD 0 else (mget l.q p 0).getLsbD i

def topMask (l : Lanes) : BitVec 64 := l.masks.headD (BitVec.allOnes 64)

/-- A mask whose bit i is p i. -/
def maskOf (p : Nat → Bool) : BitVec 64 := (List.range 64).foldl (fun m i => if p i then m ||| (1#64 <<< i) else m) 0

/-- R418: the effective mask. -/
def effMask (s : State) (l : Lanes) (pred : Nat) : BitVec 64 :=
  if pred = 0 then topMask l
  else if pred = 15 then BitVec.allOnes 64
  else topMask l &&& maskOf (laneQ s l (pred - 1))

def laneMode (l : Lanes) : Bool := match l.sects with | t :: _ => t.full | [] => false

def viewOf (s : State) (x : Ctx) (f : LaneFields) : LaneView :=
  let m := effMask s x.lanes f.pred.toNat
  { x, f, mask := m, full := laneMode x.lanes, reg := laneReg s x.lanes, q := laneQ s x.lanes }

/-- R419: the register index of a field in lane i. -/
def LaneView.index (w : LaneView) (indirect : Bool) (field : BitVec 8) (i : Nat) : Nat :=
  if indirect then (w.reg i field.toNat).toNat % 256 else field.toNat
def LaneView.a (w : LaneView) (i : Nat) : Lane := w.reg i (w.index w.f.ia w.f.a i)
def LaneView.b (w : LaneView) (i : Nat) : Lane := w.reg i (w.index w.f.ib w.f.b i)
def LaneView.c (w : LaneView) (i : Nat) : Lane := w.reg i w.f.c.toNat
def LaneView.dIndex (w : LaneView) (i : Nat) : Nat := w.index w.f.id w.f.d i
def LaneView.active (w : LaneView) : List Nat := (List.range 64).filter fun i => w.mask.getLsbD i
def LaneView.imm (w : LaneView) : Nat := w.f.imm.toNat

/-- What a word does: registers (lane, register, value), flags, q bits (register, lane, bit), generators, scratchpad bytes, the mask stack,
the lanes whose LST is cleared. -/
structure LaneOut where
  writes : List (Nat × Nat × Lane) := []
  flags : List (Nat × LFlags) := []
  qbits : List (Nat × Nat × Bool) := []
  gens : List (Nat × BitVec 32) := []
  stores : List (Nat × Byte) := []
  masks : Option (List (BitVec 64)) := none
  clearLst : List Nat := []

/-! ## The generator (R245) -/

def genOf (x : Ctx) (i : Nat) : BitVec 32 := mget x.lanes.gen i (BitVec.ofNat 32 (i + 1))

def genStep (g : BitVec 32) : BitVec 32 :=
  let g1 := g ^^^ (g <<< 13)
  let g2 := g1 ^^^ (g1 >>> 17)
  g2 ^^^ (g2 <<< 5)

def genDraw (g : BitVec 32) : Nat := (g.extractLsb' 8 24).toNat

/-- How a word rounds in lane i, and the generator state behind it: R245 advances it once for each value rounded in SR. -/
def rndOf (w : LaneView) (i : Nat) : Rnd :=
  { mode := w.f.rnd.toNat, u := genDraw (genStep (genOf w.x i)), full := w.full, ovt := w.x.ovt }
def rndGens (w : LaneView) (is : List Nat) : List (Nat × BitVec 32) :=
  if w.f.rnd.toNat = 5 then is.map fun i => (i, genStep (genOf w.x i)) else []

/-! ## Applying a word -/

/-- R415: the writes of a destination that may stand in it once one that lands at `at'` has issued: it, and the older ones that land after it. -/
def contend {α : Type} (at' : Nat) (v : α) (old : List (Nat × α)) : List (Nat × α) := (at', v) :: old.filter fun e => decide (at' < e.1)

/-- R415: which of them stands is a free choice `r`, where there is more than one. -/
def stands {α : Type} (r : Nat) (v : α) (l : List (Nat × α)) : α :=
  match l with
  | [e] => e.2
  | _ => match l[r % l.length]? with | some e => e.2 | none => v

/-- R414 to R416: a register's write, landing at `at'`. -/
def landReg (s : State) (l : Lanes) (at' : Nat) (e : Nat × Nat × Lane) : Lanes :=
  let k := 256 * e.1 + e.2.1
  let w := contend at' e.2.2 (mget l.hz k [])
  { l with regs := mput l.regs k (stands (freeAt s (32768 + k)).toNat e.2.2 w), hz := mput l.hz k w }

def setBit64 (m : BitVec 64) (i : Nat) (b : Bool) : BitVec 64 := if b then m ||| (1#64 <<< i) else m &&& ~~~(1#64 <<< i)

/-- A q bit's write. -/
def landQ (s : State) (l : Lanes) (at' : Nat) (e : Nat × Nat × Bool) : Lanes :=
  let k := 64 * e.1 + e.2.1
  let w := contend at' e.2.2 (mget l.qhz k [])
  { l with q := mput l.q e.1 (setBit64 (mget l.q e.1 0) e.2.1 (stands (freeAt s (65536 + k)).toNat e.2.2 w)), qhz := mput l.qhz k w }

/-- A lane store's byte, by team-relative address. -/
def landByte (c at' : Nat) (s : State) (e : Nat × Byte) : State :=
  let w := contend at' ((ctxAt s c).lanes.clock, e.2) (mget (ctxAt s c).lanes.memhz e.1 [])
  modCtx (putScratch s c e.1 [(stands (freeAt s (131072 + e.1)).toNat ((ctxAt s c).lanes.clock, e.2) w).2]) c fun y => { y with lanes := { y.lanes with memhz := mput y.lanes.memhz e.1 w } }

/-- Something of the lanes has not landed, so a free value may have been used. -/
def anyOpen (l : Lanes) : Bool :=
  (l.hz.any fun e => inFlight l l.hz e.1) || (l.qhz.any fun e => inFlight l l.qhz e.1) || (l.memhz.any fun e => inFlight l l.memhz e.1) || !l.flying.isEmpty

/-- The word of 3 units issues with its effect: it lands at clock + lat + 1, the position moves on, one cycle passes. -/
def issueWord (s : State) (c : Nat) (f : LaneFields) (weightIdx : Nat) (pop : Bool) (o : LaneOut) : State :=
  let x := ctxAt s c
  let l := x.lanes
  let at' := l.clock + f.lat.toNat + 1
  let l1 := o.writes.foldl (fun m e => landReg s m at' e) l
  let l2 := o.qbits.foldl (fun m e => landQ s m at' e) l1
  let l3 := raiseFlags { l2 with lst := o.clearLst.foldl (fun m i => mdel m i) l2.lst } at' o.flags
  let l4 := { l3 with
    gen := o.gens.foldl (fun m e => mput m e.1 e.2) l3.gen
    masks := o.masks.getD l3.masks
    atPop := false
    landed := max l3.landed at'
    sects := l3.sects.map fun t => { t with landed := max t.landed at' } }
  let s0 := modCore s (coreOf c) fun k => { k with issued := (clusterAt s (clusterOf (coreOf c))).cycle + 1 }
  let s1 := setCtx s0 c { x with lanes := l4, ctlq := if pop then x.ctlq.drop 1 else x.ctlq }
  let s2 := o.stores.foldl (landByte c at') s1
  let s3 := modCtx s2 c fun y => { y with lanes := laneStep y.lanes (l.pos + 12) }
  let s4 := if anyOpen l then useFree s3 else s3
  chargeCtx s4 c weightIdx 1

/-- R413: the tokens that the lanes can pop in this cycle: one that has been appended in it is not among them. -/
def poppable (s : State) (c : Nat) : List Token :=
  let x := ctxAt s c
  if x.appended = some (clusterAt s (clusterOf (coreOf c))).cycle then x.ctlq.dropLast else x.ctlq

/-- R347, R350, R440, R442: the common course of a lane word of op `op`: it must lie inside its section and be legal with a bound
at or above the minimum; `need` is the kind of token it pops (R193); `body` gives its effect or the cause and address of its fault. -/
def laneWord (op : Nat) (f : LaneFields) (weightIdx : Nat) (need : Option Nat) (body : LaneView → Option Token → Except (Nat × Word) LaneOut) (s : State) :
    Outcome :=
  let c := s.run.cur
  let x := ctxAt s c
  let l := x.lanes
  .next <|
    match l.sects with
    | [] => laneFault s c 0x23 0
    | t :: _ =>
      if t.stop < l.pos + 12 then laneFault s c 0x23 0
      else if !laneLegal op f || decide (f.lat.toNat + 1 < laneMinBound op t.full f) then laneFault s c 0x22 0
      else
        match need with
        | none =>
          match body (viewOf s x f) none with
          | .ok o => issueWord s c f weightIdx false o
          | .error e => laneFault s c e.1 e.2
        | some kind =>
          match poppable s c with
          | [] =>
            match body (viewOf s x f) none with
            | .ok _ => laneWait s c
            | .error e => laneFault s c e.1 e.2
          | tok :: _ =>
            if tok.kind ≠ kind then laneFault s c 0x21 0
            else
              match body (viewOf s x f) (some tok) with
              | .ok o => issueWord s c f weightIdx true o
              | .error e => laneFault s c e.1 e.2

/-- A word that gives each active lane a value of its own for d, and flags. -/
def perLane (w : LaneView) (g : Nat → Lane × LFlags) : LaneOut :=
  { writes := w.active.map fun i => (i, w.dIndex i, (g i).1), flags := w.active.map fun i => (i, (g i).2) }

def plainWord (op : Nat) (f : LaneFields) (weightIdx : Nat) (g : LaneView → Nat → Lane × LFlags) (s : State) : Outcome :=
  laneWord op f weightIdx none (fun w _ => .ok (perLane w (g w))) s

/-- A word that rounds: its active lanes advance their generators in SR. -/
def roundWord (op : Nat) (f : LaneFields) (g : LaneView → Nat → Lane × LFlags) (s : State) : Outcome :=
  laneWord op f 2 none (fun w _ => .ok { perLane w (g w) with gens := rndGens w w.active }) s

/-! ## Section headers (R348 to R351, R420) -/

def kindToken (kind : Nat) : Option Nat := if kind = 1 then some 2 else if kind = 2 then some 1 else none

/-- R350: the header is malformed where it stands. -/
def headerBad (l : Lanes) (h : HeaderFields) : Bool :=
  h.kind == 3 || h.reserved != 0 || decide (h.length.toNat < 2) ||
    (match l.sects with
     | [] => false
     | t :: _ => decide (t.stop < l.pos + 4 * h.length.toNat) || h.last || decide (8 ≤ l.sects.length))

/-- R420: a skipped or elided section retires at once; an entered one opens. A header takes no cycle. -/
def openSection (l : Lanes) (h : HeaderFields) (enter : Bool) (trips : Nat) : Lanes :=
  let stop := l.pos + 4 * h.length.toNat
  if enter then
    closeSects { l with pos := l.pos + 8, atPop := false }
      ({ num := h.num.toNat, hdr := l.pos, first := l.pos + 8, stop, trips, full := h.full, last := h.last, landed := 0 } :: l.sects)
  else
    moveTo (retireNow { l with atPop := false, ended := l.ended || (h.last && l.sects.isEmpty) } h.num.toNat l.clock) stop

/-- R413, R472: a header takes no issue cycle: the lanes have their turn of this cycle still. -/
def headerDone (s : State) (c : Nat) (f : Ctx → Ctx) : State := turnAgain (modCtx s c f) (.lanes c)

/-- SECTION_HEADER (R413, R420). The record of a malformed nested header names the innermost open header (R350). -/
def execSectionHeader (h : HeaderFields) (s : State) : Outcome :=
  let c := s.run.cur
  let x := ctxAt s c
  let l := x.lanes
  .next <|
    if headerBad l h then laneFault s c 0x23 0
    else
      match kindToken h.kind.toNat with
      | none => headerDone s c fun y => { y with lanes := openSection l h (topMask l != 0) 1 }
      | some k =>
        match poppable s c with
        | [] => laneWait s c
        | t :: _ =>
          if t.kind ≠ k then killTeam s c 0x21 l.pos 0
          else
            let n := if k = 2 then wbits t.payload 0 0 else wbits t.payload 31 0
            headerDone s c fun y => { y with ctlq := y.ctlq.drop 1, lanes := openSection l h (topMask l != 0 && n != 0) n }

/-- ILLEGAL_LANE_WORD (R347): an unassigned op; beyond its section's end it is a stream fault (R350). -/
def execIllegalLaneWord (_ : BitVec 96) (s : State) : Outcome :=
  let c := s.run.cur
  let l := (ctxAt s c).lanes
  .next (match l.sects with
    | [] => laneFault s c 0x23 0
    | t :: _ => if t.stop < l.pos + 12 then laneFault s c 0x23 0 else laneFault s c 0x22 0)

end Sys2Proof.Machine
end

