-- ==== Sys2Proof/Machine/FrontEnd.lean ====
section
/-!
DEFINITION. What the launch front ends and the host DMA ports share (R118, R150, R152, R219): their accesses to memory, the progress of a logical
queue (R107, R109), completion records (R114).
-/
namespace Sys2Proof.Machine

/-! ## Accesses -/

/-- The die whose front end and host DMA port serve a logical queue (log 25). -/
def feDie (q : Nat) : Nat := q % 2

/-- Translation through the walker of cluster 0 of the die, and the checks: memory type, home module, address. An access to a page that is being moved waits (R48). -/
def feReach (s : State) (die v : Nat) (k : Chk) (va : Word) : State × Except Nat (Nat × Nat × Nat) :=
  match translateL2 s (6 * die) 300 v va with
  | (s1, x) =>
    match reachOf (v == 0) k va x with
    | .absent _ => (s, .error 0x10)
    | .fault cause => (s, .error cause)
    | .ok mt home pa _ _ => (if pageMoving s1 mt pa then stall s1 else s1, .ok (mt, home, pa))

/-- R203: the cause of an access that its home refuses, or that meets a machine-check. -/
def feGot : State × Got → Except Nat (State × List Byte)
  | (s, .ok b) => .ok (s, b)
  | (_, .refused) => .error 0x10
  | (_, .machine _ _) => .error 0x25

/-- Reads n bytes that lie in one line; `plain` reads are refused on an SY page. The charges go to VN_EUSED alone (R161). -/
def feReadIn (plain : Bool) (die point v n : Nat) (va : Word) (s : State) : Except Nat (State × List Byte) :=
  match feReach s die v { read := true, plain := plain } va with
  | (_, .error c) => .error c
  | (s1, .ok (mt, home, pa)) =>
    let s2 := issued (.read v (300 + die) mt home pa n false []) s1 (regulated s1 die point v 300 (initCharge n false))
    feGot (readAt s2 v mt home pa n fun t => serveAlone t die v (lineOf pa) (initCharge n false) false)

/-- Bytes from an address to the end of its line. -/
def toLineEnd (va : Word) : Nat := 64 - va.toNat % 64

/-- Reads n bytes, line by line. -/
def feRead (die point v : Nat) : Nat → Nat → Word → State → Except Nat (State × List Byte)
  | 0, _, _, s => .ok (s, [])
  | fuel + 1, n, va, s =>
    if n = 0 then .ok (s, [])
    else
      let k := min n (toLineEnd va)
      match feReadIn true die point v k va s with
      | .error c => .error c
      | .ok (s1, b) =>
        match feRead die point v fuel (n - k) (va + BitVec.ofNat 64 k) s1 with
        | .error c => .error c
        | .ok (s2, r) => .ok (s2, b ++ r)

def feReadN (die v n : Nat) (va : Word) (s : State) : Except Nat (State × List Byte) := feRead die 62 v (n / 64 + 2) n va s

/-- Writes bytes that lie in one line. -/
def feWriteIn (plain : Bool) (die point v : Nat) (b : List Byte) (va : Word) (s : State) : Except Nat State :=
  match feReach s die v { write := true, plain := plain } va with
  | (_, .error c) => .error c
  | (s1, .ok (mt, home, pa)) =>
    let n := b.length
    let s2 := issued (.write v (300 + die) mt home (pa / 64 * 64) [(pa % 64, b)] false []) s1 (regulated s1 die point v 300 (initCharge n false))
    (feGot (writeAt s2 v mt home pa b (n == 64) fun t =>
      serveAlone t die v (lineOf pa) (initCharge n false) true)).map (·.1)

/-- A release store of n bytes at an address that is a multiple of their number (R219 check 1). -/
def feStore (die v : Nat) (b : List Byte) (va : Word) (s : State) : Except Nat State :=
  if va.toNat % b.length ≠ 0 then .error 0x17 else feWriteIn false die 62 v b va s

/-! ## Queues -/

/-- R105: the ring stops with a code. -/
def stopRing (s : State) (v r code seq fcause : Nat) (unit : BitVec 32) : State :=
  raise (modRing s v r fun x => { x with stop := true, code := code, eseq := seq % 256, fcause := fcause, unit := unit }) v 32

/-- R94, R107, R124, R76: the scheduler may start packets of the queue. -/
def queueLive (s : State) (v q : Nat) : Bool :=
  let x := queueAt s v q
  x.en && !x.busy && x.head != .stalled && !(vnpuAt s v).resetting

/-- R107, R108, R70, R76: the merge unit may take packets. -/
def mergeLive (s : State) (v q : Nat) : Bool := queueLive s v q && !s.fw.quiesced && s.fw.mode != .dead

/-- The launches of a queue, in the order in which they have started. Where one with evicted teams and a later one with unplaced teams both wait, R131 orders queues
and not these: the earlier comes first (DESIGN CHOICE, log 93). -/
def launchesOf (s : State) (v q : Nat) : List Nat := (s.launches.filter fun e => e.2.v == v && e.2.q == q).map (·.1)

/-- R109: a launch of the queue is not fully dispatched. -/
def dispatchOpen (s : State) (v q : Nat) : Bool := s.launches.any fun e => e.2.v == v && e.2.q == q && decide (e.2.next < e.2.nteams)

/-- R109, R120: a LAUNCH or LAUNCH_INDIRECT may start. -/
def mayLaunch (s : State) (v q : Nat) : Bool := !dispatchOpen s v q && (queueAt s v q).ind.isNone

/-- R109: every packet that started has completed. -/
def queueQuiet (s : State) (v q : Nat) : Bool :=
  (launchesOf s v q).isEmpty && (queueAt s v q).copies.isEmpty && (queueAt s v q).ind.isNone

/-- The event that starts a packet of a type (R104). -/
def packetEvent (v q ty : Nat) : Option Instr :=
  match ty with
  | 1 => some (.nop v q)
  | 2 => some (.launch v q)
  | 3 => some (.launchIndirect v q)
  | 4 => some (.wait v q)
  | 5 => some (.signal v q)
  | 6 => some (.pktFence v q)
  | 7 => some (.timestamp v q)
  | 8 => some (.copy v q)
  | _ => none

/-- R107: the head packet may start, or is in progress, which goes on with EN 0. -/
def queueGoes (s : State) (v q : Nat) : Bool :=
  let x := queueAt s v q
  queueLive s v q || ((x.head == .waiting || x.head == .begun) && !x.busy && !(vnpuAt s v).resetting)

/-- The queue's head packet starts, if it may, or goes on (R107, R109). -/
def kick (s : State) (v q : Nat) : State :=
  if queueGoes s v q then
    match (queueAt s v q).packets with
    | p :: _ =>
      if (p.ty == 2 || p.ty == 3) && !mayLaunch s v q then s
      else match packetEvent v q p.ty with
        | some i => post s i
        | none => s
    | [] => s
  else s

/-- The head packet, when it has a type and the queue may start it, or has (R107). -/
def headOf (s : State) (v q ty : Nat) : Option Packet :=
  if queueLive s v q || (queueGoes s v q && (queueAt s v q).head == .begun) then
    match (queueAt s v q).packets with
    | p :: _ => if p.ty = ty then some p else none
    | [] => none
  else none

/-- The head packet has started and is the head no longer. -/
def popHead (s : State) (v q : Nat) : State :=
  kick (modQueue s v q fun x => { x with packets := x.packets.drop 1, head := .idle }) v q

def headWaits (s : State) (v q : Nat) : State := modQueue s v q fun x => { x with head := .waiting }

/-- R111: the head packet has met a fault: its ring stops and the queue stalls. -/
def stallQueue (s : State) (v q : Nat) (p : Packet) (cause : Nat) : State :=
  modQueue (stopRing s v p.ring 0x07 p.seq cause p.unit) v q fun x => { x with head := .stalled }

/-- R130: the windows in force that serve a VNPU now decide again. -/
def askServing (s : State) (v : Nat) : State :=
  if s.frame.started then
    (s.frame.view.zipIdx).foldl (fun t e => if windowActive t e.1 && serves t e.2 e.1 v then post t (.dispatchDecision e.2) else t) s
  else s

/-- A prologue waits for the front end of a die: its queue asks again. -/
def wakePrologues (s : State) (die : Nat) : State :=
  s.vnpus.foldl (fun t e => e.2.queues.foldl (fun u k =>
    match k.2.ind with
    | some i => if i.phase = .ready ∧ feDie k.1 = die then post u (.prologueRun e.1 k.1) else u
    | none => u) t) s

/-! ## Completion records (R114) -/

/-- The tick at which the event that runs was first due: TSTAMP as its fence completed (R111). -/
def dueAt (s : State) : Nat :=
  (s.run.ledger.findSome? fun e => match e with | (a, .began t) => if a = s.run.agent then some t else none | _ => none).getD s.tick.toNat

/-- The event that runs has been due before, and has waited. -/
def tryAgain (s : State) : Bool := s.run.ledger.any fun e => e.1 == s.run.agent && match e.2 with | .began _ => true | _ => false

/-- TSTAMP as a record is written: for a store to another module, as the store leaves. -/
def stampOf (s : State) : Nat :=
  (s.run.ledger.findSome? fun e => match e with | (a, .sent t) => if a = s.run.agent then some t else none | _ => none).getD s.tick.toNat

def recordBytes (s : State) (status reason run seq teams : Nat) : List Byte :=
  natLe 1 status ++ natLe 1 reason ++ natLe 1 run ++ natLe 1 0 ++ natLe 2 seq ++ natLe 2 0 ++ natLe 4 teams ++ natLe 4 0 ++
    natLe 8 (stampOf s) ++ natLe 8 0

/-- The record of kind 3 that stands for a completion record that could not be stored. -/
def lostRecord (s : State) (v cause status reason run seq : Nat) (addr : Word) : State :=
  postTeamRecord s v (natLe 1 cause ++ natLe 1 3 ++ natLe 2 seq ++ natLe 1 status ++ natLe 1 reason ++ natLe 1 run ++ natLe 1 0 ++
    natLe 8 0 ++ natLe 8 addr.toNat ++ natLe 8 s.tick.toNat)

/-- Writes a completion record; STATUS 2 and 3 raise vector 36. -/
def completeRecord (s : State) (v q status reason run seq teams : Nat) (doneaddr : Word) : State :=
  let s1 := if doneaddr = 0 then s
    else match feStore (feDie q) v (recordBytes s status reason run seq teams) doneaddr s with
      | .ok t => t
      | .error cause => lostRecord s v cause status reason run seq doneaddr
  if status = 2 ∨ status = 3 then raise s1 v 36 else s1

end Sys2Proof.Machine
end

