-- ==== Sys2Proof/Machine/Rings.lean ====
section
/-!
DEFINITION. Rings, merge units and the single-packet effects (R98 to R111).
-/
namespace Sys2Proof.Machine

/-! ## Ring registers -/

/-- Units of 16 bytes a ring of a size holds. -/
def ringUnits (size : Nat) : Nat := 256 * 2 ^ size

/-- The queue whose merge group holds a ring. -/
def queueOfRing (s : State) (v r : Nat) : Option Nat :=
  (List.range 16).find? fun q => (queueAt s v q).rmask.getLsbD r

/-- R120: every packet before a LAUNCH_INDIRECT has completed: no launch and no copy of them is under way, and none of these copies is stalled (R111). -/
def earlierOver (s : State) (v q : Nat) (i : Indirect) : Bool :=
  let x := queueAt s v q
  (launchesOf s v q).isEmpty && !(x.copies.any fun e => i.before.contains e.1) && !(x.head == .stalled && (x.packets.take 1).any i.before.contains)

/-- R117, R120: a LAUNCH_INDIRECT that waits for every earlier packet may run again. -/
def resumeIndirect (s : State) (v q : Nat) : State :=
  match (queueAt s v q).ind with
  | some i =>
    if i.phase = .afterAll ∧ earlierOver s v q i = true then
      post (modQueue s v q fun x => { x with ind := some { i with phase := .ready } }) (.prologueRun v q)
    else s
  | none => s

/-- R111: re-enabling the ring that stopped a stalled queue discards its head packet. -/
def unstall (s : State) (v r : Nat) : State :=
  (List.range 16).foldl (fun t q =>
    let x := queueAt t v q
    match x.head, x.packets with
    | .stalled, p :: _ => if p.ring = r then post (resumeIndirect (popHead (modQueue t v q fun y => { y with head := .idle }) v q) v q) (.packetTake v q) else t
    | _, _ => t) s

/-- RING_ENABLE (R99): EN is written from 0 to 1. -/
def execRingEnable (v r : Nat) (value : Word) (s : State) : Outcome :=
  .next <|
    if (ringAt s v r).en || !value.getLsbD 8 then s
    else
      let size := wbits value 3 0
      let s1 := modRing s v r fun x => { x with size := size, head := 0, tail := 0, stop := false, code := 0, eseq := 0, fcause := 0, unit := 0, header := [] }
      if 8 < size ∨ (ringAt s v r).base.toNat % (4096 * 2 ^ size) ≠ 0 then stopRing s1 v r 0x0A 0 0 0
      else unstall (modRing s1 v r fun x => { x with en := true }) v r

/-- RING_DISABLE (R99): EN is written with 0. SIZE can be written while EN is 0. -/
def execRingDisable (v r : Nat) (value : Word) (s : State) : Outcome :=
  .next (modRing s v r fun x => { x with en := false, size := if x.en then x.size else wbits value 3 0 })

/-- A VNPU other than 0 with no contract in force (R92). -/
def noContract (s : State) (v : Nat) : Bool := v != 0 && (mfind s.contracts.inForce v).isNone

/-- TAIL_WRITE (R94, R99, R101, R92). With no packet to name, RG_ERR.SEQ is a free value. -/
def execTailWrite (v r : Nat) (value : Word) (s : State) : Outcome :=
  let x := ringAt s v r
  let t := value.setWidth 32
  let stop := fun code => useFree (stopRing s v r code (freeAt s 0).toNat 0 x.head)
  .next <|
    if (vnpuAt s v).resetting || !x.en || x.stop then s
    else if ringUnits x.size < (t - x.head).toNat then stop 0x02
    else if noContract s v then stop 0x08
    else
      let s1 := modRing s v r fun y => { y with tail := t }
      match queueOfRing s v r with
      | some q => post s1 (.packetTake v q)
      | none => s1

/-! ## Logical-queue registers -/

/-- LQ_CTL_EN (R107): a write of EN and PRIO. -/
def execLqCtlEn (v q : Nat) (value : Word) (s : State) : Outcome :=
  let on := value.getLsbD 0 && !(queueAt s v q).en
  let s1 := modQueue s v q fun x => { x with en := value.getLsbD 0, prio := wbits value 12 8 }
  .next (if on then askServing (post (kick s1 v q) (.packetTake v q)) v else s1)

def popcount64 (x : BitVec 64) : Nat := ((List.range 64).filter fun i => x.getLsbD i).length

/-- LQ_RINGS (R107). -/
def execLqRings (v q : Nat) (value : Word) (s : State) : Outcome :=
  let taken := (List.range 16).any fun p => p != q && (queueAt s v p).rmask &&& value != 0
  .next <|
    if 8 < popcount64 value ∨ taken ∨ (queueAt s v q).en then modQueue s v q fun x => { x with cfgerr := true }
    else modQueue s v q fun x => { x with rmask := value, visit := 0 }

/-! ## Taking packets (R103 to R108) -/

def headerPresent (x : Ring) : Bool := x.head != x.tail
def unitsPresent (x : Ring) : Nat := (x.tail - x.head).toNat

/-- R100: the address of the unit a count names. -/
def unitAddr (x : Ring) (count : Nat) : Word := x.base + BitVec.ofNat 64 (count % ringUnits x.size * 16)

/-- Reads n units from a count on; a fault ends the bytes. -/
def readUnits (v q : Nat) (x : Ring) : Nat → Nat → State → State × List Byte × Option Nat
  | 0, _, s => (s, [], none)
  | n + 1, count, s =>
    match feReadIn true (feDie q) 62 v 16 (unitAddr x count) s with
    | .error c => (s, [], some c)
    | .ok (s1, b) =>
      match readUnits v q x n (count + 1) s1 with
      | (s2, r, e) => (s2, b ++ r, e)

/-- R104: the length of a type, 0 for any. -/
def lenOfType (ty : Nat) : Nat :=
  match ty with
  | 2 | 3 => 5
  | 4 | 5 => 2
  | 6 | 7 => 1
  | 8 => 3
  | _ => 0

def pktType (b : List Byte) : Nat := fieldAt b 0 1
def pktLen (b : List Byte) : Nat := fieldAt b 1 1
def pktSeq (b : List Byte) : Nat := fieldAt b 2 2
def pktHw1 (b : List Byte) : Nat := fieldAt b 4 4
def pktHw2 (b : List Byte) : Nat := fieldAt b 8 8

/-- R104: a must-be-0 bit of the header is nonzero. -/
def headerBits (b : List Byte) : Bool :=
  match pktType b with
  | 2 | 6 | 8 => pktHw1 b != 0 || pktHw2 b != 0
  | 3 | 7 => pktHw1 b != 0
  | 4 => pktHw1 b / 4 != 0
  | 5 => pktHw1 b / 256 != 0 || nbits (pktHw1 b) 6 6 != 0
  | _ => false

/-- R104: a must-be-0 byte of the payload is nonzero. -/
def payloadBits (b : List Byte) : Bool :=
  match pktType b with
  | 5 => !allZero ((b.drop 24).take 8)
  | 8 => !allZero ((b.drop 36).take 12)
  | _ => false

/-- R105 code 0x09. -/
def addressBad (b : List Byte) : Bool :=
  match pktType b with
  | 3 => pktHw2 b % 4 != 0
  | 4 | 7 => pktHw2 b % 8 != 0
  | 5 => pktHw2 b % 8 != 0 || (nbits (pktHw1 b) 7 7 == 1 && decide (32 ≤ nbits (pktHw1 b) 5 0))
  | 8 => fieldAt b 32 4 == 0
  | _ => false

/-- R105: the checks the header alone decides, in order. -/
def headerCode (x : Ring) (b : List Byte) : Option Nat :=
  if ringUnits x.size < x.head.toNat % ringUnits x.size + pktLen b then some 0x01
  else if pktLen b = 0 then some 0x03
  else if pktType b = 0 ∨ 8 < pktType b then some 0x04
  else if lenOfType (pktType b) ≠ 0 ∧ pktLen b ≠ lenOfType (pktType b) then some 0x05
  else if headerBits b then some 0x06
  else none

/-- What a visit to a ring finds: nothing to take; an error; a packet. -/
inductive Visit where
  | skip (s : State)
  | taken (s : State)

/-- R102: the header unit of the packet at HEAD, read once. -/
def ringHeader (s : State) (v q r : Nat) : Except Nat (State × List Byte) :=
  let x := ringAt s v r
  if x.header.isEmpty then
    (feReadIn true (feDie q) 62 v 16 (unitAddr x x.head.toNat) s).map fun p => (modRing p.1 v r fun y => { y with header := p.2 }, p.2)
  else .ok (s, x.header)

/-- R105: a complete packet of ring r with header h: its other units are read (R102), its remaining checks made, and it is taken. -/
def takePacket (s : State) (v q r : Nat) (h : List Byte) : Visit :=
  let x := ringAt s v r
  let stop := fun (t : State) (code fc : Nat) => Visit.skip (stopRing t v r code (pktSeq h) fc x.head)
  match readUnits v q x (pktLen h - 1) (x.head.toNat + 1) s with
  | (s2, b, e) =>
    let all := if pktType h = 1 then h else h ++ b
    if payloadBits all then stop s2 0x06 0
    else match e with
      | some c => stop s2 0x07 c
      | none =>
        if noContract s v then stop s2 0x08 0
        else if addressBad all then stop s2 0x09 0
        else
          let p : Packet := { ring := r, unit := x.head, ty := pktType h, seq := pktSeq h, data := all }
          let s3 := modRing s2 v r fun y => { y with head := y.head + BitVec.ofNat 32 (pktLen h), header := [] }
          .taken (modQueue s3 v q fun y => { y with packets := y.packets ++ [p], visit := r + 1 })

/-- R105, R108: a visit to ring r. With only the header present, the checks it decides are made. -/
def visitRing (s : State) (v q r : Nat) : Visit :=
  let x := ringAt s v r
  if !x.en || x.stop || !headerPresent x then .skip s
  else
    match ringHeader s v q r with
    | .error c => .skip (useFree (stopRing s v r 0x07 (freeAt s 0).toNat c x.head))
    | .ok (s1, h) =>
      match headerCode x h with
      | some code => .skip (stopRing s1 v r code (pktSeq h) 0 x.head)
      | none =>
        if pktLen h ≤ unitsPresent x then takePacket s1 v q r h
        else if noContract s v then .skip (stopRing s1 v r 0x08 (pktSeq h) 0 x.head)
        else if pktType h ≠ 8 ∧ addressBad h then .skip (stopRing s1 v r 0x09 (pktSeq h) 0 x.head)
        else .skip s1

/-- The rings of a merge group from the next to visit on, then the next round's. -/
def visitOrder (x : LQueue) : List Nat :=
  ((List.range 64).drop x.visit ++ (List.range 64).take x.visit).filter fun r => x.rmask.getLsbD r

/-- Visits rings until one gives a packet. -/
def visitRings (v q : Nat) : List Nat → State → Visit
  | [], s => .skip (modQueue s v q fun x => { x with visit := 0 })
  | r :: rest, s =>
    match visitRing s v q r with
    | .skip s1 => visitRings v q rest s1
    | .taken s1 => .taken s1

/-- PACKET_TAKE (R108): the merge unit takes the next packet, which is presented to the scheduler; a decision follows (R130). -/
def execPacketTake (v q : Nat) (s : State) : Outcome :=
  .next <|
    if mergeLive s v q then
      match visitRings v q (visitOrder (queueAt s v q)) s with
      | .skip s1 => s1
      | .taken s1 =>
        let first := (queueAt s1 v q).packets.length == 1
        post (if first then askServing (kick s1 v q) v else s1) (.packetTake v q)
    else s

/-! ## Single-packet effects (R104, R109 to R111) -/

/-- NOP (R104). -/
def execNop (v q : Nat) (s : State) : Outcome :=
  .next <| match headOf s v q 1 with
    | some _ => popHead s v q
    | none => s

/-- R111: the condition of a WAIT. -/
def waitHolds (b : List Byte) (word : Nat) : Bool :=
  let x := word &&& fieldAt b 24 8
  let y := fieldAt b 16 8
  match pktHw1 b % 4 with
  | 0 => x == y
  | 1 => x != y
  | 2 => decide (y ≤ x)
  | _ => decide (x < y)

/-- One read of a WAIT's word; the next follows 100 ticks after it was due, however long it has waited. -/
def pollWait (s : State) (v q : Nat) (p : Packet) : State :=
  match feReadIn false (feDie q) 62 v 8 (BitVec.ofNat 64 (pktHw2 p.data)) s with
  | .error c => stallQueue s v q p c
  | .ok (s1, b) =>
    if waitHolds p.data (leNat b) then popHead s1 v q
    else modQueue s1 v q fun x => { x with head := .waiting, nextPoll := dueAt s + 100 }

/-- WAIT (R111): the packet starts. -/
def execWait (v q : Nat) (s : State) : Outcome :=
  .next <| match headOf s v q 4 with
    | some p => if (queueAt s v q).head ≠ .waiting then pollWait s v q p else s
    | none => s

/-- WAIT_POLL (R111): a WAIT in progress reads again when that is due, whatever LQ_CTL.EN says (R107); or it makes a read that has had to wait. -/
def execWaitPoll (v q : Nat) (s : State) : Outcome :=
  .next <| match (queueAt s v q).packets with
    | p :: _ => if p.ty = 4 ∧ (queueAt s v q).head = .waiting ∧ ((queueAt s v q).nextPoll ≤ s.tick.toNat ∨ tryAgain s = true) then pollWait s v q p else s
    | [] => s

/-- R107, R109: the head packet waits as a fence; `f` is its effect once every earlier packet has completed. -/
def afterFence (v q ty : Nat) (f : Packet → State → Except Nat State) (s : State) : Outcome :=
  .next <| match (queueAt s v q).packets with
    | p :: _ =>
      if p.ty = ty ∧ queueGoes s v q = true then
        if queueQuiet s v q then
          match f p s with
          | .ok s1 => popHead s1 v q
          | .error c => stallQueue s v q p c
        else headWaits s v q
      else s
    | [] => s

/-- FENCE (R109). -/
def execPktFence (v q : Nat) (s : State) : Outcome := afterFence v q 6 (fun _ t => .ok t) s

/-- SIGNAL (R111). -/
def execSignal (v q : Nat) (s : State) : Outcome :=
  afterFence v q 5 (fun p t =>
    let irq := fun (u : State) => if nbits (pktHw1 p.data) 7 7 = 1 then raise u v (pktHw1 p.data % 64) else u
    if pktHw2 p.data = 0 then .ok (irq t)
    else match feStore (feDie q) v ((p.data.drop 16).take 8) (BitVec.ofNat 64 (pktHw2 p.data)) t with
      | .ok u => .ok (irq u)
      | .error c => .error c) s

/-- TIMESTAMP (R111): the tick at which its fence completed, whatever its store then waits for. -/
def execTimestamp (v q : Nat) (s : State) : Outcome :=
  afterFence v q 7 (fun p t => feStore (feDie q) v (natLe 8 (dueAt t)) (BitVec.ofNat 64 (pktHw2 p.data)) t) s

/-- R111: the fields of a COPY. -/
def copySrc (p : Packet) : Nat := fieldAt p.data 16 8
def copyDst (p : Packet) : Nat := fieldAt p.data 24 8
def copyLen (p : Packet) : Nat := fieldAt p.data 32 4

/-- A byte's address is among those a COPY writes, while its own source is elsewhere: what the copy reads there is left open (log 38). -/
def copyOpen (p : Packet) (a : Nat) : Bool := decide (copySrc p ≠ copyDst p ∧ copyDst p ≤ a ∧ a < copyDst p + copyLen p)

/-- R111: the next piece of a COPY that has moved m bytes, up to the next 64-byte boundary of its destination, which is where it can be stopped (R92, R124; that it is
not the source's is a DESIGN CHOICE, log 85); a byte that is left open is a free value. -/
def packetPiece (die v : Nat) (p : Packet) (m : Nat) (s : State) : Except Nat (State × Nat) :=
  let src : Word := BitVec.ofNat 64 (copySrc p + m)
  let dst : Word := BitVec.ofNat 64 (copyDst p + m)
  let k := min (copyLen p - m) (toLineEnd dst)
  match feRead die 63 v 2 k src s with
  | .error c => .error c
  | .ok (s1, b) =>
    let b' := b.zipIdx.map fun e => if copyOpen p (copySrc p + m + e.2) then (freeAt s1 e.2).setWidth 8 else e.1
    (feWriteIn true die 63 v b' dst s1).map fun s2 => (chargeVnpu (if b.zipIdx.any fun e => copyOpen p (copySrc p + m + e.2) then useFree s2 else s2) v (weight s2 10), m + k)

/-- The next n pieces of a COPY. -/
def packetPieces (die v : Nat) (p : Packet) : Nat → Nat → State → Except Nat (State × Nat)
  | 0, m, s => .ok (s, m)
  | n + 1, m, s =>
    if copyLen p ≤ m then .ok (s, m)
    else match packetPiece die v p m s with
      | .error c => .error c
      | .ok (s1, m1) => packetPieces die v p n m1 s1

/-- A COPY has moved all its bytes. -/
def packetMoved (e : Packet × Nat) : Bool := decide (copyLen e.1 ≤ e.2)

/-- A COPY's next pieces have moved, up to byte m of packet p. -/
def packetAt (s : State) (v q : Nat) (p : Packet) (m : Nat) : State :=
  let s1 := modQueue s v q fun x => { x with copies := x.copies.map fun e => if e.1 = p then (p, m) else e }
  if copyLen p ≤ m then post s1 (.copyPacketComplete v q) else s1

/-- COPY (R111): the packet starts, and its first pieces move; with `flag3` the oldest copy under way goes on, whatever LQ_CTL.EN says (R107). A fault stalls
the queue, with the packet at its head again (log 62). -/
def execCopy (v q : Nat) (s : State) : Outcome :=
  .next <|
    if s.run.arg.flag3 then
      match (queueAt s v q).copies.find? fun e => !packetMoved e with
      | none => s
      | some (p, m) =>
        match packetPieces (feDie q) v p (s.run.pace + 1) m s with
        | .ok (s1, m1) => packetAt s1 v q p m1
        | .error c => stallQueue (modQueue s v q fun x => { x with copies := x.copies.filter fun e => e.1 != p, packets := p :: x.packets }) v q p c
    else
      match headOf s v q 8 with
      | none => s
      | some p =>
        match packetPieces (feDie q) v p (s.run.pace + 1) 0 s with
        | .ok (s1, m) => popHead (packetAt (modQueue s1 v q fun x => { x with copies := x.copies ++ [(p, 0)] }) v q p m) v q
        | .error c => stallQueue s v q p c

/-- COPY_PACKET_COMPLETE (R110): copies whose last bytes have been acknowledged. -/
def execCopyPacketComplete (v q : Nat) (s : State) : Outcome :=
  .next <|
    if (queueAt s v q).copies.any packetMoved then
      resumeIndirect (kick (modQueue s v q fun x => { x with copies := x.copies.filter fun e => !packetMoved e }) v q) v q
    else s

end Sys2Proof.Machine
end

