-- ==== Sys2Proof/Machine/System.lean ====
section
/-!
DEFINITION. System registers, traps, calls, events, time, firmware instructions and illegal words (R340, R400 to R409).
-/
namespace Sys2Proof.Machine

/-! ## System registers (R400) -/

def acstWord (a : AccSet) : Word :=
  BitVec.ofNat 64 ((if a.kindInt then 16 else 0) + (if a.sat then 8 else 0) + (if a.nv then 4 else 0) + (if a.ovf then 2 else 0))

/-- R265: the team-named set i, 0 when the team has no such set. -/
def acstOf (s : State) (c i : Nat) : Word :=
  match (ctxAt s c).accs[i]? with
  | some p => acstWord (mget (coreAt s (coreOf c)).accs p freshSet)
  | none => 0

def rcstat (x : Ctx) : Word :=
  BitVec.ofNat 64 (x.epoch % 65536 * 2 ^ 24 + ownClock x * 256 + (if x.rcsat then 128 else 0) + slotOf x)

/-- R386. -/
def irstat (s : State) (c : Nat) : Word :=
  let k := coreAt s (coreOf c)
  let n := (k.icache.filter fun e => e.pins.contains (bankOf c)).length + (k.lcache.filter fun e => e.pins.contains (bankOf c)).length
  BitVec.ofNat 64 (n % 65536 * 65536 + (if (ctxAt s c).skip then 2 else 0) + (if (ctxAt s c).pinov then 1 else 0))

def qcfgWord (x : Ctx) (i : Nat) : Word := BitVec.ofNat 64 (qLevel x i % 1024 * 2 ^ 32 + qCap x i * 65536 + qMin x i)

/-- R379, R400: the firmware core's registers. -/
def fwReg (x : Ctx) (r : Nat) : Option Word :=
  match r with
  | 0x100 => some (x.tvec &&& ~~~3#64)
  | 0x101 => some x.epc
  | 0x102 => some (x.ecause.setWidth 64)
  | 0x103 => some x.eaddr
  | 0x104 => some (BitVec.ofNat 64 ((if x.hc then 2 else 0) + (if x.inh then 1 else 0)))
  | _ => none

/-- R400: what GETS reads; none where it traps with 0x01. -/
def sysRead (s : State) (c r : Nat) : Option Word :=
  let x := ctxAt s c
  if r = 0 then some 0x10000
  else if r = 1 then some (if isTeam c then (clusterAt s (clusterOf (coreOf c))).cycle else freeAt s 0)
  else if r = 2 then some x.ecnt
  else if r = 3 then some x.ovt
  else if r = 4 then some (rcstat x)
  else if r = 5 then some ((coreAt s (coreOf c)).errlo.setWidth 64)
  else if r = 6 then some x.ctb
  else if r = 7 then some (lsect x)
  else if r = 8 then some (x.ph.setWidth 64)
  else if r = 9 then some (irstat s c)
  else if 0x10 ≤ r ∧ r ≤ 0x13 then some (acstOf s c (r - 0x10))
  else if 0x18 ≤ r ∧ r ≤ 0x1B then some (mget x.mdst (r - 0x18) 0)
  else if 0x20 ≤ r ∧ r ≤ 0x27 then some (qcfgWord x (r - 0x20))
  else if isFw c then fwReg x r
  else none

/-- GETS (R400). -/
def execGets (d : Reg) (imm : BitVec 14) (s : State) : Outcome :=
  .next (ctl (.gets d imm) [] (some d) (fun _ s =>
    match sysRead s s.run.cur imm.toNat with
    | some v => .res v (if imm.toNat = 1 && !isTeam s.run.cur then useFree s else s) none
    | none => .trap 0x01 0) s)

/-- What SETS does to a register: ignored or written; 0x01 or 0x02 where it traps. -/
def sysWrite (s : State) (c r : Nat) (v : Word) : Except Nat State :=
  let x := ctxAt s c
  if r = 2 then
    if privileged s c then .ok (setCtx s c { x with ecnt := v &&& 0x8000FFFFFFFFFFFF#64 }) else .error 0x02
  else if r = 9 then .ok (setCtx s c { x with skip := x.skip && !v.getLsbD 1, pinov := x.pinov && !v.getLsbD 0 })
  else if 0x18 ≤ r ∧ r ≤ 0x1B then .ok (setCtx s c { x with mdst := mput x.mdst (r - 0x18) (v &&& 0x83FFFFFF#64) })
  else if 0x20 ≤ r ∧ r ≤ 0x27 then
    if !privileged s c then .error 0x02
    else
      let i := r - 0x20
      let m := wbits v 9 0
      let k := wbits v 25 16
      if k = 0 ∨ k < m ∨ 1024 < minSum s c i m then .ok s
      else .ok (setCtx s c { x with qmin := mput x.qmin i m, qcap := mput x.qcap i k })
  else if isFw c then
    match r with
    | 0x100 => .ok (setCtx s c { x with tvec := v &&& ~~~3#64 })
    | 0x101 => .ok (setCtx s c { x with epc := v })
    | 0x102 => .ok (setCtx s c { x with ecause := v.setWidth 8 })
    | 0x103 => .ok (setCtx s c { x with eaddr := v })
    | 0x104 => .ok (setCtx s c { x with hc := v.getLsbD 1, inh := v.getLsbD 0 })
    | _ => .error 0x01
  else .error 0x01

/-- R333, R340: a word that traps with `cause` whatever its operands hold; a source that names a send port traps with 0x01 before that, at decode (R377). -/
def trapsAs (i : Instr) (srcs : List Reg) (cause : Nat) (s : State) : State :=
  ctl i [] none (fun _ _ => .trap (if srcs.any fun r => decide (60 ≤ r.toNat) then 0x01 else cause) 0) s

/-- SETS (R400). Whether it traps does not depend on the value. -/
def execSets (a : Reg) (imm : BitVec 14) (s : State) : Outcome :=
  let i : Instr := .sets a imm
  match sysWrite s s.run.cur imm.toNat 0 with
  | .error cause => .next (trapsAs i [a] cause s)
  | .ok _ =>
    .next (ctl i [a] none (fun v s =>
      match sysWrite s s.run.cur imm.toNat (val0 v) with
      | .ok s' => .done s' none
      | .error cause => .trap cause 0) s)

/-! ## Traps and calls (R401 to R404) -/

/-- TRAP (R401). -/
def execTrap (imm : BitVec 20) (s : State) : Outcome :=
  .next (ctl (.trap imm) [] none (fun _ s =>
    let c := s.run.cur
    if isFw c then .away (enterHandler s c 0x03 ((curCtx s).pc + 4) (imm.setWidth 64) false false)
    else if imm.getLsbD 19 then .away (killTeam s c 0x03 (pcOffset (curCtx s) (curCtx s).pc) (imm.setWidth 64))
    else .done (notice s c 0x03 (imm.setWidth 64)) none) s)

/-- BRK (R402). -/
def execBrk (s : State) : Outcome :=
  .next (ctl .brk [] none (fun _ s =>
    let c := s.run.cur
    if isFw c then .away (enterHandler s c 0x04 ((curCtx s).pc + 4) 0 false false) else .done (notice s c 0x04 0) none) s)

/-- R120: a prologue's HCALL ends its run; the verdict s2 is taken by PROLOGUE_RUN. -/
def endPrologue (s : State) (c : Nat) : State :=
  let x := ctxAt s c
  postArg (setCtx (dropTurns (chargeCtx s c 0 1) (teamTurns c)) c { x with phase := .halted, count := x.count + 1 }) (.prologueRun x.v x.launch)
    { noArg with flag := true, n := c - 200, value := mget x.regs 2 0 }

/-- R208: the end call: nothing more is fetched; the team retires by TEAM_RETIRE once its lanes, commands and stores are done. -/
def endCall (s : State) (c : Nat) : State :=
  let s1 := chargeCtx (waitAt s c .ended) c 0 1
  post s1 (.teamRetire c)

/-- An HCALL: a prologue's run ends; a firmware core enters its handler; a team makes the call. -/
def hcall (i : Instr) (imm : Nat) (body : State → Do) (s : State) : Outcome :=
  .next (ctl i [] none (fun _ s =>
    let c := s.run.cur
    if isPrologue c then .away (endPrologue s c)
    else if isFw c then .away (enterHandler s c 0x03 ((curCtx s).pc + 4) (BitVec.ofNat 64 imm) true false)
    else body s) s)

/-- HCALL 0 (R208). -/
def execHcallEnd (s : State) : Outcome := hcall .hcallEnd 0 (fun s => .away (endCall s s.run.cur)) s

/-- HCALL 1 (R403): U of R132, at least 0; 0 for VNPU 0. -/
def quotaLeft (s : State) (v : Nat) : Word :=
  if v = 0 then 0 else match usableQuota s v with
    | some u => BitVec.ofNat 64 (u - (vnpuAt s v).eused)
    | none => 0
/-- R376: a load into one of the registers an HCALL writes has not returned. -/
def loadsInto (s : State) (l : List Nat) : Bool := l.any fun r => (mfind (curCtx s).busy r).isSome

def execHcallQuota (s : State) : Outcome :=
  hcall .hcallQuota 1 (fun s => if loadsInto s [2] then .wait .loads else .done (modCtx s s.run.cur fun x => { x with regs := mput x.regs 2 (quotaLeft s x.v) }) none) s

/-- HCALL 2 (R403). -/
def execHcallLevel (s : State) : Outcome :=
  hcall .hcallLevel 2 (fun s =>
    let lvl := (clusterAt s (clusterOf (coreOf s.run.cur))).level
    if loadsInto s [2, 3] then .wait .loads
    else .done (modCtx s s.run.cur fun x =>
      { x with regs := mput (mput x.regs 2 (BitVec.ofNat 64 lvl)) 3 (BitVec.ofNat 64 x.sched) }) none) s

/-- ERET (R404). On a firmware core it is a jump to EPC, which the end check of R373 follows. A drain stub's ERET waits for the stub's own accesses, so that none
lands in the registers that replace its own (log 12); the restore half's gives s1 to s63 and PC back as they were saved (R145). -/
def execEret (s : State) : Outcome :=
  .next (ctl .eret [] none (fun _ s =>
    let c := s.run.cur
    let x := curCtx s
    if isFw c then
      (if x.epc.toNat % 4 ≠ 0 then .trap 0x17 x.epc else .done (setCtx s c { x with inh := false }) (some x.epc))
    else if x.drain != .off && !x.mem.isEmpty then .wait .loads
    else match x.drain with
      | .off => .trap 0x01 0
      | .save _ =>
        .away (postArg (chargeOverhead (setCtx s c { x with pc := x.pc + 4, drain := .off, phase := .stopped, wait := .none }) 0 1)
          (.eviction c) { noArg with flag := true })
      | .restore _ =>
        let y := mget s.stubs c freshCtx
        .away (postArg (chargeOverhead { setCtx s c { x with regs := y.regs, pc := y.pc, drain := .off, wait := .none, phase := .loading } with stubs := mdel s.stubs c } 0 1)
          (.restore 0 c) { noArg with flag := true })) s)

/-- WFE (R405). On a firmware core the complex's internal events set EV too: which they are is open, so whether one has come is a free value at each try (log 82). -/
def execWfe (s : State) : Outcome :=
  .next (ctl .wfe [] none (fun _ s =>
    let c := s.run.cur
    if (curCtx s).ev then .done (modCtx s c fun x => { x with ev := false }) none
    else if isFw c then (if (freeAt s 0).getLsbD 0 then .done (useFree s) none else .away (waitAt (useFree s) c .wfe))
    else .wait .wfe) s)

/-- TSTAMP (R406). -/
def execTstamp (d : Reg) (s : State) : Outcome :=
  .next (ctl (.tstamp d) [] (some d) (fun _ s => .res s.tick s none) s)

/-! ## Firmware instructions (R407 to R409) -/

/-- R340 step 3: a word of major 0x3E traps with 0x02 at the unprivileged level. -/
def priv (i : Instr) (srcs : List Reg) (body : List Word → State → Do) (s : State) : Outcome :=
  .next (if isTeam s.run.cur && !privileged s s.run.cur then trapsAs i srcs 0x02 s else ctl i srcs none body s)

/-- R408: whether an access of the context is not yet acknowledged that went through one of the entries. One that is to be made again (R223, R226) stands on no
translation. -/
def accessThrough (x : Ctx) (l : List TlbEntry) : Bool :=
  x.mem.any fun p => p.place != .done && p.place != .pageHeld && l.any fun e => tlbMatches x.v p.va.toNat e

/-- An entry translates to the byte `pa` of a memory type; of a remote one, at its home module. -/
def entryCovers (e : TlbEntry) (mt home pa : Nat) : Bool :=
  leafMT e.leaf == mt && (mt != 2 || leafHome e.leaf == home) && decide (leafAddr e.size e.leaf 0 ≤ pa ∧ pa < leafAddr e.size e.leaf 0 + 2 ^ pageBits e.size)

/-- R221, R408: a request of an agent that `p` admits has gone through one of the entries and is not acknowledged: another module has it, or it is a write of an
engine or a front end that has been issued and waits. -/
def requestThrough (s : State) (p : Agent → Bool) (l : List TlbEntry) : Bool :=
  (s.run.asked.any fun a => p a.1 && l.any fun e => e.v == a.2.v && entryCovers e 2 a.2.dest a.2.pa) ||
    s.run.ledger.any fun g => p g.1 && match g.2 with
      | .write v _ mt home pa _ _ _ => l.any fun e => e.v == v && entryCovers e mt home pa
      | _ => false

/-- An agent of a core; nobody's request, and a store that a launch is owed, may be one of its. -/
def agentOn (core : Nat) : Agent → Bool
  | .access c | .turn (.seq c) | .turn (.lanes c) | .turn (.mem c) => isTeam c && coreOf c == core
  | .turn (.engine k _) => k == core
  | .turn .beat => false
  | .event e => match e.i with
    | .overlayLoad c | .eviction c | .restore _ c => coreOf c == core
    | _ => false
  | .launch _ | .nobody => true

/-- TLBINV (R408): it completes once every access of the core through an entry it drops has been acknowledged. -/
def execTlbinv (a b : Reg) (s : State) : Outcome :=
  priv (.tlbinv a b) [a, b] (fun v s =>
    let c := s.run.cur
    if isFw c then .done s none
    else if 16 < wbits (val1 v) 4 0 then .trap 0x01 0
    else
      let drops := tlbHit (wbits (val1 v) 4 0) (wbits (val1 v) 6 5) ((val1 v).getLsbD 7) (wbits (val0 v) 47 14)
      let l := (coreAt s (coreOf c)).tlb.filter drops
      if accessThrough (curCtx s) l || accessThrough (ctxAt s (otherBank c)) l || requestThrough s (agentOn (coreOf c)) l then .wait .loads
      else .done (modCore s (coreOf c) fun k => { k with tlb := k.tlb.filter fun e => !drops e }) none) s

/-- TLBLK (R409). A firmware core makes the checks and has no L1 TLB to lock in (log 16). A bucket of VNPU vn's tables in a LOST line is a machine-check of the team (R206). -/
def execTlblk (a b : Reg) (s : State) : Outcome :=
  priv (.tlblk a b) [a, b] (fun v s =>
    let c := s.run.cur
    let vn := wbits (val1 v) 4 0
    let va := val0 v
    if 16 < vn then .trap 0x01 0
    else match walk s vn va with
      | .ok size leaf =>
        let e := newEntry vn size va leaf
        let l := (coreAt s (coreOf c)).tlb
        if isFw c then (if pageMoving s (leafMT leaf) (leafAddr size leaf va) then .wait .held else .done s none) else
        let s1 := walkReads s (clusterOf (coreOf c)) c vn va.toNat
        if pageMoving s (leafMT leaf) (leafAddr size leaf va) then .wait .held
        else if l.any fun x => x.locked && x.v == vn && x.size == size && x.vpn == e.vpn then .done s1 none
        else if 192 ≤ lockedCount l then .trap 0x01 0
        else .done (modCore s1 (coreOf c) fun k => { k with tlb := tlbLock k.tlb e }) none
      | .absent m => .absent va 0 m
      | .unlocked => .absent va 0 false
      | .lost => if isFw c then .trap 0x25 va else .away (machineCheck s c .mem (match lostBucket s vn va.toNat with | some a => memUnit a | none => 0) (curCtx s).pc va)) s

/-- R248: a value LDOVT accepts. -/
def ovtLegal (v : Word) : Bool :=
  wbits v 63 10 == 0 && wbits v 9 8 != 3 && (wbits v 7 6 == 0 || wbits v 7 6 == 2) && wbits v 5 4 != 3 && wbits v 3 2 != 3 && wbits v 1 0 != 3

/-- LDOVT (R407). -/
def execLdovt (a : Reg) (s : State) : Outcome :=
  priv (.ldovt a) [a] (fun v s =>
    if ovtLegal (val0 v) then .done (modCtx s s.run.cur fun x => { x with ovt := val0 v }) none else .trap 0x01 0) s

/-- HALT (R407): a firmware core stops until its complex's reset; in a team, the end call. -/
def execHalt (s : State) : Outcome :=
  priv .halt [] (fun _ s =>
    let c := s.run.cur
    if isFw c then .away (setCtx (dropTurns s (teamTurns c)) c { curCtx s with phase := .halted }) else .away (endCall s c)) s

/-- ILLEGAL_INSTRUCTION (R340): 0x01. An HCALL with another number enters a firmware core's handler (R379, R403); in a prologue every HCALL ends the run, whatever its
operand fields hold (R118). -/
def execIllegalInstruction (w : BitVec 32) (s : State) : Outcome :=
  if w.extractLsb' 20 12 = 0xD40 ∨ (isPrologue s.run.cur ∧ w.extractLsb' 26 6 = 0x35) then hcall (.illegalInstruction w) (w.toNat % 2 ^ 20) (fun _ => .trap 0x01 0) s
  else .next (ctl (.illegalInstruction w) [] none (fun _ _ => .trap 0x01 0) s)

end Sys2Proof.Machine
end

