-- ==== Sys2Proof/Machine/Launch.lean ====
section
/-!
DEFINITION. Launches (R112 to R116, R136), indirect launches and prologues (R117 to R120), destroying a queue (R124, R125).
-/
namespace Sys2Proof.Machine

/-! ## The image header (R321) -/

def headerOf (h : List Byte) : ImageHeader :=
  { magic := fieldAt h 0 4, major := fieldAt h 6 2, fid := fieldAt h 8 1, nspat := fieldAt h 9 1, gran := fieldAt h 10 2,
    lreg := fieldAt h 12 2, accs := fieldAt h 14 1, lvlmap := fieldAt h 16 2, nsw := fieldAt h 18 2, ndr := fieldAt h 20 2,
    npin := fieldAt h 22 2, nloop := fieldAt h 24 1, entries := (List.range 6).map fun i => fieldAt h (32 + 4 * i) 4,
    ctext := fieldAt h 56 4, clen := fieldAt h 60 4, lane := fieldAt h 64 4, llen := fieldAt h 68 4, loops := fieldAt h 72 4,
    swtab := fieldAt h 76 4, drtab := fieldAt h 80 4, pins := fieldAt h 84 4 }

/-- R116 step 5: the front end reads the header and its loop table. -/
def readHeader (s : State) (die v : Nat) (image : Word) : Except Nat (State × ImageHeader) :=
  match feReadN die v 128 image s with
  | .error c => .error c
  | .ok (s1, b) =>
    let h := headerOf b
    match feReadN die v (8 * h.nloop) (image + BitVec.ofNat 64 h.loops) s1 with
    | .error c => .error c
    | .ok (s2, _) => .ok (s2, h)

/-! ## Capacity (R136) -/

/-- R21, R134: granules a core offers. -/
def usableGranules (s : State) (core : Nat) : Nat := 256 - (coreAt s core).withheld.length

/-- R27, R178: the core can hold teams. -/
def corePresent (s : State) (core : Nat) : Bool := !(coreAt s core).absent && (clusterAt s (clusterOf core)).gstate == 0

def coreCapacity (s : State) (core : Nat) (h : ImageHeader) : Nat :=
  if 2 * h.gran ≤ usableGranules s core ∧ 2 * h.accs ≤ 4 then 2
  else if h.gran ≤ usableGranules s core ∧ h.accs ≤ 4 then 1 else 0

def windowCores (w : Window) : List Nat := (List.range 96).filter fun c => w.cores.getLsbD c

def windowCapacity (s : State) (w : Window) (h : ImageHeader) : Nat :=
  ((windowCores w).filter (corePresent s)).foldl (fun a c => a + coreCapacity s c h) 0

/-- The largest capacity among the windows in force that serve a VNPU. -/
def largestCapacity (s : State) (v : Nat) (h : ImageHeader) : Nat :=
  (s.frame.view.zipIdx).foldl (fun a e => if serves s e.2 e.1 v then max a (windowCapacity s e.1 h) else a) 0

/-! ## The front end's checks (R112, R113, R116) -/

def recImage (r : List Byte) : Word := BitVec.ofNat 64 (fieldAt r 0 8)
def recArgs (r : List Byte) : Word := BitVec.ofNat 64 (fieldAt r 8 8)
def recDone (r : List Byte) : Word := BitVec.ofNat 64 (fieldAt r 40 8)
def recTrips (r : List Byte) : List Nat := (List.range 4).map fun i => fieldAt r (24 + 4 * i) 4
def recTeams (r : List Byte) : Nat := (recTrips r).foldl (· * ·) 1
def recLinked (r : List Byte) : Bool := fieldAt r 18 1 == 1

inductive Checked where
  | reject (reason : Nat)
  | empty
  | ok (h : ImageHeader)

/-- R115, R116: checks 0x01 to 0x04 on a header that has been read. -/
def checkHeader (s : State) (v : Nat) (r : List Byte) (h : ImageHeader) : Checked :=
  if h.magic ≠ 0x494B4847 then .reject 0x01
  else if h.major ≠ 1 then .reject 0x02
  else if 4 < h.nspat ∨ ((recTrips r).drop h.nspat).any (· != 1) then .reject 0x05
  else if 255 < h.gran ∨ 256 < h.lreg ∨ 4 < h.accs then .reject 0x03
  else if recLinked r ∧ largestCapacity s v h < recTeams r then .reject 0x04
  else .ok h

def checkLaunch (s : State) (die v : Nat) (r : List Byte) : State × Checked :=
  if fieldAt r 18 1 / 2 ≠ 0 ∨ !allZero ((r.drop 48).take 16) then (s, .reject 0x07)
  else if fieldAt r 0 8 % 4096 ≠ 0 ∨ fieldAt r 8 8 % 64 ≠ 0 ∨ fieldAt r 40 8 % 32 ≠ 0 ∨ 4096 < fieldAt r 16 2 then (s, .reject 0x06)
  else if 2 ^ 24 < recTeams r then (s, .reject 0x05)
  else if recTeams r = 0 then (s, .empty)
  else match readHeader s die v (recImage r) with
    | .error c => (s, .reject c)
    | .ok (s1, h) => (s1, checkHeader s1 v r h)

/-- A launch that has passed its checks. -/
def launchOf (v q seq run : Nat) (r : List Byte) (h : ImageHeader) : Launch :=
  { v, q, seq, run, image := recImage r, args := recArgs r, arglen := fieldAt r 16 2, linked := recLinked r, phasel := fieldAt r 19 1,
    eclass := fieldAt r 20 4, trips := recTrips r, doneaddr := recDone r, hdr := h, nteams := recTeams r, next := 0, ended := [],
    retired := 0, faulted := false, epoch := 0, cids := [], merged := 0, final := none }

/-- What starting a launch record comes to: a launch; a completed record with its STATUS. -/
inductive Started where
  | launched (l : Nat)
  | ended (status : Nat)

/-- R116: the record is checked; it becomes a launch, completes at once, or is rejected. -/
def startLaunch (s : State) (v q seq run : Nat) (r : List Byte) : State × Started :=
  match checkLaunch s (feDie q) v r with
  | (s1, .reject reason) => (completeRecord s1 v q 2 reason run seq 0 (recDone r), .ended 2)
  | (s1, .empty) => (completeRecord s1 v q 0 0 run seq 0 (recDone r), .ended 0)
  | (s1, .ok h) =>
    let l := s1.nextLaunch
    (askServing { s1 with launches := mput s1.launches l (launchOf v q seq run r h), nextLaunch := l + 1 } v, .launched l)

/-- LAUNCH (R109, R112, R116). -/
def execLaunch (v q : Nat) (s : State) : Outcome :=
  .next <| match headOf s v q 2 with
    | none => s
    | some p =>
      if !mayLaunch s v q then s
      else popHead (startLaunch s v q p.seq 0 ((p.data.drop 16).take 64)).1 v q

/-! ## Indirect launch (R117 to R120) -/

def setInd (s : State) (v q : Nat) (i : Option Indirect) : State := modQueue s v q fun x => { x with ind := i }

/-- LAUNCH_INDIRECT (R117): the initial record is copied; the first run asks for the front end. -/
def execLaunchIndirect (v q : Nat) (s : State) : Outcome :=
  .next <| match headOf s v q 3 with
    | none => s
    | some p =>
      if !mayLaunch s v q then s
      else
        let i : Indirect := { packet := p, before := (queueAt s v q).copies.map (·.1), run := 0, phase := .ready, record := (p.data.drop 16).take 64, teams := 0, status := 0 }
        post (setInd (popHead s v q) v q (some i)) (.prologueRun v q)

/-- R117: the registers at the start of a run. -/
def prologueRegs (i : Indirect) : SMap Word :=
  [(1, 0x0000FFFFFFFFFFC0), (2, BitVec.ofNat 64 i.packet.seq), (3, BitVec.ofNat 64 i.run), (4, BitVec.ofNat 64 i.teams), (5, BitVec.ofNat 64 i.status)]

def prologueCtx (v q : Nat) (i : Indirect) : Ctx :=
  { freshCtx with phase := .running, v := v, launch := q, seq := i.packet.seq, regs := prologueRegs i,
                  pc := BitVec.ofNat 64 (pktHw2 i.packet.data), record := writeBytes [] 0 i.record }

/-- The LAUNCH_INDIRECT is over: its queue goes on. -/
def endIndirect (s : State) (v q : Nat) : State := kick (setInd s v q none) v q

/-- R119: the record buffer as a run that is cancelled left it. -/
def keepRecord (s : State) (v q : Nat) (record : List Byte) : State :=
  match (queueAt s v q).ind with
  | some i => setInd s v q (some { i with record := record })
  | none => s

/-- R119, R120: the launch is cancelled. -/
def cancelIndirect (s : State) (v q reason : Nat) : State :=
  match (queueAt s v q).ind with
  | none => s
  | some i => endIndirect (completeRecord s v q 3 reason i.run i.packet.seq 0 (recDone i.record)) v q

/-- R120: the next run is due. -/
def nextRun (s : State) (v q : Nat) (i : Indirect) (teams status : Nat) : State :=
  post (setInd s v q (some { i with run := i.run + 1, phase := .ready, teams, status })) (.prologueRun v q)

/-- R120: the record buffer is launched; `again` after verdict 3. -/
def launchRun (s : State) (v q : Nat) (i : Indirect) (again : Bool) : State :=
  match startLaunch s v q i.packet.seq i.run i.record with
  | (s1, .launched l) => setInd s1 v q (some { i with phase := if again then .afterLaunch l else .lastLaunch l })
  | (s1, .ended status) => if again then nextRun s1 v q i 0 status else endIndirect s1 v q

/-- R120: the verdict that s2 gives: a 256th run's is not repeated. -/
def verdictOf (i : Indirect) (s2 : Nat) : Nat := if i.run = 255 then (if s2 = 2 then 1 else if s2 = 3 then 0 else s2) else s2

/-- R120: the verdict of a run. The STATUS that the next run of a repeat reads in s5 is a free value: no run's record exists. -/
def verdict (s : State) (v q : Nat) (i : Indirect) (s2 : Nat) : State :=
  match verdictOf i s2 with
  | 0 => launchRun s v q i false
  | 1 => cancelIndirect s v q 0
  | 2 => resumeIndirect (useFree (setInd s v q (some { i with phase := .afterAll, run := i.run + 1, teams := 0, status := (freeAt s 0).toNat % 256 }))) v q
  | 3 => launchRun s v q i true
  | _ => cancelIndirect s v q 0x0B

/-- PROLOGUE_RUN (R117, R120): a run that ended at HCALL gives its verdict and frees the front end; a run that is due starts when the front
end is free. -/
def execPrologueRun (v q : Nat) (s : State) : Outcome :=
  let c := 200 + feDie q
  let x := ctxAt s c
  .next <| match (queueAt s v q).ind with
    | none => s
    | some i =>
      if i.phase = .running ∧ x.phase = .halted ∧ x.v = v ∧ x.launch = q then
        let j := { i with record := readBytes x.record 0 64 }
        wakePrologues (setCtx (verdict (setInd s v q (some j)) v q j (mget x.regs 2 0).toNat) c freshCtx) (feDie q)
      else if i.phase = .ready ∧ x.phase = .empty then
        addTurns (setInd (setCtx s c (prologueCtx v q i)) v q (some { i with phase := .running })) [.seq c]
      else s

/-- PROLOGUE_BUDGET_EXCEEDED (R118, R119): the 4,097th instruction is due; or, with `flag`, the run of queue `m` of VNPU `n` met `off`, its record buffer
holding `data`. -/
def execPrologueBudgetExceeded (die : Nat) (s : State) : Outcome :=
  let a := s.run.arg
  let c := 200 + die
  let x := ctxAt s c
  .next <|
    if a.flag then wakePrologues (cancelIndirect (keepRecord (setCtx s c freshCtx) a.n a.m a.data) a.n a.m a.off) die
    else if x.phase = .running ∧ 4096 ≤ x.count then
      wakePrologues (cancelIndirect (keepRecord (setCtx (dropTurns s (teamTurns c)) c freshCtx) x.v x.launch (readBytes x.record 0 64)) x.v x.launch 0x08) die
    else s

/-! ## Completion (R110, R114) -/

/-- R120: a LAUNCH_INDIRECT's launch has completed. -/
def indirectAfter (s : State) (v q l teams status : Nat) : State :=
  match (queueAt s v q).ind with
  | some i => if i.phase = .afterLaunch l then nextRun s v q i teams status else if i.phase = .lastLaunch l then endIndirect s v q else s
  | none => s

/-- No bank waits for a launch any more. -/
def dropClaims (s : State) (l : Nat) : State := modFrame s fun f => { f with claims := f.claims.filter fun e => e.2 != l }

/-- A launch leaves the device, with what rejected collectives of it have left (R461). -/
def dropLaunch (s : State) (l : Nat) : State :=
  { dropClaims s l with launches := mdel s.launches l, collectives := s.collectives.filter fun w => !(w.bad && w.launch == l) }

/-- The launch leaves the device with its record; its queue goes on, or its destruction (R124). -/
def finishLaunch (s : State) (l status reason : Nat) : State :=
  match launchAt s l with
  | none => s
  | some x =>
    let s1 := completeRecord s x.v x.q status reason x.run x.seq x.retired x.doneaddr
    let s2 := dropLaunch s1 l
    let s3 := resumeIndirect (kick (indirectAfter s2 x.v x.q l x.retired status) x.v x.q) x.v x.q
    if (queueAt s3 x.v x.q).busy then post s3 (.destroyDone x.v x.q) else s3

/-- R125: an earlier launch of the queue has been ended from outside and has not got its record yet. -/
def earlierEnded (s : State) (l : Nat) (x : Launch) : Bool :=
  (launchesOf s x.v x.q).any fun k => decide (k < l) && match launchAt s k with | some y => y.final.isSome | none => false

/-- LAUNCH_COMPLETE (R110, R114): a launch that has been ended from outside gets the record due (R124, R136), after those that started before it (R125). R114 gives no
REASON for STATUS 4: it is 0 (DESIGN CHOICE, log 98). -/
def execLaunchComplete (l : Nat) (s : State) : Outcome :=
  .next <| match launchAt s l with
    | some x =>
      match x.final with
      | some (status, reason) => if earlierEnded s l x then stall s else finishLaunch s l status reason
      | none => if launchOver s l then finishLaunch s l (if x.faulted then 4 else 0) 0 else s
    | none => s

/-! ## Ending a launch's teams from outside (R94, R124) -/

/-- The context that holds each resident team of a launch. -/
def residentOf (s : State) (l : Nat) : List Nat :=
  (s.ctxs.filter fun e => decide (e.1 < 192) && e.2.phase != .empty && e.2.launch == l).map (·.1)

def savesOf (s : State) (l : Nat) : List Nat := (s.saves.filter fun e => e.2.ctx.launch == l).map (·.1)

/-- An evicted team is discarded with its save area; its accumulator sets lose their tags. -/
def discardSave (s : State) (id : Nat) : State :=
  match mfind s.saves id with
  | none => s
  | some x =>
    let s1 := dropImage { s with saves := mdel s.saves id } x.core x.ctx.image x.ctx.v
    { s1 with cores := s1.cores.map fun e => (e.1, { e.2 with accs := e.2.accs.map fun a =>
        match a.2.owner with
        | some o => if o.v = x.ctx.v ∧ o.launch = x.ctx.launch ∧ o.team = x.ctx.team ∧ o.evicted then (a.1, { a.2 with owner := none, lastV := x.ctx.v }) else a
        | none => a }) }

/-- Every team of a launch ends: the resident ones are killed, the evicted ones discarded. -/
def killLaunchTeams (s : State) (l : Nat) : State :=
  (savesOf s l).foldl discardSave ((residentOf s l).foldl (fun t c => endTeam t c true false) s)

/-- R137: a hold of a launch ends, and no bank waits for it. -/
def dropHold (s : State) (l : Nat) : State := dropClaims (modFrame s fun f => { f with holds := f.holds.filter fun e => e.2 != l }) l

/-- An event that writes the record of launch l. -/
def recordAgent (l : Nat) : Agent → Bool
  | .event e => e.i == .launchComplete l
  | _ => false

/-- The launch's teams end; with `record` its record is due, which may have to wait for its store; without one, a store of a record that waits is not made (R97). -/
def endLaunch (s : State) (l : Nat) (record : Option (Nat × Nat)) : State :=
  match launchAt s l with
  | none => s
  | some _ =>
    match record with
    | some _ => post (dropHold (killLaunchTeams (modLaunch s l fun x => { x with final := record }) l) l) (.launchComplete l)
    | none => detach (dropLaunch (dropHold (killLaunchTeams s l) l) l) (recordAgent l) 999

/-- An event of queue q of VNPU v's packets. -/
def queueAgent (v q : Nat) : Agent → Bool
  | .event e => match e.i with
    | .packetTake a b | .launch a b | .launchIndirect a b | .wait a b | .waitPoll a b | .signal a b | .timestamp a b | .copy a b | .prologueRun a b => a == v && b == q
    | .prologueBudgetExceeded _ => e.arg.flag && e.arg.n == v && e.arg.m == q
    | _ => false
  | _ => false

/-- A store that the agent has issued is a packet's own, no completion record. -/
def packetStore : Agent → Bool
  | .event e => match e.i with
    | .signal _ _ | .timestamp _ _ | .copy _ _ => true
    | _ => false
  | _ => false

/-- R94 step 4, R97: a request of a queue's packets that completes: all that they have issued but the stores of completion records. -/
def queueOwes (v q : Nat) (e : Agent × Given) : Bool :=
  queueAgent v q e.1 && (match e.2 with | .write _ _ _ _ _ _ _ _ => packetStore e.1 | _ => true)

/-- R94 step 4, R124: what a queue's packets have issued completes, with nobody waiting for it (DEDUCED for a packet that R124 abandons, log 106). -/
def completeQueue (s : State) (v q : Nat) : State :=
  detach ((s.run.ledger.filter (queueOwes v q)).foldl (completeEntry .nobody) s) (queueAgent v q) 999

/-- A front end's prologue stops: the requests that it has issued complete, and the front end is free. -/
def stopPrologue (s : State) (c : Nat) : State :=
  let s1 := (s.run.ledger.filter fun e => issuedFor e.2 == some c).foldl (completeEntry .nobody) s
  setCtx (dropTurns (detachHeld s1 c) (teamTurns c)) c freshCtx

/-- R92, R94, R124: a queue's packets and what is in progress are abandoned; a prologue stops with no record. -/
def abandonQueue (s : State) (v q : Nat) : State :=
  let c := 200 + feDie q
  let x := ctxAt s c
  let s1 := completeQueue (if x.phase ≠ .empty ∧ x.v = v ∧ x.launch = q then stopPrologue s c else s) v q
  wakePrologues (modQueue s1 v q fun y => { y with packets := [], head := .idle, ind := none, copies := [] }) (feDie q)

/-! ## Destroying a queue (R124, R125) -/

/-- R124: every ring of the group is disabled. -/
def disableRings (s : State) (v q : Nat) : State :=
  (List.range 64).foldl (fun t r => if (queueAt s v q).rmask.getLsbD r then modRing t v r fun x => { x with en := false } else t) s

/-- R124, R125: what becomes of a launch record whose checks event `e` makes at the front end, and waits to make: its own verdict where it has one, else it is destroyed. -/
def launchVerdict (s : State) (e : Event) (die v : Nat) (r : List Byte) : Nat × Nat :=
  match checkLaunch (began (.event e) s) die v r with
  | (t, c) =>
    if t.run.stuck then (1, 0)
    else match c with
      | .reject reason => (2, reason)
      | .empty => (0, 0)
      | .ok _ => (1, 0)

/-- An event of `p` has begun its step, and waits. -/
def begunEvent (s : State) (p : Event → Bool) : Option Event :=
  s.run.ledger.findSome? fun g => match g with | (.event e, .began _) => if p e then some e else none | _ => none

/-- R124, R125: the record due of a launch of the queue that is with its front end: the event that waits, SEQ, RUN, launch record, STATUS and REASON: a LAUNCH in progress, a run's
launch, or a run that has been cancelled. -/
def standing (s : State) (v q : Nat) : Option (Event × Nat × Nat × List Byte × Nat × Nat) :=
  let x := queueAt s v q
  match x.packets, x.ind with
  | p :: _, none =>
    if x.head = .begun ∧ p.ty = 2 then
      let e : Event := { i := .launch v q, arg := noArg }
      let r := (p.data.drop 16).take 64
      some (e, p.seq, 0, r, launchVerdict s e (feDie q) v r)
    else none
  | _, some i =>
    match begunEvent s fun e => e.i == .prologueRun v q,
        (s.run.inputs ++ s.run.later).find? fun e => e.i == .prologueBudgetExceeded (feDie q) && e.arg.flag && e.arg.n == v && e.arg.m == q with
    | some e, _ =>
      let y := ctxAt s (200 + feDie q)
      let r := readBytes y.record 0 64
      match verdictOf i (mget y.regs 2 0).toNat with
      | 0 | 3 => some (e, i.packet.seq, i.run, r, launchVerdict s e (feDie q) v r)
      | 1 => some (e, i.packet.seq, i.run, r, 3, 0)
      | 2 => none
      | _ => some (e, i.packet.seq, i.run, r, 3, 0x0B)
    | none, some e => some (e, i.packet.seq, i.run, e.arg.data, 3, e.arg.off)
    | none, none => none
  | _, none => none

/-- What an agent has been given and waits for is another one's from now on. -/
def handGiven (s : State) (a b : Agent) : State :=
  let f := fun (w : Agent) => if w = a then b else w
  { s with
    buckets := s.buckets.map fun e => (e.1, { e.2 with held := e.2.held.map fun h => { h with who := f h.who } })
    run := { s.run with ledger := s.run.ledger.map fun e => (f e.1, e.2), asked := s.run.asked.map fun e => (f e.1, e.2) } }

/-- R124, R125: a launch that is with its front end as its queue is destroyed gets its record by LAUNCH_COMPLETE, whose store goes on where it has begun. -/
def keepStanding (s : State) (v q : Nat) : State :=
  match standing s v q with
  | none => s
  | some (e, seq, run, r, final) =>
    let l := s.nextLaunch
    let s1 := { s with launches := mput s.launches l { launchOf v q seq run r noHeader with nteams := 0, final := some final }, nextLaunch := l + 1 }
    post (if final.1 = 1 then s1 else handGiven s1 (.event e) (.event { i := .launchComplete l, arg := noArg })) (.launchComplete l)

/-- DESTROY (R124): ignored while BUSY is 1. A launch that is completing keeps its own record (R125). -/
def execDestroy (v q : Nat) (s : State) : Outcome :=
  .next <|
    if (queueAt s v q).busy then s
    else
      let s1 := disableRings (modQueue s v q fun x => { x with en := false, busy := true }) v q
      let s2 := abandonQueue (keepStanding s1 v q) v q
      let s3 := (launchesOf s2 v q).foldl (fun t l => if launchOver t l then t else endLaunch t l (some (1, 0))) s2
      post s3 (.destroyDone v q)

/-- DESTROY_DONE (R124): once every launch of the queue has its record. -/
def execDestroyDone (v q : Nat) (s : State) : Outcome :=
  .next (if (queueAt s v q).busy && (launchesOf s v q).isEmpty then modQueue s v q fun x => { x with busy := false, done := true } else s)

end Sys2Proof.Machine
end

