-- ==== Sys2Proof/Machine/Sched.lean ====
section
/-!
DEFINITION. The priority dispatcher (R130 to R138) and the placement of teams (R121, R122, R134, R182, R208, R295).
-/
namespace Sys2Proof.Machine

/-! ## Offers (R130) -/

/-- Clusters by descending granted level, ties from the round-robin pointer of window i's dispatcher on. -/
def clusterOrder (s : State) (i : Nat) : List Nat :=
  (List.range 8).reverse.flatMap fun lvl =>
    ((List.range 12).map fun j => (mget s.frame.rrCluster i 0 + j) % 12).filter fun k => (clusterAt s k).level == lvl

/-- The banks of a window's cores, in the order they are offered. -/
def bankOrder (s : State) (i : Nat) (w : Window) : List Nat :=
  (clusterOrder s i).flatMap fun k =>
    ((List.range 8).filter fun j => w.cores.getLsbD (8 * k + j)).flatMap fun j => [2 * (8 * k + j), 2 * (8 * k + j) + 1]

/-- A bank that a decision offers: empty, or with a stopped team that is not already leaving (R141), and that is not the class A VNPU's in its window (R146). -/
def offerable (s : State) (c : Nat) : Bool :=
  let x := ctxAt s c
  corePresent s (coreOf c) && !(coreAt s (coreOf c)).frozen && !(coreAt s (coreOf c)).leaving &&
    (x.phase == .empty || (x.phase == .stopped && !x.evict && x.drain == .off && !inClassA s c))

/-! ## Eligibility and fit (R131 to R134) -/

/-- R133. -/
def usableCluster (s : State) (k : Nat) (h : ImageHeader) : Bool := decide (schedOf h (clusterAt s k).level ≤ 1)

/-- Evicted teams of a launch whose restore is not yet due. -/
def evictedOf (s : State) (l : Nat) : List (Nat × Saved) := s.saves.filter fun e => e.2.ctx.launch == l && !e.2.placing

/-- Teams of a launch that wait for a bank. -/
def waitingTeams (s : State) (l : Nat) (x : Launch) : Nat := (evictedOf s l).length + (x.nteams - x.next)

/-- Banks that are being emptied for a launch, or have been and wait for its team (R476). -/
def claimsOf (s : State) (l : Nat) : Nat := (s.ctxs.filter fun e => e.2.evict && e.2.evictFor == l).length + (s.frame.claims.filter fun e => e.2 == l).length

/-- R476: the launch for which an empty bank has been emptied. -/
def claimOf (s : State) (c : Nat) : Option Nat := if (ctxAt s c).phase == .empty then mfind s.frame.claims c else none

/-- R163: quota exhaustion keeps the VNPU's teams out, but for a class A VNPU in its windows. -/
def quotaAllows (s : State) (v : Nat) : Bool := !(vnpuAt s v).exhausted || classOf s v == 1

/-- The launch still has a team for a bank that has been emptied for it, and may place it. -/
def claimStands (s : State) (k : Nat) : Bool :=
  match launchAt s k with | some x => x.final.isNone && quotaAllows s x.v && waitingTeams s k x != 0 | none => false

/-- A bank that launch l may take in window i: emptied for no other launch that waits for it; a launch that holds the window takes any (R137). -/
def unclaimed (s : State) (i c l : Nat) : Bool :=
  mfind s.frame.holds i == some l || match claimOf s c with | some k => k == l || !claimStands s k | none => true

/-- R132. -/
def energyAllows (s : State) (x : Launch) : Bool :=
  x.v == 0 || x.next != 0 ||
    match usableQuota s x.v with
    | some u => decide ((vnpuAt s x.v).eused < u ∧ x.eclass * 1024 ≤ u - (vnpuAt s x.v).eused)
    | none => false

/-- R295: the epoch count wraps only when every earlier launch of the VNPU has completed. -/
def epochAllows (s : State) (x : Launch) : Bool :=
  x.epoch != 0 || (vnpuAt s x.v).epoch != 65535 || !(s.launches.any fun e => e.2.v == x.v && e.2.epoch != 0)

/-- R131 to R133, R136: the launch is eligible in window w. -/
def eligible (s : State) (w : Window) (x : Launch) : Bool :=
  quotaAllows s x.v && energyAllows s x && epochAllows s x && ((windowCores w).any fun c => corePresent s c && usableCluster s (clusterOf c) x.hdr) &&
    (!x.linked || decide (x.nteams ≤ windowCapacity s w x.hdr))

/-- The team of a launch that is placed next: its first evicted team, or none for its next new one (R134). -/
def nextEvicted (s : State) (l : Nat) : Option (Nat × Saved) :=
  (evictedOf s l).foldl (fun a e => match a with | some b => if e.2.ctx.team < b.2.ctx.team then some e else a | none => some e) none

/-- R134, R182: the granules bank c's team can have once the bank is empty: usable ones that the other bank does not hold. -/
def freeGranules (s : State) (c : Nat) : List Nat :=
  (List.range 256).filter fun g => !(coreAt s (coreOf c)).withheld.contains g && !(ctxAt s (otherBank c)).gran.contains g

/-- R134: the bank fits the launch's next team once the bank is empty. -/
def fits (s : State) (l : Nat) (x : Launch) (c : Nat) : Bool :=
  let o := ctxAt s (otherBank c)
  let mins := match nextEvicted s l with | some e => sumOver (qMin e.2.ctx) | none => sumOver minDefault
  usableCluster s (clusterOf (coreOf c)) x.hdr && guardAllows s (coreOf c) x.v &&
    decide (x.hdr.gran ≤ (freeGranules s c).length) && decide (x.hdr.accs + o.accs.length ≤ 4) &&
    decide (mins + sumOver (qMin o) ≤ 1024)

/-- The launch may be chosen for bank c: it has a team for it, is eligible and fits. A stopped team's bank is not taken for its own launch. -/
def chosenFor (s : State) (w : Window) (c l : Nat) (x : Launch) : Bool :=
  let y := ctxAt s c
  let n := waitingTeams s l x
  x.final.isNone && (if claimOf s c == some l then decide (0 < n) else decide (claimsOf s l < n) && (y.phase == .empty || y.launch != l)) && eligible s w x && fits s l x c

/-- R97: window i is a class A window of VNPU v in which it has been reset: its cores stay idle to its end. -/
def windowIdle (s : State) (i v : Nat) : Bool := s.frame.idle.contains (i, v)

/-- R131: the search over levels and queues for a bank, among the launches that `ok` admits: the level, the queue, the launch. -/
def searchFor (ok : Nat → Bool) (s : State) (i : Nat) (w : Window) (c : Nat) : Option (Nat × Nat × Nat) :=
  let held := mfind s.frame.holds i
  let queues := fun (p : Nat) => ((List.range 272).map fun j => (mget s.frame.rrLevel (32 * i + p) 0 + j) % 272).filter fun n =>
    let q := queueAt s (n / 16) (n % 16)
    q.en && q.prio == p && !q.busy && !(vnpuAt s (n / 16)).resetting && serves s i w (n / 16) && !windowIdle s i (n / 16)
  (List.range 32).reverse.findSome? fun p =>
    (queues p).findSome? fun n =>
      ((launchesOf s (n / 16) (n % 16)).find? fun l =>
        ok l && (match held with | some h => h == l | none => true) &&
          match launchAt s l with | some x => chosenFor s w c l x | none => false).map fun l => (p, n, l)

/-- R131, R476: the choice for a bank: the launch it has been emptied for, else any other. -/
def search (s : State) (i : Nat) (w : Window) (c : Nat) : Option (Nat × Nat × Nat) :=
  match claimOf s c with
  | some l => orElse (searchFor (· == l) s i w c) fun _ => searchFor (fun _ => true) s i w c
  | none => searchFor (fun _ => true) s i w c

/-- A claim has served its purpose. -/
def dropClaim (s : State) (c : Nat) : State := modFrame s fun f => { f with claims := mdel f.claims c }

/-! ## Placement -/

/-- R182: bank A from the lowest usable granule upward, bank B from the highest downward. -/
def allot (s : State) (c n : Nat) : List Nat :=
  if bankOf c = 0 then (freeGranules s c).take n else (freeGranules s c).reverse.take n

/-- Sets a team receives: those the other bank's team does not hold, sets under no evicted owner's tag first. -/
def pickSets (s : State) (c n : Nat) : List Nat :=
  let free := (List.range 4).filter fun p => !(ctxAt s (otherBank c)).accs.contains p
  let tagged := fun p => match (setAt s (coreOf c) p).owner with | some o => o.evicted | none => false
  ((free.filter fun p => !tagged p) ++ free.filter tagged).take n

/-- R208: granules and sets last used by another VNPU are zeroed before a team of VNPU v is placed. -/
def zeroGranule (m : Memory) (g : Nat) : Memory := m.filter fun e => e.1 / 4096 != g
def clearForVnpu (s : State) (c v : Nat) (gran accs : List Nat) : State :=
  modCore s (coreOf c) fun k =>
    { k with
      scratch := gran.foldl (fun m g => if mget k.lastV g 0 = v then m else zeroGranule m g) k.scratch
      owner := k.owner.filter fun e => !gran.contains e.1
      accs := accs.foldl (fun m p =>
        let a := mget m p freshSet
        if a.owner.isNone ∧ a.lastV ≠ v then mput m p { freshSet with lastV := v } else m) k.accs }

/-- R122: the spatial indices of a team. -/
def teamIdx (trips : List Nat) (t : Nat) : List Nat :=
  let n := fun i => trips.getD i 1
  [t % n 0, t / n 0 % n 1, t / (n 0 * n 1) % n 2, t / (n 0 * n 1 * n 2)]

/-- R85: the effective fidelity. R321 gives FID 0 to 3, and R116 does not check it: of a header's byte above 3 the low two bits are requested (DESIGN CHOICE, log
104). -/
def effectiveFid (s : State) (x : Launch) : Nat :=
  match mfind s.contracts.inForce x.v with
  | some c => min (x.hdr.fid % 4) (fieldAt c.bytes 2 1 % 4)
  | none => x.hdr.fid % 4

/-- R121: the boot mailbox's words. -/
def bootWords (x : Launch) (c t fid : Nat) (idx : List Nat) : List Word :=
  [x.image &&& 0xFFFFFFFFFFFF#64, BitVec.ofNat 64 (x.arglen * 2 ^ 48 + x.args.toNat % 2 ^ 48),
   BitVec.ofNat 64 (idx.getD 1 0 * 2 ^ 24 + idx.getD 0 0), BitVec.ofNat 64 (idx.getD 3 0 * 2 ^ 24 + idx.getD 2 0),
   BitVec.ofNat 64 (2 ^ 63 + bankOf c * 2 ^ 60 + fid * 2 ^ 58 + x.v * 2 ^ 53 + x.nteams * 2 ^ 24 + t)]

/-- R295: race-store entries of VNPU v are invalidated: the VALID bits of its tag and clock entries go. -/
def invalidateRace (s : State) (v : Nat) : State :=
  let base := s.xlate.rsBase
  let clocks := base + 16 * 2 ^ (20 + s.xlate.rsN)
  let stop := clocks + 256 * 2 ^ (14 + s.xlate.rsN)
  let id := fun (a : Nat) =>
    if base ≤ a ∧ a < clocks ∧ (a - base) % 16 = 15 then some (a - 7)
    else if clocks ≤ a ∧ a < stop ∧ (a - clocks) % 256 = 135 then some (a - 7) else none
  s.dev.foldl (fun t e =>
    match id (logicalAddr s e.1) with
    | some b => if nbits (readLe s.dev (servedAddr s b) 8) 44 40 = v then { t with dev := writeByte t.dev e.1 (e.2 &&& 0x7F#8) } else t
    | none => t) s

/-- R295: the launch receives its epoch at its first placement. -/
def giveEpoch (s : State) (l : Nat) : State :=
  match launchAt s l with
  | none => s
  | some x =>
    if x.epoch ≠ 0 then s
    else
      let old := (vnpuAt s x.v).epoch
      let e := if old = 65535 then 1 else old + 1
      let s1 := if old = 65535 then invalidateRace s x.v else s
      modLaunch (modVnpu s1 x.v fun y => { y with epoch := e }) l fun y => { y with epoch := e }

/-- A new team of a launch, in bank c. -/
def newTeam (s : State) (x : Launch) (l c : Nat) : Ctx :=
  let fid := effectiveFid s x
  let idx := teamIdx x.trips x.next
  { freshCtx with
    phase := .loading, loadDue := true, v := x.v, launch := l, team := x.next, nteams := x.nteams, idx := idx, linked := x.linked, phasel := x.phasel,
    seq := x.seq, fid := fid, image := x.image, args := x.args, arglen := x.arglen, hdr := x.hdr, gran := allot s c x.hdr.gran,
    accs := pickSets s c x.hdr.accs, epoch := x.epoch, vc := [(x.next % 64, 1)], bootMail := bootWords x c x.next fid idx }

/-- R109: a launch that has just been fully dispatched lets its queue go on. -/
def afterDispatch (s : State) (l : Nat) : State :=
  match launchAt s l with
  | some x =>
    if x.next = x.nteams then
      match (queueAt s x.v x.q).ind with
      | some i => if i.phase = .lastLaunch l then endIndirect s x.v x.q else s
      | none => kick s x.v x.q
    else s
  | none => s

/-- R279: the physical sets of a team that is restored on a core: those under its own tag stay in place. -/
def restoreSets (s : State) (c : Nat) (x : Ctx) : List Nat :=
  let own := fun p => !(ctxAt s (otherBank c)).accs.contains p && match (setAt s (coreOf c) p).owner with
    | some o => o.evicted && o.v == x.v && o.launch == x.launch && o.team == x.team
    | none => false
  let free := (List.range 4).filter fun p => !(ctxAt s (otherBank c)).accs.contains p && !own p
  (x.accs.foldl (fun (a : List Nat × List Nat) p => if own p then (a.1 ++ [p], a.2) else (a.1 ++ [a.2.headD 0], a.2.drop 1)) ([], free)).1

/-- R121, R145: bank c as the placement of an evicted team leaves it, until its state is restored; its boot mailbox is written. -/
def restoreBank (x : Launch) (sv : Saved) (c : Nat) (gran accs : List Nat) : Ctx :=
  { freshCtx with phase := .loading, v := sv.ctx.v, launch := sv.ctx.launch, team := sv.ctx.team, nteams := sv.ctx.nteams, linked := sv.ctx.linked,
                  seq := sv.ctx.seq, qmin := sv.ctx.qmin, image := sv.ctx.image, hdr := sv.ctx.hdr, gran := gran, accs := accs,
                  bootMail := bootWords x c sv.ctx.team sv.ctx.fid sv.ctx.idx }

/-- The launch's next team takes bank c: its first evicted team, else its next new one; the bank's boot mailbox is written for it (R121). -/
def placeIn (s00 : State) (l c : Nat) : State :=
  let s := dropClaim s00 c
  match launchAt s l with
  | none => s
  | some x0 =>
    match nextEvicted s l with
    | some (n, sv) =>
      let gran := allot s c sv.ctx.gran.length
      let accs := restoreSets s c sv.ctx
      let s1 := clearForVnpu { s with saves := mput s.saves n { sv with placing := true } } c x0.v gran accs
      post (setCtx s1 c (restoreBank x0 sv c gran accs)) (.restore n c)
    | none =>
      let s0 := giveEpoch s l
      match launchAt s0 l with
      | none => s
      | some x =>
        let y := newTeam s0 x l c
        let s1 := setCtx (clearForVnpu s0 c x.v y.gran y.accs) c y
        afterDispatch (post (modLaunch s1 l fun m => { m with next := m.next + 1 }) (.overlayLoad c)) l

/-- R130, R131: the pointers move after a placement. -/
def movePointers (s : State) (i p n c : Nat) : State :=
  modFrame s fun f => { f with rrCluster := mput f.rrCluster i ((clusterOf (coreOf c) + 1) % 12), rrLevel := mput f.rrLevel (32 * i + p) ((n + 1) % 272) }

/-- A stopped team leaves its bank for a launch (R141). -/
def beginEviction (s : State) (c l : Nat) : State := modCtx s c fun x => { x with evict := true, evictFor := l }

/-- R137: teams of a linked launch are placed in the offering order while banks fit: what is left unplaced, and the state. -/
def placeAll (i : Nat) (w : Window) (l p n : Nat) : Nat → State → Nat × State
  | 0, s => (match launchAt s l with | some x => waitingTeams s l x | none => 0, s)
  | fuel + 1, s =>
    match launchAt s l with
    | none => (0, s)
    | some x =>
      if waitingTeams s l x = 0 then (0, s)
      else match (bankOrder s i w).find? fun c => offerable s c && (ctxAt s c).phase == .empty && unclaimed s i c l && fits s l x c with
        | none => (waitingTeams s l x, s)
        | some c => placeAll i w l p n fuel (movePointers (placeIn s l c) i p n c)

/-- The window's banks that are being emptied for launch l. -/
def leavingFor (s : State) (i : Nat) (w : Window) (l : Nat) : Nat := ((bankOrder s i w).filter fun c => (ctxAt s c).evict && (ctxAt s c).evictFor == l).length

/-- R137: as many banks of stopped teams are emptied for a holding launch as it needs beside the free ones and those that are being emptied for it. -/
def evictFor (s : State) (i : Nat) (w : Window) (l : Nat) (x : Launch) (missing : Nat) : State :=
  (((bankOrder s i w).filter fun c => offerable s c && (ctxAt s c).phase == .stopped && (ctxAt s c).launch != l && fits s l x c).take (missing - leavingFor s i w l)).foldl
    (fun t c => beginEviction t c l) s

/-- R137: a linked launch that is chosen: all its teams are placed, or it holds the window; then banks that have been emptied for others are its own too. -/
def offerLinked (i : Nat) (w : Window) (l p n : Nat) (x : Launch) (s : State) : State :=
  let h := modFrame s fun f => { f with holds := mput f.holds i l }
  match placeAll i w l p n 192 s, placeAll i w l p n 192 h with
  | (0, s1), _ => modFrame s1 fun f => { f with holds := mdel f.holds i }
  | _, (0, s1) => modFrame s1 fun f => { f with holds := mdel f.holds i }
  | _, (missing, _) => evictFor h i w l x missing

/-- R131, R135, R137: one bank is offered. -/
def offer (i : Nat) (w : Window) (c : Nat) (s : State) : State :=
  match search s i w c with
  | none => dropClaim s c
  | some (p, n, l) =>
    match launchAt s l with
    | none => s
    | some x =>
      if x.linked then offerLinked i w l p n x s
      else if (ctxAt s c).phase = .empty then movePointers (placeIn s l c) i p n c
      else beginEviction s c l

def offerAll (i : Nat) (w : Window) : Nat → List Nat → State → State
  | 0, _, s => s
  | fuel + 1, left, s =>
    match (bankOrder s i w).find? fun c => left.contains c && offerable s c with
    | none => s
    | some c => offerAll i w fuel (left.filter (· != c)) (offer i w c s)

/-! ## Linked launches tested again (R136) -/

def noneResident (s : State) (l : Nat) : Bool := (residentOf s l).isEmpty

/-- R136: a linked launch that no window can hold any more ends, when none of its teams is resident. -/
def retestLinked (s : State) (l : Nat) : State :=
  match launchAt s l with
  | some x =>
    if x.linked && x.final.isNone && !launchOver s l && decide (largestCapacity s x.v x.hdr < x.nteams) && noneResident s l then endLaunch s l (some (2, 4)) else s
  | none => s

/-- DISPATCH_DECISION (R130 to R138). -/
def execDispatchDecision (i : Nat) (s : State) : Outcome :=
  .next <|
    match windowAt s i with
    | none => s
    | some w =>
      if !s.frame.started || !windowActive s w || s.fw.mode == .dead then s
      else
        let s1 := (s.launches.filter fun e => serves s i w e.2.v).foldl (fun t e => retestLinked t e.1) s
        let s2 := match mfind s1.frame.holds i with
          | some h => if (launchAt s1 h).isSome then s1 else modFrame s1 fun f => { f with holds := mdel f.holds i }
          | none => s1
        offerAll i w 192 (bankOrder s2 i w) s2

end Sys2Proof.Machine
end

