-- ==== Sys2Proof/Machine/Teams.lean ====
section
/-!
DEFINITION. The life of a team: loading (R123), stopping and resuming (R138 to R140), eviction (R141 to R144), restore (R145, R279, R447), the
end of a wait (R195, R202), retirement (R208).
-/
namespace Sys2Proof.Machine

/-! ## The loader's reads -/

/-- R141, R161: a slice serves a read of an eviction or a restore: no bucket, and the charges are the device's. -/
def serveDevice (s : State) (v x : Nat) : State :=
  let t := sliceTouch s v x false
  let s1 := chargeOverhead t.1 11 1
  if t.2 then chargeOverhead s1 12 1 else s1

/-- R123, R141: reads bytes that lie in one line, as a data read of the team; `charged` as the loader's reads are. A page that is being moved waits (R48). -/
def loadIn (charged : Bool) (c n : Nat) (va : Word) (s : State) : EngRes (State × List Byte) :=
  let x := ctxAt s c
  match reach s c { read := true } va with
  | (_, .absent m) => .error (s, .absent va false m)
  | (_, .fault cause) => .error (s, .fault cause va)
  | (s1, .ok mt home pa _ _) =>
    let charge := initCharge n false
    let s2 := if pageMoving s1 mt pa then stall s1 else s1
    let s3 := if charged then issued (.read x.v c mt home pa n false []) s2 (regulated s2 (dieOfCtx c) (coreOf c % 48) x.v c charge) else s2
    engGot s va false (readAt s3 x.v mt home pa n fun t => if charged then sliceServe t c x.v (lineOf pa) charge false else serveDevice t x.v (lineOf pa))

def loadBytes (charged : Bool) (c : Nat) : Nat → Nat → Word → State → EngRes (State × List Byte)
  | 0, _, _, s => .ok (s, [])
  | fuel + 1, n, va, s =>
    if n = 0 then .ok (s, [])
    else
      let k := min n (toLineEnd va)
      match loadIn charged c k va s with
      | .error e => .error e
      | .ok (s1, b) =>
        match loadBytes charged c fuel (n - k) (va + BitVec.ofNat 64 k) s1 with
        | .error e => .error e
        | .ok (s2, r) => .ok (s2, b ++ r)

def loadN (charged : Bool) (c n : Nat) (va : Word) (s : State) : EngRes (State × List Byte) := loadBytes charged c (n / 64 + 2) n va s

/-! ## The pin list (R123 step 2, R322) -/

/-- R322: one pin entry: its lines are filled and pinned as IPIN does. R322 gives a level or part byte that is neither 0 nor 1 no meaning: the level is taken mod 2,
and any part but 1 is control text (DESIGN CHOICE, log 102). -/
def applyPin (c : Nat) (s : State) (e : List Byte) : State :=
  let x := ctxAt s c
  let lane := fieldAt e 9 1 == 1
  let base := x.image + BitVec.ofNat 64 ((if lane then x.hdr.lane else x.hdr.ctext) + fieldAt e 0 4)
  (linesOf base.toNat (fieldAt e 4 4)).foldl (fun t line =>
    if (fieldAt e 8 1) % 2 = 1 then residentL1 .pin t c (BitVec.ofNat 64 line) else residentL0 .pin t c lane line) s

/-- The pin list is read and applied in order. -/
def applyPins (charged : Bool) (s : State) (c : Nat) : EngRes State :=
  let x := ctxAt s c
  match loadN charged c (16 * x.hdr.npin) (x.image + BitVec.ofNat 64 x.hdr.pins) s with
  | .error e => .error e
  | .ok (s1, b) => .ok ((chunk 16 x.hdr.npin b).foldl (applyPin c) s1)

/-! ## Stopping and resuming (R138 to R140) -/

/-- R138: every team of a launch that has not ended is resident, none of them in a drain stub: in its save half it is leaving, in its restore half not yet back. -/
def launchWhole (s : State) (l : Nat) : Bool :=
  match launchAt s l with
  | some x => (residentOf s l).length + x.ended.length == x.nteams && (evictedOf s l).isEmpty && (residentOf s l).all fun c => (ctxAt s c).drain == .off
  | none => true

/-- R163: exhaustion keeps a team stopped, but for a class A team in its window. -/
def quotaRuns (s : State) (c : Nat) : Bool := !(vnpuAt s (ctxAt s c).v).exhausted || inClassA s c

/-- R140, R146: a team may run: its VNPU is served on its core and kept out by no class A window to come, its quota allows it, its core is neither frozen nor
being emptied (R25, R27). -/
def servedHere (s : State) (c : Nat) : Bool :=
  servedOn s (coreOf c) (ctxAt s c).v && guardAllows s (coreOf c) (ctxAt s c).v && quotaRuns s c && !(coreAt s (coreOf c)).frozen && !(coreAt s (coreOf c)).leaving

/-- R138: a linked team runs only while every team of its launch is resident and may run. -/
def mayResume (s : State) (c : Nat) : Bool :=
  let x := ctxAt s c
  servedHere s c && (!x.linked || (launchWhole s x.launch && (residentOf s x.launch).all (servedHere s)))

/-- R140: a stopped team runs again; an eviction that has not begun is off. -/
def resumeTeam (s : State) (c : Nat) : State :=
  let x := ctxAt s c
  if x.phase == .stopped && x.drain == .off && mayResume s c then
    settleBank (addTeam (setCtx s c { x with phase := .running, evict := false, evictFor := 0, wait := if x.wait = .ended then .ended else .none }) c) (coreOf c)
  else s

/-- R138: a team resumes, the teams of a linked launch together. -/
def resumeWithMates (s : State) (c : Nat) : State :=
  let x := ctxAt s c
  if x.linked && x.phase == .stopped then (residentOf s x.launch).foldl resumeTeam s else resumeTeam s c

/-- Every stopped team of a set of cores that may run again does; bank A before bank B. -/
def resumeCores (s : State) (cores : List Nat) : State :=
  cores.foldl (fun t k => resumeWithMates (resumeWithMates t (2 * k)) (2 * k + 1)) s

/-- R139: the team stops at its next instruction boundary. -/
def stopTeam (s : State) (c : Nat) : State :=
  let x := ctxAt s c
  if x.phase == .running && x.drain == .off then setCtx s c { x with phase := .stopped, stopAt := s.tick.toNat + 1 } else s

/-- R138: every resident team of a launch stops. -/
def stopMates (s : State) (l : Nat) : State := (residentOf s l).foldl (fun t d => settleBank (stopTeam t d) (coreOf d)) s

/-- The team runs, or is loading, and no stub of it does. -/
def onItsWay (x : Ctx) : Bool := (x.phase == .running || x.phase == .loading) && x.drain == .off

/-- R138, R139: the team stops; the teams of a linked launch stop together. One that is still loading stops as it enters, and its mates now. -/
def stopWithMates (s : State) (c : Nat) : State :=
  let x := ctxAt s c
  if x.linked && onItsWay x then stopMates s x.launch else settleBank (stopTeam s c) (coreOf c)

/-- A team that stands stopped, or is to come to stand so: it is loading, or its stub's restore half runs. -/
def willStop (x : Ctx) : Bool :=
  (x.phase == .stopped && x.drain == .off) || x.phase == .loading || match x.drain with | .restore _ => true | _ => false

/-- A stopped team is to be evicted, and one that is still on its way into its bank, which stops as it enters. -/
def evictStopped (s : State) (c : Nat) : State := modCtx s c fun x => if willStop x then { x with evict := true, evictFor := 0 } else x

/-- A team whose loading or restore is over runs, or stops where it is not served (R139, R140), and its mates with it (R138); where its quota keeps it, its notice is
due (R163). -/
def enterTeam (s : State) (c : Nat) : State :=
  let x := ctxAt s c
  let s0 := resumeWithMates (addTeam (setCtx s c { x with phase := .stopped }) c) c
  let s2 := if (ctxAt s0 c).phase == .stopped && x.linked then stopMates s0 x.launch else s0
  let y := ctxAt s2 c
  let out := y.phase == .stopped && inGuard s2 (coreOf c) && !guardAllows s2 (coreOf c) y.v
  let quota := y.phase == .stopped && servedOn s2 (coreOf c) y.v && !quotaRuns s2 c
  modCtx s2 c fun z => { z with evict := z.evict || out, pend27 := z.pend27 || quota }

/-! ## Loading (R123) -/

/-- R123: the start registers. -/
def startRegs (x : Ctx) : SMap Word :=
  ([(2, BitVec.ofNat 64 x.arglen), (3, BitVec.ofNat 64 (x.idx.getD 0 0)), (4, BitVec.ofNat 64 (x.idx.getD 1 0)), (5, BitVec.ofNat 64 (x.idx.getD 2 0)),
    (6, BitVec.ofNat 64 (x.idx.getD 3 0)), (7, BitVec.ofNat 64 x.team), (8, BitVec.ofNat 64 x.nteams)] : SMap Word)

/-- The schedule and the entry point at the granted level of the team's cluster (R123 step 5, R168). -/
def entrySched (s : State) (c : Nat) : Nat := schedOf (ctxAt s c).hdr (clusterAt s (clusterOf (coreOf c))).level

def atEntry (x : Ctx) (sched : Nat) : Ctx :=
  { x with sched := sched, pc := ctlBase x + BitVec.ofNat 64 (x.hdr.entries.getD (2 * sched) 0),
           lanes := { x.lanes with pos := x.hdr.entries.getD (2 * sched + 1) 0 } }

/-- Steps 1 to 3: header, pin list, arguments. R321 gives GRAN 1 to 255, and R116 does not check it for 0: with no granule to hold it the argument block is dropped
(DESIGN CHOICE, log 103). -/
def loadSteps (s : State) (c : Nat) : EngRes State :=
  let x := ctxAt s c
  match loadN true c 128 x.image s with
  | .error e => .error e
  | .ok (s1, h) =>
    let s2 := modCtx (chargeCtx s1 c 10 2) c fun y => { y with hdr := headerOf h }
    match applyPins true s2 c with
    | .error e => .error e
    | .ok s3 =>
      match loadN true c x.arglen x.args s3 with
      | .error e => .error e
      | .ok (s4, a) =>
        let s5 := chargeCtx s4 c 10 ((16 * (ctxAt s2 c).hdr.npin + 63) / 64 + (x.arglen + 63) / 64)
        .ok (if x.gran.isEmpty then s5 else putScratch s5 c 0 (a ++ List.replicate (4096 - x.arglen) 0))

/-- OVERLAY_LOAD (R123). The charges of the loader's reads (R161) stand in ECNT as the team starts (DESIGN CHOICE, log 84). A fault in steps 1 to 3 is a fault of the team's first instruction; a not-present one is answered and the loading
starts again. -/
def execOverlayLoad (c : Nat) (s : State) : Outcome :=
  let x := ctxAt s c
  let open' := openFault x.fault
  .next <|
    if !x.loadDue || open' || (x.phase != .loading && x.phase != .running) then s
    else
      let s0 := setCtx s c { atEntry x (entrySched s c) with fault := none }
      match loadSteps s0 c with
      | .ok s1 =>
        let y := ctxAt s1 c
        enterTeam (setCtx s1 c { atEntry y (entrySched s1 c) with regs := startRegs y, loadDue := false }) c
      | .error (e, .absent va _ malf) => if e.run.stuck then e else takeNotPresent (addTeam (modCtx s0 c fun y => { y with phase := .running }) c) c va 0 malf
      | .error (e, .fault cause va) => if e.run.stuck then e else accessFault s0 c cause (ctxAt s0 c).pc va
      | .error (e, .machine u num va) => if e.run.stuck then e else machineCheck s0 c u num (ctxAt s0 c).pc va
      | .error (_, .held) => s

/-! ## Eviction (R141 to R144) -/

/-- R141, R143: nothing of the team's work stands in the way of its eviction: accesses, lane words, started matrix and collective commands, copies within a
step or that have moved everything, a peer's into its scratchpad among these; and the other bank runs no stub. -/
def evictReady (s : State) (c : Nat) : Bool :=
  let x := ctxAt s c
  x.mem.isEmpty && decide (x.lanes.landed < x.lanes.clock ∨ x.lanes.landed = 0) && (ctxAt s (otherBank c)).drain == .off &&
    !(s.collectives.any fun w => w.ctx == c) &&
    (s.cores.all fun k => match mfind k.2.units 4 with
      | some u => peerOf s u != some c || !commandDone s 4 u
      | none => true) &&
    ((coreAt s (coreOf c)).units.all fun e => e.2.ctx != c ||
      (if e.1 = 2 then e.2.paused.isSome else if e.1 = 4 then betweenSteps s e.2 && !commandDone s 4 e.2 else decide (32 ≤ e.1)))

/-- R141 step 2: the drain stub of the first entry that matches the PC. A fault of the read means none. -/
def findStub (x : Ctx) (off : Nat) : List (List Byte) → Option Nat
  | [] => none
  | e :: r => if fieldAt e 0 4 ≤ off ∧ off < fieldAt e 4 4 then some (fieldAt e 8 4) else findStub x off r

/-- The table is read, as the device's own work (R161), for a team whose loading is over. -/
def stubOf (s : State) (c : Nat) : State × Option Nat :=
  let x := ctxAt s c
  if x.loadDue then (s, none)
  else match loadN false c (16 * x.hdr.ndr) (x.image + BitVec.ofNat 64 x.hdr.drtab) (setCtx s c { x with drain := .save 0 }) with
    | .ok (s1, b) => (modCtx s1 c fun y => { y with drain := .off }, findStub x (pcOffset x x.pc) (chunk 16 x.hdr.ndr b))
    | .error (e, _) => (if e.run.stuck then e else s, none)

/-- Inserts a command by its number. -/
def byNumber (q : QCmd) : List QCmd → List QCmd
  | [] => [q]
  | r :: l => if q.num ≤ r.num then q :: r :: l else r :: byNumber q l

/-- R143: the team's stopped copies, the running and the paused ones, in their queue order, each at its first incomplete step. -/
def stoppedCopies (s : State) (c : Nat) : List QCmd :=
  (((coreAt s (coreOf c)).units.filter fun e => e.2.ctx == c && (e.1 == 4 || decide (64 ≤ e.1))).map fun e => stoppedCopy e.2.cmd).foldr byNumber []

/-- R143, R155: the copy commands that a team leaves with. -/
def savedCopies (s : State) (c : Nat) : List QCmd :=
  match stoppedCopies s c ++ mget (ctxAt s c).cmdq 1 [] with
  | q :: r => { q with trap26 := q.trap26 || engineTrap s c 1 } :: r
  | [] => []

/-- R277: the team's paused epilogue: its command and the rows left. -/
def pausedEpilogue (s : State) (c : Nat) : Option RunCmd :=
  ((coreAt s (coreOf c)).units.find? fun e => (e.1 == 2 || e.1 == 32 + bankOf c) && e.2.ctx == c).map (·.2)

/-- R447: the bank's current tile, then its last-loaded tile. -/
def savedTiles (k : Core) (b : Nat) : List Tile := (k.tiles.filter fun t => t.bank == b && (t.cur || some t == lastTile k b)) ++ k.refills.filter fun t => t.bank == b

/-- The allotment's bytes, by team-relative address. -/
def allotmentBytes (s : State) (c : Nat) : Memory :=
  let x := ctxAt s c
  (x.gran.zipIdx).foldl (fun m e =>
    ((coreAt s (coreOf c)).scratch.filter fun b => b.1 / 4096 == e.1).foldl (fun n b => writeByte n (e.2 * 4096 + b.1 % 4096) b.2) m) []

/-- R144: the team's sets stay under its tag. -/
def tagEvicted (s : State) (c : Nat) : State :=
  let x := ctxAt s c
  modCore s (coreOf c) fun k => { k with accs := k.accs.map fun a =>
    match a.2.owner with
    | some o => if o.v = x.v ∧ o.launch = x.launch ∧ o.team = x.team then (a.1, { a.2 with owner := some { o with evicted := true } }) else a
    | none => a }

/-- R141 step 1, R249: what is saved of a stopped team whose words have all landed. -/
def savedCtx (x : Ctx) : Ctx := { x with appended := none, leftWait := .none, lanes := { settleFlags x.lanes with hz := [], qhz := [], memhz := [] } }

/-- R141: a team's context as it is saved: as step 1 took it, with what has come to the team since from outside; a stub has stored the lane registers, and its
registers are recorded (R145). -/
def keptCtx (s : State) (c : Nat) (stub : Bool) : Ctx :=
  let x := ctxAt s c
  let y := if stub then mget s.stubs c x else savedCtx x
  { y with
    evict := false, evictFor := 0, tx := [], mem := [], lanes := { y.lanes with regs := if stub then [] else y.lanes.regs },
    cmdq := mput x.cmdq 1 (savedCopies s c), stubRegs := if stub then mput x.regs 64 x.pc else [],
    ecnt := x.ecnt, ev := x.ev, fault := x.fault, laneFault := x.laneFault, pend26 := x.pend26, pend27 := x.pend27 }

/-- R141 steps 4 to 6: the team leaves its bank for its save area, and the bank waits for the team it has been emptied for (R476); `stub` says that its stub has stored its lane registers. -/
def leaveBank (s : State) (c : Nat) (stub : Bool) : State :=
  let x := ctxAt s c
  let n := s.nextSave
  let epi := pausedEpilogue s c
  let saved : Saved :=
    { ctx := keptCtx s c stub
      core := coreOf c, bank := bankOf c, bytes := allotmentBytes s c, stub, tiles := savedTiles (coreAt s (coreOf c)) (bankOf c), sets := [],
      cmds := match epi with | some u => [(if u.released then 1 else 0, { u.cmd with trap26 := u.cmd.trap26 || engineTrap s c 3 })] | none => []
      epi := match epi with | some u => u.rows | none => []
      charge := 0, placing := (coreAt s (coreOf c)).frozen && !(coreAt s (coreOf c)).absent }
  let s0 := if x.evictFor = 0 then s else modFrame s fun f => { f with claims := mput f.claims c x.evictFor }
  let s1 := chargeOverhead (tagEvicted (moveFaults (forgetEngine s0 c) c (1000 + n)) c) 10 (64 * x.gran.length)
  let s2 := modCore s1 (coreOf c) fun k => { k with units := k.units.filter fun e => e.2.ctx != c }
  let s3 := freeBank { s2 with saves := mput s2.saves n saved, nextSave := n + 1 } c
  askDecision (settleBank s3 (coreOf c)) (coreOf c)

/-- R141, R145, R195: the core executes a team's stub, or its restore half, and then the bank it has left. -/
def toStub (s : State) (c : Nat) : State := modCore s (coreOf c) fun k => { k with left := k.bank, bank := bankOf c }
def fromStub (s : State) (c : Nat) : State := modCore s (coreOf c) fun k => { k with bank := k.left }

/-- EVICTION (R141): the team's state is saved and its stub starts; with `flag` the stub has ended; without a stub the bank is left. -/
def execEviction (c : Nat) (s : State) : Outcome :=
  let x := ctxAt s c
  .next <|
    if s.run.arg.flag then (if x.phase = .stopped ∧ x.evict then leaveBank (fromStub s c) c true else s)
    else if x.phase ≠ .stopped ∨ !x.evict ∨ x.drain ≠ .off ∨ !evictReady s c then s
    else
      match stubOf s c with
      | (s1, some off) =>
        if s1.run.stuck then s1 else
        toStub { setCtx s1 c { x with phase := .running, drain := .save 0, pc := ctlBase x + BitVec.ofNat 64 off, loops := [], wait := .none, leftWait := .none, swpLatch := none } with
          stubs := mput s1.stubs c (savedCtx x) } c
      | (s1, none) => if s1.run.stuck then s1 else leaveBank s1 c false

/-! ## Restore (R145) -/

/-- R279: the team's sets come back: those under its tag here stay; others are spilled where they lie and reloaded. -/
def spillElsewhere (s : State) (core : Nat) (keep : List Nat) (x : Ctx) : State :=
  s.cores.foldl (fun t e =>
    e.2.accs.foldl (fun u a =>
      match a.2.owner with
      | some o => if !(e.1 == core && keep.contains a.1) ∧ o.evicted ∧ o.v = x.v ∧ o.launch = x.launch ∧ o.team = x.team then spillSet u e.1 a.1 else u
      | none => u) t) s

def reloadSets (s : State) (n c : Nat) (accs : List Nat) : State :=
  match mfind s.saves n with
  | none => s
  | some sv =>
    (accs.zipIdx).foldl (fun t e =>
      let own := match (setAt t (coreOf c) e.1).owner with
        | some o => o.v == sv.ctx.v && o.launch == sv.ctx.launch && o.team == sv.ctx.team
        | none => false
      if own then modSet t (coreOf c) e.1 fun a => { a with owner := a.owner.map fun o => { o with evicted := false } }
      else match mfind sv.sets e.2 with
        | some a =>
          let u := if (setAt t (coreOf c) e.1).owner.isSome then spillSet t (coreOf c) e.1 else t
          chargeOverhead (modSet u (coreOf c) e.1 fun _ => { a with owner := some (ownTag c sv.ctx) }) 10 1024
        | none => t) s

/-- R447: tiles that wait for a buffer. -/
def refillTiles (k : Core) (b : Nat) : Core :=
  match k.refills.find? fun t => t.bank == b with
  | none => k
  | some t =>
    match placeTile k b t with
    | none => k
    | some l => { k with tiles := l, refills := k.refills.eraseP fun x => x.bank == b }

/-- R141, R145: lane registers that the stub has not stored are free values. -/
def freeLaneRegs (s : State) : SMap Lane := (List.range 16384).map fun i => (i, (freeAt s i).setWidth 32)

/-- The context of a restored team: all of R141 step 1, but for s1 to s63 and PC where a stub goes on (R145). -/
def restoredCtx (s : State) (sv : Saved) (y : Ctx) : Ctx :=
  let x := sv.ctx
  let base := { x with gran := y.gran, accs := y.accs, bootMail := y.bootMail, drain := .off, evict := y.evict, evictFor := y.evictFor, phase := .loading,
                       ecnt := if sv.charge = 0 then x.ecnt else ecntAdd x.ecnt sv.charge, skip := false, pinov := false, swpLatch := none, stubRegs := [] }
  if sv.stub then
    { base with regs := mdel x.stubRegs 64, pc := mget x.stubRegs 64 0, drain := .restore 0, lanes := { x.lanes with regs := freeLaneRegs s } }
  else base

/-- RESTORE (R145): the team of save area n comes back in bank c, which its placement has prepared; with `flag` its stub's restore half has ended. -/
def execRestore (n c : Nat) (s : State) : Outcome :=
  let y := ctxAt s c
  .next <|
    if s.run.arg.flag then (if y.phase = .loading ∧ y.loadDue = false ∧ y.drain = .off then settleBank (enterTeam (fromStub s c) c) (coreOf c) else s)
    else match mfind s.saves n with
    | none => s
    | some sv0 =>
      if y.phase ≠ .loading ∨ !sv0.placing ∨ y.launch ≠ sv0.ctx.launch ∨ y.team ≠ sv0.ctx.team then s
      else if sv0.stub ∧ (ctxAt s (otherBank c)).drain ≠ .off then stall s
      else
        let s1 := spillElsewhere s (coreOf c) y.accs sv0.ctx
        let s2 := reloadSets s1 n c y.accs
        match mfind s2.saves n with
        | none => s
        | some sv =>
          let s3 := dropImage (moveFaults { s2 with saves := mdel s2.saves n } (1000 + n) c) sv.core sv.ctx.image sv.ctx.v
          let x := restoredCtx s3 sv y
          let s4 := chargeOverhead (putAll (zeroGranules (setCtx (if sv.stub then useFree s3 else s3) c x) c) c sv.bytes) 10 (64 * y.gran.length)
          let s5 := modCore s4 (coreOf c) fun k =>
            { k with refills := k.refills ++ sv.tiles.map fun t => { t with bank := bankOf c }
                     units := match sv.cmds with
                       | (r, q) :: _ => mput k.units (32 + bankOf c)
                           { ctx := c, v := x.v, launch := x.launch, team := x.team, cmd := q, paused := none, released := r == 1, rows := sv.epi }
                       | [] => k.units }
          let s6 := modCore s5 (coreOf c) fun k => refillTiles (refillTiles k (bankOf c)) (bankOf c)
          let s7 := repin s6 c
          if sv.stub then
            addTeam (toStub { modCtx s7 c fun z => { z with phase := .running, wait := .none } with stubs := mput s7.stubs c sv.ctx } c) c
          else enterTeam s7 c
where
  /-- R145, R161: the pin list is applied again, as the device's own work. -/
  repin (s : State) (c : Nat) : State :=
    let d := (ctxAt s c).drain
    match applyPins false (modCtx s c fun z => { z with drain := if d == .off then .restore 0 else d }) c with
    | .ok t => modCtx t c fun z => { z with drain := d }
    | .error (e, _) => if e.run.stuck then modCtx e c fun z => { z with drain := d } else s
  /-- The allotment is copied back whole: what its granules held is gone. -/
  zeroGranules (s : State) (c : Nat) : State :=
    modCore s (coreOf c) fun k => { k with scratch := (ctxAt s c).gran.foldl zeroGranule k.scratch }
  putAll (s : State) (c : Nat) (m : Memory) : State := m.foldl (fun t e => putScratch t c e.1 [e.2]) s

/-! ## The end of a team (R208) -/

/-- R208: nothing of the team's is left to do: lanes, commands, accesses. It may be in a drain stub. -/
def retireReady (s : State) (c : Nat) : Bool :=
  let x := ctxAt s c
  x.wait == .ended && (x.phase == .running || x.phase == .stopped) && x.mem.isEmpty && x.lanes.sects.isEmpty && x.lanes.retiring.isEmpty &&
    !((List.range 3).any fun e => !(mget x.cmdq e []).isEmpty) && !((coreAt s (coreOf c)).units.any fun e => e.2.ctx == c) &&
    !(s.collectives.any fun w => w.ctx == c)

/-- R208: the lanes wait at a pop on an empty control queue, and the team has ended. -/
def endedAtPop (x : Ctx) : Bool := x.wait == .ended && x.phase == .running && x.ctlq.isEmpty && x.lanes.atPop

/-- R163, R164, R483: the notices still due at a team's end call are written before the team retires, 0x27 first; a stopped team takes no 0x27. -/
def lastNotices (s : State) (c : Nat) : State :=
  let x := ctxAt s c
  let s1 := if x.pend27 && x.phase == .running then notice s c 0x27 0 else s
  if x.pend26 then notice s1 c 0x26 0 else s1

/-- R475: a team that retires in an even cycle has been Running in it: the cycle's static charge is made before the team is gone. -/
def chargeEnd (s : State) (c : Nat) : State :=
  if (clusterAt s (clusterOf (coreOf c))).cycle.getLsbD 0 || (coreAt s (coreOf c)).charged then s
  else modCore (staticOnce s (coreOf c)) (coreOf c) fun k => { k with charged := true }

/-- TEAM_RETIRE (R208): the team retires once everything of it is over; lanes that wait at a pop for a token that will not come kill it. -/
def execTeamRetire (c : Nat) (s : State) : Outcome :=
  let x := ctxAt s c
  .next <|
    if endedAtPop x then laneFault s c 0x21 0
    else if retireReady s c then endTeam (chargeEnd (lastNotices s c) c) c false false
    else s

/-! ## Waits (R202) -/

/-- BLOCKED_WAIT_END (R195, R202): the condition of a team's wait holds: it leaves its wait, and the waiting instruction completes when its bank next executes, whatever
becomes of the condition; a queue entry that it has been granted is its own (R191). -/
def execBlockedWaitEnd (c : Nat) (s : State) : Outcome :=
  let x := ctxAt s c
  .next <|
    if !blockingWait x.wait then s
    else settleBank (setCtx s c { (if x.wait = .lwait then seeLanes x else x) with wait := .none, leftWait := x.wait }) (coreOf c)

end Sys2Proof.Machine
end

