-- ==== Sys2Proof/Machine/Frames.lean ====
section
/-!
DEFINITION. Windows (R130, R139, R146), the frame table and its validation (R126 to R128), contracts and theirs (R84 to R92), the major-frame
boundary (R91), quota exhaustion (R163), guest reset (R94 to R97).
-/
namespace Sys2Proof.Machine

/-! ## Window starts and ends -/

/-- R155: the buckets of a VNPU may trap again. -/
def clearTraps (s : State) (p : Nat → Bool) : State :=
  { s with buckets := s.buckets.map fun e => if p (e.1 % 32) then (e.1, { e.2 with trapped := false }) else e }

/-- R139: when both banks of a core hold runnable teams at a window start, bank A runs first. -/
def bankAFirst (s : State) (cores : List Nat) : State :=
  cores.foldl (fun t k =>
    if runnable (ctxAt t (2 * k)) && (ctxAt t (2 * k + 1)).drain == .off then modCore t k fun x => { x with bank := 0 } else settleBank t k) s

/-- WINDOW_START (R130, R139, R140, R155). Without firmware no team that has stopped runs again (R76). -/
def execWindowStart (i : Nat) (s : State) : Outcome :=
  .next <|
    match windowAt s i with
    | none => s
    | some w =>
      if !windowActive s w then s
      else
        let cores := windowCores w
        let s1 := clearTraps s fun v => serves s i w v
        post (bankAFirst (if s.fw.mode == .dead then s1 else resumeCores s1 cores) cores) (.dispatchDecision i)

/-- R163: an exhausted class A VNPU's teams meet the exhaustion at their window's end; those of a linked launch stop together. -/
def quotaNotice (s : State) (c : Nat) : State :=
  let x := ctxAt s c
  if (vnpuAt s x.v).exhausted && classOf s x.v == 1 && (x.phase == .running || x.phase == .loading) then
    (if x.linked then residentOf s x.launch else [c]).foldl (fun t d => modCtx t d fun y => if y.phase == .running then { y with pend27 := true } else y) s
  else s

/-- R139: the teams of a core that do not continue stop. -/
def endOnCore (s : State) (k : Nat) : State :=
  [2 * k, 2 * k + 1].foldl (fun t c =>
    if onItsWay (ctxAt t c) && !servedHere t c then stopWithMates (quotaNotice t c) c else t) s

/-- R25, R146: retirements that waited for a class A window's end. -/
def wakeRetirements (s : State) (cores : List Nat) : State :=
  s.mgmt.pending.foldl (fun t e => if cores.contains e.1 then postArg t .coreRetirement { noArg with n := e.1, flag := e.2 } else t) s

/-- WINDOW_END (R137, R139): `nums` names the cores of the window when its table is no longer in force. -/
def execWindowEnd (i : Nat) (s : State) : Outcome :=
  let cores := if s.run.arg.nums.isEmpty then (match windowAt s i with | some w => windowCores w | none => []) else s.run.arg.nums.filter (· < 96)
  .next <|
    let s1 := modFrame s fun f => { f with holds := mdel f.holds i, idle := f.idle.filter fun e => e.1 != i }
    wakeRetirements (cores.foldl (fun t k => settleBank (endOnCore t k) k) s1) cores

/-- CLASS_A_STOP (R146): START − 4,000 of window i of the tables in force, or, with `flag`, of the coming ones. -/
def execClassAStop (i : Nat) (s : State) : Outcome :=
  let t := if s.run.arg.flag then comingTables s else s
  .next <|
    match windowAt t i with
    | none => s
    | some w =>
      if !classAWindow t i w then s
      else
        let cores := windowCores w
        let go := fun (u : State) (c : Nat) =>
          let x := ctxAt u c
          if x.phase == .empty || serves t i w x.v then u
          else
            let u1 := stopWithMates u c
            modCtx u1 c fun y => if willStop y then { y with evict := true } else y
        cores.foldl (fun u k => go (go u (2 * k)) (2 * k + 1)) s

/-! ## The frame table (R126 to R128) -/

def windowOf (b : List Byte) : Window :=
  { start := fieldAt b 0 4, len := fieldAt b 4 4, cores := BitVec.ofNat 96 (fieldAt b 8 12), owner := fieldAt b 20 1 % 32,
    shared := nbits (fieldAt b 20 1) 7 7 == 1, valid := fieldAt b 21 1 % 2 == 1 }

/-- The records that GO has submitted (R126). -/
def frameRecords (s : State) : List (List Byte) := (List.range 32).map fun i => readBytes s.frame.submitted.2 (32 * i) 32

def recordReserved (s : State) (b : List Byte) : Bool :=
  nbits (fieldAt b 20 1) 6 5 != 0 || fieldAt b 21 1 / 2 != 0 || !allZero ((b.drop 22).take 10) || decide (s.numVFs < fieldAt b 20 1 % 32) ||
    (nbits (fieldAt b 20 1) 7 7 == 1 && fieldAt b 20 1 % 32 != 0)

def windowsMeet (a b : Window) : Bool :=
  a.cores &&& b.cores != 0 && decide (a.start < b.start + b.len ∧ b.start < a.start + a.len)

/-- The lowest valid window that a check fails. -/
def firstBad (ws : List (List Byte × Window)) (p : Nat → List Byte → Window → Bool) : Option Nat :=
  ((ws.zipIdx).find? fun e => e.1.2.valid && p e.2 e.1.1 e.1.2).map (·.2)

/-- R128: the code of the first check that fails, and its lowest window. -/
def frameCheck (s : State) : Nat × Nat :=
  let ws := (frameRecords s).map fun b => (b, windowOf b)
  let bad := fun p => firstBad ws p
  if s.frame.submitted.1 < 100 ∨ 10000 < s.frame.submitted.1 then (1, 0)
  else match bad fun _ b _ => recordReserved s b with
    | some i => (2, i)
    | none => match bad fun _ _ w => decide (w.len < 5000 ∨ s.frame.submitted.1 * 1000 < w.start + w.len) with
      | some i => (3, i)
      | none => match bad fun i _ w => (ws.zipIdx).any fun e => e.2 != i && e.1.2.valid && windowsMeet w e.1.2 with
        | some i => (4, i)
        | none => match bad fun _ _ w => (windowCores w).any fun c => (clusterAt s (clusterOf c)).gstate != 0 with
          | some i => (5, i)
          | none => (0, 0)

/-- FT_CTL_GO (R126): FT_REC and FT_FRAME are submitted as they stand; ignored while a validation is under way, and in recovery (R63). -/
def execFtCtlGo (s : State) : Outcome :=
  .next (if s.frame.busy || s.contracts.busy || inert s then s
    else post (modFrame s fun f => { f with busy := true, submitted := (f.frame, f.table) }) .frameTableValidated)

/-- FRAME_TABLE_VALIDATED (R90, R128): by the active complex, so not without firmware (R76). -/
def execFrameTableValidated (s : State) : Outcome :=
  .next <|
    if !s.frame.busy || s.fw.mode == .dead then s
    else
      let r := frameCheck s
      let s1 := modFrame s fun f =>
        { f with busy := false, done := true, code := r.1, win := r.2,
                 staged := if r.1 = 0 then some (f.submitted.1, (frameRecords s).map windowOf) else f.staged,
                 lastDone := if r.1 = 0 then s.tick.toNat else f.lastDone }
      raise s1 0 57

/-! ## Contracts (R84 to R90) -/

def ctClass (b : List Byte) : Nat := fieldAt b 1 1
def ctWays (b : List Byte) : Nat := fieldAt b 4 2
def ctOcc (b : List Byte) : Nat := fieldAt b 6 2
def ctWin (b : List Byte) : Nat := fieldAt b 8 4
def ctIRate (b : List Byte) : Nat := fieldAt b 16 4
def ctIDepth (b : List Byte) : Nat := fieldAt b 20 4
def ctMRate (b : List Byte) : Nat := fieldAt b 24 4
def ctMDepth (b : List Byte) : Nat := fieldAt b 28 4
def ctMode (b : List Byte) : Nat := fieldAt b 32 1
def ctQuota (b : List Byte) : Nat := fieldAt b 40 6
def isAB (b : List Byte) : Bool := ctClass b == 1 || ctClass b == 2

/-- R89: the contracts in force under every accepted submission for the coming boundary, but those of VNPU v. -/
def stagedOthers (s : State) (v : Nat) : List (List Byte) := ((withStaged s).contracts.inForce.filter fun e => e.1 != v).map (·.2.bytes)

def ctReserved (b : List Byte) : Bool :=
  nbits (fieldAt b 2 1) 6 2 != 0 || fieldAt b 3 1 != 0 || fieldAt b 12 4 != 0 || nbits (ctMode b) 7 4 != 0 || fieldAt b 33 7 != 0 ||
    !allZero ((b.drop 46).take 18) || decide (4 ≤ ctClass b)

/-- R89 code 0x04. -/
def waysBad (b : List Byte) (others : List (List Byte)) : Bool :=
  let abs := (others.filter isAB) ++ (if isAB b then [b] else [])
  (isAB b && (ctWays b == 0 || (others.filter isAB).any fun o => ctWays o &&& ctWays b != 0)) || (ctClass b == 3 && ctWays b != 0) ||
    decide (popcount64 (BitVec.ofNat 64 (65535 - abs.foldl (fun a o => a ||| ctWays o) 0)) < 2)

/-- The staged frame table. -/
def stagedView (s : State) : List Window := match s.frame.staged with | some t => t.2 | none => s.frame.view
def stagedLen (s : State) : Nat := match s.frame.staged with | some t => t.1 | none => s.frame.len

/-- R89 code 0x06. -/
def windowsBad (s : State) (v : Nat) (b : List Byte) (others : List (List Byte)) : Bool :=
  ctWin b == 0 || (isAB b && others.any fun o => ctWin o &&& ctWin b != 0) || (ctClass b == 3 && (others.filter isAB).any fun o => ctWin o &&& ctWin b != 0) ||
    (List.range 32).any fun i => nbits (ctWin b) i i == 1 &&
      match (stagedView s)[i]? with
      | some w => !(w.valid && (if w.shared then ctClass b == 3 else w.owner == v))
      | none => true

/-- R84, R89 code 0x07. -/
def ratesBad (b : List Byte) : Bool :=
  decide (ctIRate b < 1 ∨ 10240 < ctIRate b ∨ ctIDepth b < max 64 (ctIRate b) ∨ 16777216 < ctIDepth b ∨ ctMRate b < 1 ∨ 4096 < ctMRate b ∨
    ctMDepth b < max 64 (ctMRate b) ∨ 16777216 < ctMDepth b) || ctMode b % 4 == 0 || ctMode b / 4 % 4 == 0

/-- R88: CT_EMAX of the running firmware's power tables. -/
def emaxNow (s : State) : Nat := (Config.emax (BitVec.ofNat 32 s.fw.fwver)).toNat

/-- R89 code 0x0A: PWR_CAP × the frame length, in 1/16 nJ. -/
def energyBound (s : State) : Nat := s.pwrCap * stagedLen s * 160000

def anyRing (s : State) (v : Nat) : Bool := (vnpuAt s v).rings.any fun e => e.2.en

def classInForce (s : State) (v : Nat) : Nat := match mfind s.contracts.inForce v with | some c => ctClass c.bytes | none => 0

/-- R89: the code of the first check that fails. -/
def contractCheck (s : State) (b : List Byte) : Nat :=
  let v := fieldAt b 0 1
  let others := stagedOthers s v
  let sum := fun (f : List Byte → Nat) (l : List (List Byte)) => l.foldl (fun a o => a + f o) 0
  let before := (withStaged s).contracts.inForce.foldl (fun a e => a + ctQuota e.2.bytes) 0
  let after := sum ctQuota (b :: others)
  if v = 0 ∨ s.numVFs < v then 0x01
  else if ctReserved b then 0x02
  else if ctClass b = 0 then (if classInForce s v ≠ 0 ∧ anyRing s v then 0x0B else 0)
  else if ctClass b = 1 ∧ (fieldAt b 2 1 % 4 ≠ 0 ∨ nbits (fieldAt b 2 1) 7 7 ≠ 1) then 0x03
  else if waysBad b others then 0x04
  else if (32768 < ctOcc b ∧ ctOcc b ≠ 0xFFFF) ∨ (isAB b ∧ ctOcc b ≠ 0xFFFF) then 0x05
  else if windowsBad s v b others then 0x06
  else if ratesBad b then 0x07
  else if 4096 < sum ctMRate (b :: others) then 0x08
  else if ctQuota b ≤ emaxNow s then 0x09
  else if energyBound s < after ∧ before < after then 0x0A
  else if classInForce s v ≠ ctClass b ∧ anyRing s v then 0x0B
  else 0

/-- CT_CTL_GO (R88): the record is submitted as it stands; ignored while BUSY is 1, and in recovery (R63). -/
def execCtCtlGo (s : State) : Outcome :=
  .next (if s.contracts.busy || inert s then s else post (modContracts s fun c => { c with busy := true, submitted := readBytes c.record 0 64, vnpu := (readByte c.record 0).toNat }) .contractValidated)

/-- CONTRACT_VALIDATED (R88 to R90): by the active complex, so not without firmware (R76). -/
def execContractValidated (s : State) : Outcome :=
  .next <|
    if !s.contracts.busy || s.fw.mode == .dead then s
    else
      let b := s.contracts.submitted
      let code := contractCheck s b
      let s1 := modContracts s fun c =>
        { c with busy := false, done := true, code := code,
                 staged := if code = 0 then mput c.staged (fieldAt b 0 1) (if ctClass b = 0 then none else some { bytes := b, emax := emaxNow s }) else c.staged,
                 lastDone := if code = 0 then s.tick.toNat else c.lastDone }
      mirrorTable (raise s1 0 58)

/-! ## Ending a VNPU's work (R92, R94) -/

/-- R94 step 7: what the VNPU's teams hold on a core is zeroed: allotments, sets, output buffers. -/
def zeroHoldings (s : State) (v : Nat) : State :=
  let gran := fun (core : Nat) => ((ctxAt s (2 * core)).gran.filter fun _ => (ctxAt s (2 * core)).v == v && (ctxAt s (2 * core)).phase != .empty) ++
    ((ctxAt s (2 * core + 1)).gran.filter fun _ => (ctxAt s (2 * core + 1)).v == v && (ctxAt s (2 * core + 1)).phase != .empty)
  { s with cores := s.cores.map fun e => (e.1, { e.2 with
      scratch := (gran e.1).foldl zeroGranule e.2.scratch
      accs := e.2.accs.map fun a => match a.2.owner with | some o => if o.v = v then (a.1, { freshSet with lastV := v }) else a | none => a }) }

/-- R94 step 5: the VNPU's dirty lines are written back; then its lines are gone. -/
def dropSlices (s : State) (v : Nat) : State :=
  let s1 := s.slices.foldl (fun t e => e.2.foldl (fun u l => if l.owner == v then writeback u l else u) t) s
  { s1 with slices := s1.slices.map fun e => (e.1, e.2.filter fun l => l.owner != v) }

/-- R94 step 6: the VNPU's translations are gone from every TLB, locked ones too. -/
def dropTlbs (s : State) (v : Nat) : State :=
  let f := fun (l : List TlbEntry) => l.filter fun e => e.v != v
  modXlate { s with cores := s.cores.map fun e => (e.1, { e.2 with tlb := f e.2.tlb }) } fun t => { t with l2 := t.l2.map fun e => (e.1, f e.2) }

def launchesOfV (s : State) (v : Nat) : List Nat := (s.launches.filter fun e => e.2.v == v).map (·.1)

/-- R94 steps 2 to 7: packets, teams, commands, lines, translations, holdings. No record is written. -/
def endVnpuWork (s : State) (v : Nat) : State :=
  let s1 := (List.range 16).foldl (fun t q => abandonQueue t v q) s
  let s2 := (launchesOfV s1 v).foldl (fun t l => endLaunch t l none) (zeroHoldings s1 v)
  zeroHoldings (dropTlbs (dropSlices s2 v) v) v

/-- R94 step 8: ring and logical-queue registers and CHG take their reset values; record counts start again (R51, R205, R206). -/
def resetVnpu (s : State) (v : Nat) : State :=
  modVnpu s v fun x => { x with rings := [], queues := [], chg := false, tfcnt := 0, mpcnt := 0, mccnt := 0 }

/-- R97: the class A windows of the VNPU in which it is reset stay idle to their end. -/
def idleWindows (s : State) (v : Nat) : State :=
  let own := (s.frame.view.zipIdx.filter fun e => classAWindow s e.2 e.1 && e.1.owner == v && windowActive s e.1).map fun e => (e.2, v)
  modFrame s fun f => { f with idle := f.idle ++ own.filter fun e => !f.idle.contains e }

/-- GUEST_RESET (R94 to R97): a second one during the first is ignored. A move of the VNPU's page completes first (R49); with `flag` it has. -/
def execGuestReset (v : Nat) (s : State) : Outcome :=
  let moving := s.mgmt.moving.any fun m => m.v == v
  .next <|
    if (vnpuAt s v).resetting && !s.run.arg.flag then s
    else
      let s1 := idleWindows (modVnpu s v fun x => { x with resetting := true }) v
      if moving then s1 else post (resetVnpu (endVnpuWork s1 v) v) (.guestResetDone v)

/-- GUEST_RESET_DONE (R94): the function is ready; work of others may take the banks. -/
def execGuestResetDone (v : Nat) (s : State) : Outcome :=
  .next (if (vnpuAt s v).resetting then modVnpu s v fun x => { x with resetting := false } else s)

/-! ## The frame boundary (R91, R92, R157, R159) -/

/-- R84, R157: a bucket takes the rate, depth and mode of a contract; its level is cut to the new depth. -/
def programBucket (b : Bucket) (rate depth mode : Nat) : Bucket := { b with rate, depth, mode, level := min b.level depth }

def programVnpu (s : State) (v : Nat) (b : List Byte) : State :=
  (List.range 2).foldl (fun t d => (List.range 80).foldl (fun u p =>
    setBucket u d p v (if p < 64 then programBucket (bucketAt u d p v) (ctIRate b) (ctIDepth b) (ctMode b % 4)
      else programBucket (bucketAt u d p v) (ctMRate b) (ctMDepth b) (ctMode b / 4 % 4))) t) s

/-- R92, R157: with CLASS 0 the buckets are unregulated, and what they hold is admitted in order. -/
def unregulate (s : State) (v : Nat) : State :=
  (List.range 2).foldl (fun t d => (List.range 80).foldl (fun u p =>
    let b := bucketAt u d p v
    b.held.foldl (fun w h => admitReq w (bucketKey d p v) h) (setBucket u d p v { b with mode := 0, held := [] })) t) s

/-- R92: packets that the merge units have not yet taken are discarded too: HEAD becomes TAIL, and EN stays (DESIGN CHOICE, log 85). -/
def dropRings (s : State) (v : Nat) : State :=
  modVnpu s v fun x => { x with rings := x.rings.map fun e => (e.1, { e.2 with head := e.2.tail, header := [] }) }

/-- R82, R91: a VNPU whose record has changed. -/
def noteChange (s : State) (v : Nat) : State := raise (modVnpu s v fun x => { x with chg := true }) v 62

/-- R91, R92: one staged contract takes effect; the record in force, submitted again, is no change. -/
def takeContract (s : State) (e : Nat × Option Contract) : State :=
  match e.2 with
  | some c => if (mfind s.contracts.inForce e.1).map (·.bytes) = some c.bytes then s else noteChange (programVnpu s e.1 c.bytes) e.1
  | none => if (mfind s.contracts.inForce e.1).isSome then noteChange (unregulate (dropRings (endVnpuWork s e.1) e.1) e.1) e.1 else s

/-- R91: the staged set takes effect as one step. -/
def takeStaged (s : State) : State :=
  if stagedDue s s.tick.toNat then
    let t := withStaged s
    let u := s.contracts.staged.foldl takeContract s
    { u with frame := { u.frame with len := t.frame.len, view := t.frame.view, staged := none }, contracts := t.contracts }
  else s

/-- R154, R155, R159, R163: counts of a frame start again. -/
def newFrameCounts (s : State) : State :=
  { s with
    vnpus := s.vnpus.map fun e => (e.1, { e.2 with eused := 0, exhausted := false, overrun := false })
    buckets := s.buckets.map fun e => (e.1, { e.2 with exh := 0, trapped := false }) }

/-- R27: absent cores are removed from every window grant. -/
def dropAbsent (s : State) : State :=
  modFrame s fun f => { f with view := f.view.map fun w =>
    { w with cores := (List.range 96).foldl (fun m c => if (coreAt s c).absent then m &&& ~~~(1#96 <<< c) else m) w.cores } }

/-- FRAME_BOUNDARY (R91, R136): the staged set, the counts of the new frame, linked launches tested again, the standby's copy (R75). -/
def execFrameBoundary (s : State) : Outcome :=
  .next <|
    let s1 := dropAbsent (newFrameCounts (takeStaged s))
    let s2 := modFrame s1 fun f => { f with tick := 0, frames := f.frames + 1 }
    mirrorTable (s2.launches.foldl (fun t e => retestLinked t e.1) s2)

/-! ## Quota exhaustion (R163) -/

/-- R163 step 2, R164: a team of the VNPU that is to stop, or has stopped at this tick: any but a class A team in its window. -/
def quotaStops (s : State) (v c : Nat) : Bool :=
  let x := ctxAt s c
  x.v == v && (x.phase == .running || (x.phase == .stopped && x.stopAt == s.tick.toNat + 1)) && x.drain == .off && !inClassA s c

/-- R163 steps 2 and 5: the teams stop; the notice of each is due before it runs again. -/
def quotaStop (v : Nat) (s : State) : State :=
  let l := (List.range 192).filter (quotaStops s v)
  l.foldl (fun t c => if quotaStops t v c then stopWithMates t c else t) (l.foldl (fun t c => modCtx t c fun y => { y with pend27 := true }) s)

/-- R163 step 4: the overrun is recorded once no started command is left. -/
def recordOverrun (s : State) (v : Nat) : State :=
  match mfind s.contracts.inForce v, usableQuota s v with
  | some c, some u =>
    if anyStarted s v || (vnpuAt s v).overrun then s
    else
      let o := (vnpuAt s v).eused - u
      raise (modVnpu s v fun x => { x with overrun := true, eovr := BitVec.ofNat 64 (o + if c.emax < o then 2 ^ 63 else 0) }) v 34
  | _, _ => s

/-- QUOTA_EXHAUSTED (R163). -/
def execQuotaExhausted (v : Nat) (s : State) : Outcome :=
  .next <|
    if !(vnpuAt s v).exhausted then s
    else
      let s1 := quotaStop v s
      recordOverrun (if classOf s v = 1 then s1 else (launchesOfV s1 v).foldl dropHold s1) v

end Sys2Proof.Machine
end

