-- ==== Sys2Proof/Machine/Power.lean ====
section
/-!
DEFINITION. Bandwidth and energy in time (R149 to R162, R475), power levels and their ramps (R20, R165 to R171), the droop response (R172, R173, R472),
the slope governor (R174 to R176), cluster gating (R177, R178), the rail loop (R273).
-/
namespace Sys2Proof.Machine

/-! ## Levels (R165) -/

/-- The core clock of a level, in 25 MHz. -/
def levelFreq (s : State) (l : Nat) : Nat := (s.levels.getD l (8, 400)).1

/-- VC of a level, in mV. -/
def levelVc (s : State) (l : Nat) : Nat := (s.levels.getD l (8, 400)).2

/-- R20: the level the temperatures allow; level 7 is boost. -/
def thermalCap (s : State) (p : Cluster) : Nat := min p.cap (if s.boost then 7 else 6)

/-- R130: the running windows decide that have a core in one of the clusters `l`. -/
def askClusters (s : State) (l : List Nat) : State :=
  if s.frame.started then
    (s.frame.view.zipIdx).foldl (fun t e => if windowActive t e.1 && (windowCores e.1).any (fun c => l.contains (clusterOf c)) then post t (.dispatchDecision e.2) else t) s
  else s

/-- R165, R273: a cluster is granted a level; a change sets VL1 to VL3 to the level's VC. -/
def grantLevel (s : State) (p : Cluster) (l : Nat) : Cluster :=
  if l = p.level then p
  else { p with level := l, vl1 := levelVc s l, vl2 := levelVc s l, vl3 := levelVc s l, wa := p.wa || decide (levelVc s l < 480) }

/-- R130: a change of a granted level is a decision of the windows with a core in its cluster. -/
def noteLevels (s0 s : State) : State :=
  match (List.range 12).filter fun k => (clusterAt s0 k).level != (clusterAt s k).level with
  | [] => s
  | l => askClusters s l

/-! ## The regulator tick (R149, R153, R166) -/

/-- R153: held requests in arrival order, each while the level reaches its charge: the level left, those admitted, those still held. -/
def admitHeld (level : Nat) : List HeldReq → Nat × List HeldReq × List HeldReq
  | [] => (level, [], [])
  | h :: r =>
    if h.charge ≤ level then
      let a := admitHeld (level - h.charge) r
      (a.1, h :: a.2.1, a.2.2)
    else (level, [], h :: r)

/-- One bucket at a tick: the refill, then what it holds. -/
def tickBucket (s : State) (e : Nat × Bucket) : State :=
  let a := admitHeld (min e.2.depth (e.2.level + e.2.rate)) e.2.held
  a.2.1.foldl (fun t h => admitReq t e.1 h) { s with buckets := mput s.buckets e.1 { e.2 with level := a.1, held := a.2.2 } }

/-- The clusters' rails do not rise: they are off (R20), or the clusters are held in reset (R63). -/
def clustersHeld (s : State) : Bool := s.railsOff || s.fw.mode == .recovery

/-- R166: a level above the thermal cap drops to it. -/
def dropToCap (s : State) (k : Nat) : State :=
  let p := clusterAt s k
  if thermalCap s p < p.level then modCluster s k fun p => grantLevel s p (thermalCap s p) else s

/-- REGULATOR_TICK (R149, R153, R166). -/
def execRegulatorTick (s : State) : Outcome :=
  let s1 := s.buckets.foldl tickBucket s
  .next (if clustersHeld s then s1 else noteLevels s ((List.range 12).foldl dropToCap s1))

/-- BUCKET_REQUEST (R152 to R155): a request of context ctx arrives at a point: a bridge, a walker, a controller, or with `engine` an engine of the context's
core (log 24). Nobody waits for it. `flag` marks an atomic. -/
def execBucketRequest (die point v bytes ctx : Nat) (engine : Bool) (s : State) : Outcome :=
  let charge := if 64 ≤ point then (bytes + 63) / 64 * 64 else initCharge bytes s.run.arg.flag
  let copying := match mfind (coreAt s (coreOf ctx)).units 4 with | some u => u.ctx == ctx | none => false
  let asker := if engine then { s.run with unit := if copying then 4 else 2, agent := .turn (.engine (coreOf ctx) (if copying then 2 else 0)) } else s.run
  let s1 := (bucketArrive { s with run := asker } die point v .nobody ctx charge).1
  .next { s1 with run := { s1.run with agent := s.run.agent } }

/-! ## Energy (R161, R162, R475) -/

def staticTimes (core : Nat) : Nat → State → State
  | 0, s => s
  | n + 1, s => staticTimes core n (staticOnce s core)

/-- STATIC_CHARGE (R162, R475): the charge of one even cycle, and of `n` further ones. -/
def execStaticCharge (core : Nat) (s : State) : Outcome := .next (staticTimes core (s.run.arg.n + 1) s)

/-- CHARGE_RETURN (R161): a charge returns for a team of the launch `n`: resident in its bank, in its save area, or gone. -/
def execChargeReturn (c team v units : Nat) (s : State) : Outcome :=
  let launch := s.run.arg.n
  let mine := fun (x : Ctx) => x.team == team && x.v == v && x.launch == launch
  .next <|
    if (ctxAt s c).phase ≠ .empty ∧ mine (ctxAt s c) then chargeTeam s c units
    else
      let s1 := chargeVnpu s v units
      match s1.saves.find? fun e => mine e.2.ctx with
      | some e => { s1 with saves := mput s1.saves e.1 { e.2 with charge := e.2.charge + units } }
      | none => s1

/-! ## The rail loop (R273) -/

/-- R269: 1 / C for a level's ceiling C. -/
def ceilingInv (f : Nat) : Nat := if f = 1 then 10 ^ 9 else if f = 2 then 10 ^ 7 else 10 ^ 5

def vlFloor (s : State) : Nat := 300 + 10 * (Config.vlmin (BitVec.ofNat 32 s.fw.fwver)).toNat

/-- The step of the table, as mV up and mV down. -/
def railStep (f d n : Nat) : Nat × Nat :=
  let i := ceilingInv f
  if n = 0 then (0, 0)
  else if n < d * i then (30, 0)
  else if n < 4 * d * i then (10, 0)
  else if 16 * d * i < n ∧ 16 * i ≤ n then (0, 10)
  else (0, 0)

/-- R273: no VL value lies below VLMIN or above VC. -/
def vlClamp (floor : Nat) (p : Cluster) : Cluster :=
  let v := fun x => max floor (min p.vc x)
  { p with vl1 := v p.vl1, vl2 := v p.vl2, vl3 := v p.vl3 }

/-- The loop at a grant instant, for the target level `ft` in force. -/
def railLoop (floor ft : Nat) (p : Cluster) : Cluster :=
  let d := mget p.mism ft 0
  let st := railStep ft d (mget p.products ft 0)
  let v := vlOf p ft + st.1 - st.2
  vlClamp floor { p with
    vl1 := if ft = 1 then v else p.vl1
    vl2 := if ft = 2 then v else p.vl2
    vl3 := if ft = 3 then v else p.vl3
    dcnt := BitVec.ofNat 32 (min d (2 ^ 32 - 1)), mism := [], products := [] }

/-- R273: VL moves one step of 10 mV towards its value for the target level, never above VC. -/
def vlMove (ft : Nat) (p : Cluster) : Cluster :=
  let t := min (vlOf p ft) p.vc
  { p with vl := min p.vc (if p.vl < t then min t (p.vl + 10) else max t (p.vl - 10)) }

/-- R178: the cluster's clock runs and its VC and VL stand: it is not gated, or on its way there. -/
def railsUp (p : Cluster) : Bool := decide (p.gstate ≤ 2)

/-- VL_STEP (R273): every cluster whose VL stands. -/
def execVlStep (s : State) : Outcome :=
  .next (if clustersHeld s then s
    else (List.range 12).foldl (fun t k => modCluster t k fun p => if railsUp p then vlMove (targetLevel s k) p else p) s)

/-! ## Grants (R166) -/

/-- Clusters that are not gated. -/
def clustersOn (s : State) : List Nat := (List.range 12).filter fun k => (clusterAt s k).gstate == 0

/-- The cluster with the highest measured power that can still go down. -/
def hottest (s : State) (power : List Nat) : Option Nat :=
  ((clustersOn s).filter fun k => decide (0 < (clusterAt s k).level)).foldl
    (fun a k => match a with | some b => if power.getD b 0 < power.getD k 0 then some k else a | none => some k) none

/-- R166: a cluster rises one level when the average leaves room for the step's cost; `used` is the average with the costs of steps taken. -/
def raiseLevels (costs : List Nat) : List Nat → Nat → State → State
  | [], _, s => s
  | k :: r, used, s =>
    let p := clusterAt s k
    if p.level < thermalCap s p ∧ used + costs.getD k 0 ≤ s.pwrCap then
      raiseLevels costs r (used + costs.getD k 0) (modCluster s k fun p => grantLevel s p (p.level + 1))
    else raiseLevels costs r used s

/-- The grant of R166 for the measured powers `power` of the clusters, the 1 ms average and the costs of a step up. -/
def grantAll (s : State) (power : List Nat) (average : Nat) (costs : List Nat) : State :=
  let s1 := (List.range 12).foldl dropToCap s
  if s1.pwrCap < average then
    match hottest s1 power with
    | some k => modCluster s1 k fun p => grantLevel s p (p.level - 1)
    | none => s1
  else raiseLevels costs (clustersOn s1) average s1

/-- POWER_GRANT (R166, R176, R273): `nums` the measured powers, `n` the average, `nums2` the costs (log 22). A slope conflict's lower clock ends. -/
def execPowerGrant (s : State) : Outcome :=
  let a := s.run.arg
  .next <|
    if clustersHeld s then s
    else
      let s1 := (List.range 12).foldl (fun t k => modCluster t k fun p => if railsUp p then railLoop (vlFloor s) (targetLevel s k) p else p) s
      let s2 := (List.range 12).foldl (fun t k => modCluster t k fun p => { p with conflict := 0 }) s1
      noteLevels s (grantAll s2 a.nums a.n a.nums2)

/-- R20: what a temperature in °C caps a cluster's level at. -/
def tempCap (t : Nat) : Nat := if 105 < t then 0 else if 95 < t then 5 else 7

/-- R20: VC and VL of every cluster are removed; its clock stops with them. -/
def removeRails (s : State) : State :=
  (List.range 12).foldl (fun t k => modCluster t k fun p => { p with vc := 0, vl := 0, freq := 0 })
    { s with out := { s.out with thermtrip := true }, railsOff := true }

/-- THERMAL_SAMPLE (R20): `nums` the clusters' temperatures in °C, `nums2` those of the slice groups and PHYs, which cap no cluster: the spec names none that they
concern (DESIGN CHOICE, log 64). -/
def execThermalSample (s : State) : Outcome :=
  let a := s.run.arg
  let all := a.nums ++ a.nums2
  .next <|
    let s1 := (a.nums.zipIdx).foldl (fun t e => modCluster t e.2 fun p => { p with cap := tempCap e.1 }) s
    let s2 := { s1 with boost := !(all.any fun t => decide (105 < t)) }
    if all.any fun t => decide (125 < t) then removeRails s2 else s2

/-! ## Ramps (R170, R171, R176) -/

/-- The clock a cluster is to reach: its level's, less the steps of a slope conflict. -/
def targetFreq (s : State) (p : Cluster) : Nat := max 8 (levelFreq s p.level - p.conflict)

/-- What the next step of a ramp moves: the clock down, VC up, the clock up, VC down, or nothing. -/
inductive Ramp where
  | none | freqDown | vcUp | freqUp | vcDown
  deriving DecidableEq, Repr

def rampOf (s : State) (p : Cluster) : Ramp :=
  if p.gstate ≠ 0 then .none
  else if targetFreq s p < p.freq then .freqDown
  else if p.vc < levelVc s p.level then .vcUp
  else if p.freq < targetFreq s p then .freqUp
  else if levelVc s p.level < p.vc then .vcDown
  else .none

def rampStep (s : State) (p : Cluster) : Cluster :=
  let q := match rampOf s p with
    | .none => p
    | .freqDown => { p with freq := p.freq - 1 }
    | .vcUp => { p with vc := min (levelVc s p.level) (p.vc + 5) }
    | .freqUp => { p with freq := p.freq + 1 }
    | .vcDown => { p with vc := max (levelVc s p.level) (p.vc - 5) }
  { q with wa := decide (levelVc s q.level < 480 ∨ q.vc < 480) || (q.wa && decide (q.vc = 480)), vl := min q.vl q.vc }

/-- LEVEL_RAMP_STEP (R170, R171): one step of 25 MHz or 5 mV. -/
def execLevelRampStep (k : Nat) (s : State) : Outcome := .next (if clustersHeld s then s else modCluster s k (rampStep s))

/-! ## Droop (R172, R173, R472 to R474) -/

def satAdd32 (x : BitVec 32) (n : Nat) : BitVec 32 := BitVec.ofNat 32 (min (x.toNat + n) (2 ^ 32 - 1))

/-- DROOP_ALARM (R173, R472, R473): counted; absorbed in the six stretched cycles; else a response starts with the next cycle, until when a window that is open stays so. -/
def execDroopAlarm (k : Nat) (s : State) : Outcome :=
  .next (modCluster s k fun p =>
    { p with alarms := satAdd32 p.alarms 1, stretch := if p.stretch = 0 then 6 else p.stretch })

/-- DROOP_RESPONSE_END (R472): the half-issue window's last cycle is over. -/
def execDroopResponseEnd (k : Nat) (s : State) : Outcome :=
  .next (modCluster s k fun p => if p.stretch = 0 ∧ p.throttle ≤ 1 then { p with throttle := 0 } else p)

/-! ## The slope governor (R174 to R176) -/

/-- BALLAST (R175): cycles with ballast; `n` its energy, charged to device overhead. -/
def execBallast (k cycles : Nat) (s : State) : Outcome :=
  .next { modCluster s k fun p => { p with bal := satAdd32 p.bal cycles } with overhead := s.overhead + s.run.arg.n }

/-- SLOPE_CONFLICT_STEP (R176): the clock goes 25 MHz down; the granted level stays. -/
def execSlopeConflictStep (k : Nat) (s : State) : Outcome :=
  .next (modCluster s k fun p =>
    if p.gstate = 0 ∧ 8 < targetFreq s p then
      let q := { p with conflict := p.conflict + 1 }
      { q with freq := min p.freq (targetFreq s q) }
    else p)

/-! ## Gating (R177, R178) -/

def setGate (s : State) (k st : Nat) : State := raise (modCluster s k fun p => { p with gstate := st }) 0 56

def coresOfCluster (k : Nat) : List Nat := (List.range 8).map fun j => 8 * k + j

/-- R177 code 1: a core of the cluster lies in a valid window in force or staged. -/
def inAnyWindow (s : State) (k : Nat) : Bool :=
  (s.frame.view ++ stagedView s).any fun w => w.valid && (coresOfCluster k).any fun c => w.cores.getLsbD c

/-- R25: a retirement of logical core c is in progress. -/
def coreRetiring (s : State) (c : Nat) : Bool := (coreAt s c).frozen || (coreAt s c).leaving

/-- R25: a core's retirement is in progress. -/
def anyRetiring (s : State) : Bool := (s.cores.any fun e => e.2.frozen || e.2.leaving) || [0, 1].any fun p => (portAt s p).state == 3

/-- R177, R179: why a cluster may not be gated; a spare being brought in comes first. -/
def gateCode (s : State) (k : Nat) : Nat :=
  if (coresOfCluster k).any (coreRetiring s) then 2
  else if inAnyWindow s k then 1
  else if anyRetiring s then 2
  else if s.fw.upd = 3 ∨ s.fw.upd = 4 then 3
  else 0

/-- GATE (R177): a write of CG_CTL; the register does nothing in recovery (R63). -/
def execGate (k : Nat) (value : Word) (s : State) : Outcome :=
  .next <|
    if !value.getLsbD 0 || (clusterAt s k).gstate != 0 || s.fw.mode == .recovery then s
    else
      let code := gateCode s k
      let s1 := modCluster s k fun p => { p with gcode := code }
      if code = 0 then setGate s1 k 1 else s1

/-- WAKE (R177): a write of CG_WAKE. -/
def execWake (k : Nat) (value : Word) (s : State) : Outcome :=
  .next (if value.getLsbD 0 ∧ (clusterAt s k).gstate = 3 ∧ s.fw.mode ≠ .recovery then setGate s k 4 else s)

/-- R178 step 1: no team is resident and no command is queued. -/
def clusterQuiet (s : State) (k : Nat) : Bool :=
  (coresOfCluster k).all fun c => (ctxAt s (2 * c)).phase == .empty && (ctxAt s (2 * c + 1)).phase == .empty && (coreAt s c).units.isEmpty

/-- The walker, the L2 TLB and the cores' own TLBs and caches are empty. -/
def flushCluster (s : State) (k : Nat) : State :=
  modXlate ((coresOfCluster k).foldl (fun t c => modCore t c fun x => { x with tlb := [], icache := [], lcache := [] }) s)
    fun t => { t with l2 := mdel t.l2 k }

/-- GATING_STATE_CHANGE (R178): the next state of a cluster that is quiescing, saving or waking; rails that have been removed do not come back (R20). -/
def execGatingStateChange (k : Nat) (s : State) : Outcome :=
  .next <|
    match (clusterAt s k).gstate with
    | 1 => if clusterQuiet s k then setGate (flushCluster s k) k 2 else s
    | 2 => setGate (modCluster s k fun p => { p with freq := 0, vc := 0, vl := 0, wa := false, mism := [], products := [], stretch := 0, slow := false, held := false, throttle := 0, conflict := 0 }) k 3
    | 4 =>
      if clustersHeld s then s
      else setGate (modCluster s k fun p =>
        let q := grantLevel s p 0
        { q with cycle := 0, part := 0, freq := targetFreq s q, vc := levelVc s 0, vl := min (levelVc s 0) (vlOf q (targetLevel s k)), wa := decide (levelVc s 0 < 480) }) k 0
    | _ => s

end Sys2Proof.Machine
end

