-- ==== Sys2Proof/Machine/Network.lean ====
section
/-!
DEFINITION. Translation events (R214, R215, R221), the fault ring and its answers (R223 to R226), slices and atomics (R228 to R231), replies (R284), flits
(R197 to R199), frame remapping and the patrol scrub (R233, R234).
-/
namespace Sys2Proof.Machine

/-! ## Tables and TLBs -/

/-- TABLE_WALK (R215): a core's walker walks for VNPU v and fills its TLBs; none starts in locked-window mode (R222). -/
def execTableWalk (core v : Nat) (va : Word) (s : State) : Outcome :=
  .next <|
    if lockedMode s v ∨ wbits va 63 48 ≠ 0 then s
    else
      let s1 := walkReads s (clusterOf core) 300 v va.toNat
      match walk s v va with
      | .ok size leaf =>
        let e := newEntry v size va leaf
        modCore (modXlate s1 fun t => { t with l2 := mput t.l2 (clusterOf core) (tlbFill 512 8 (mget t.l2 (clusterOf core) []) e) }) core
          fun k => { k with tlb := if lockedCount k.tlb < 192 then tlbFill 16 12 k.tlb e else k.tlb }
      | _ => s1

/-- TI_CTL_GO (R221): ignored while BUSY is 1, and in recovery (R63). -/
def execTiCtlGo (value : Word) (s : State) : Outcome :=
  .next <|
    if !value.getLsbD 0 || s.xlate.tiBusy || inert s then s
    else post (modXlate s fun t => { t with tiBusy := true, tiReq := value }) .tlbInvalidationDone

/-- R221: the entries a request names. -/
def tiHit (r : Word) (e : TlbEntry) : Bool := tlbHit (wbits r 29 25) (wbits r 24 23) (r.getLsbD 22) (wbits r 63 30) e

/-- R221: an access of the request's VNPU that has translated through a dropped entry and is not acknowledged. One that is to be made again (R223, R226) stands on no
translation. -/
def tiPending (s : State) (r : Word) : Bool :=
  (s.ctxs.any fun e => e.2.v == wbits r 29 25 && e.2.mem.any fun p => p.place != .done && p.place != .pageHeld &&
    (List.range 3).any fun z => tiHit r { v := wbits r 29 25, size := z, vpn := vpnOf p.va.toNat z, leaf := 0, set := 0, locked := false }) ||
    requestThrough s (fun _ => true) ((s.cores.flatMap (·.2.tlb) ++ s.xlate.l2.flatMap (·.2)).filter (tiHit r))

/-- TLB_INVALIDATION_DONE (R221): once no access stands on a dropped entry. -/
def execTlbInvalidationDone (s : State) : Outcome :=
  .next <|
    if !s.xlate.tiBusy || tiPending s s.xlate.tiReq then s
    else
      let f := fun (l : List TlbEntry) => l.filter fun e => !tiHit s.xlate.tiReq e
      let s1 := { s with cores := s.cores.map fun e => (e.1, { e.2 with tlb := f e.2.tlb }) }
      raise (modXlate s1 fun t => { t with l2 := t.l2.map fun e => (e.1, f e.2), tiBusy := false, tiDone := true }) 0 54

def setTd (s : State) (v size r : Nat) (w : Word) : State := modXlate s fun t => { t with td := mput t.td (32 * v + 4 * size + r) w }

/-- TD_CMT_GO (R214), without effect in recovery (R63). -/
def execTdCmtGo (v size : Nat) (value : Word) (s : State) : Outcome :=
  let new := tdReg s v size 1
  .next <|
    if !inert s ∧ value.getLsbD 0 ∧ tdEn new ∧ wbits (tdReg s v size 2) 31 0 = 2 ^ tdB (tdReg s v size 0) then
      setTd (setTd (setTd s v size 0 new) v size 1 (new &&& ~~~0x80#64)) v size 2 0
    else s

/-! ## Not-present faults -/

/-- NOT_PRESENT_FAULT (R223): context c's sequencer meets 0x10 at an address, or, with `engine`, its running copy or epilogue does. -/
def execNotPresentFault (c : Nat) (va : Word) (kind : Nat) (malf engine : Bool) (s : State) : Outcome :=
  let x := ctxAt s c
  .next <|
    if x.phase ≠ .running then s
    else if engine then
      match mfind (coreAt s (coreOf c)).units 4, mfind (coreAt s (coreOf c)).units 2 with
      | some u, w =>
        if u.ctx = c then engineStop s c 4 { u with cmd := stoppedCopy u.cmd } (.absent va (kind == 1) malf)
        else match w with
          | some y => if y.ctx = c then engineStop s c 2 y (.absent va true malf) else s
          | none => s
      | none, some y => if y.ctx = c then engineStop s c 2 y (.absent va true malf) else s
      | none, none => s
    else if x.fault.isSome then s
    else takeNotPresent s c va kind malf

/-- R223: loads that have been issued and not landed. -/
def loadOut (p : Pend) : Bool := (p.kind == .load || p.kind == .ldacq || p.kind == .pref) && p.place != .pageHeld

/-- R223: access i of a context and the loads behind it are to be made again. -/
def madeAgain (i : Nat) (e : Pend × Nat) : Bool := e.2 == i || (decide (i < e.2) && loadOut e.1)

/-- The requests of context c's accesses in a bucket, one for each access that stands there, in order: those of `gone` leave it. -/
def leaveHeld (c : Nat) : List Bool → List HeldReq → List HeldReq
  | _, [] => []
  | [], l => l
  | g :: gone, h :: r =>
    if h.who == .access c then (if g then leaveHeld c gone r else h :: leaveHeld c gone r) else h :: leaveHeld c (g :: gone) r

/-- R153, R223: a discarded load leaves the bucket at which it stands. -/
def dropHeld (s : State) (c i : Nat) : State :=
  let x := ctxAt s c
  let b := bucketAt s (dieOfCtx c) (coreOf c % 48) x.v
  let gone := (x.mem.zipIdx.filter fun e => e.1.place == .held).map (madeAgain i)
  if gone.any id then setBucket s (dieOfCtx c) (coreOf c % 48) x.v { b with held := leaveHeld c gone b.held } else s

/-- R46, R223, R226: pending access i of context c turns out to be not present after it has left: it and the younger loads are made again once the fault is
answered. -/
def refusePend (s : State) (c i : Nat) (malf : Bool) : State :=
  let x := ctxAt s c
  match pendAt x i with
  | none => s
  | some p =>
    let s1 := setCtx (dropHeld s c i) c { x with mem := x.mem.zipIdx.map fun e => if madeAgain i e then { e.1 with place := .pageHeld } else e.1 }
    if openFault x.fault then s1 else takeNotPresent s1 c p.va (chkKind (chkOf p.kind)) malf

/-- R224: records the fault ring holds. -/
def pfqSlots (s : State) : Nat := 128 * 2 ^ wbits s.xlate.pfqBase 3 0

/-- R225: a fault record's bytes. -/
def faultBytes (s : State) (f : OutFault) : List Byte :=
  natLe 4 f.id ++ natLe 1 f.v ++ natLe 1 f.kind ++ natLe 1 ((if f.malf then 1 else 0) + if f.engine then 2 else 0) ++ natLe 1 f.src ++
    natLe 8 f.va.toNat ++ natLe 8 s.tick.toNat ++ natLe 8 0

/-- FAULT_RECORD_POST (R224, R225): the oldest waiting fault is written to the ring, when it has room. -/
def execFaultRecordPost (s : State) : Outcome :=
  .next <|
    match s.xlate.unposted with
    | [] => s
    | f :: r =>
      let t := s.xlate.pfqTail
      if pfqSlots s ≤ (t - s.xlate.pfqHead).toNat then s
      else
        let a := wbits s.xlate.pfqBase 45 12 * 4096 + 32 * (t.toNat % pfqSlots s)
        let s1 := modXlate { hostRequest s 0 true a 32 with host := writeBytes s.host a (faultBytes s f) } fun x =>
          { x with pfqTail := t + 1, unposted := r, outstanding := x.outstanding ++ [f] }
        (if r.isEmpty then raise s1 0 55 else post (raise s1 0 55) .faultRecordPost)

/-- R226: the PC a refused access is reported at: its own. -/
def heldPc (x : Ctx) (va : Word) : Word :=
  match x.mem.find? fun p => p.place == .pageHeld && p.va == va with
  | some p => p.pc
  | none => x.pc

/-- R226, R277: an evicted team's command that waits for a fault's answer: its epilogue, else the first of its copies. -/
def savedCmd (sv : Saved) (f : OutFault) : Option QCmd :=
  orElse (if f.unit = 4 then none else (sv.cmds.head?).map (·.2)) fun _ => (mget sv.ctx.cmdq 1 []).head?

/-- R226, R445: the record of an evicted team's command that a failed access ends. -/
def savedRecord (s : State) (sv : Saved) (f : OutFault) : State :=
  match (if f.engine then savedCmd sv f else none) with
  | none => s
  | some q =>
    let p := partsOf q.cmd
    postTeamRecord s sv.ctx.v (engineRecordBytes s sv.ctx 0x10 p.1 p.2.1 q.steps q.pc f.va)

/-- R226: an evicted team is killed: the record of its command (R445), its own, its save area, its launch's count; a bank prepared for its restore is free again, which
its window's dispatcher decides on (R130). -/
def killSaved (s : State) (n : Nat) (f : OutFault) : State :=
  match mfind s.saves n with
  | none => s
  | some sv =>
    let x := sv.ctx
    let s0 := savedRecord s sv f
    let pc := if f.engine then (savedCmd sv f).map (·.pc) else none
    let s1 := discardSave (postTeamRecord s0 x.v (teamRecordBytes s0 x 0x10 0 (pcOffset x (pc.getD (heldPc x f.va))) f.va)) n
    let s2 := (s1.ctxs.filter fun e => sv.placing && e.2.phase == .loading && e.2.launch == x.launch && e.2.team == x.team).foldl
      (fun t e => askDecision (settleBank (freeBank t e.1) (coreOf e.1)) (coreOf e.1)) s1
    countEnd s2 x.launch x.team x true true

/-- R204: the core returns to the bank that it has left for a fault, once every fault of that team is answered. -/
def switchBack (s : State) (c : Nat) : State :=
  let x := ctxAt s c
  let faults := x.fault.toList ++ x.laneFault.toList
  if !faulted x && faults.any (·.switched) && x.phase == .running && (ctxAt s (otherBank c)).drain == .off then
    modCore s (coreOf c) fun k => { k with bank := bankOf c }
  else settleBank s (coreOf c)

/-- R226, R277: the command of a restored team whose fault was posted before its eviction: its epilogue, else the first of its copies. -/
def restoredCmd (s : State) (f : OutFault) : Option QCmd :=
  let c := f.ctx
  orElse (((coreAt s (coreOf c)).units.find? fun e => f.unit != 4 && e.2.ctx == c && (e.1 == 2 || e.1 == 32 + bankOf c)).map fun e => e.2.cmd) fun _ =>
    (mget (ctxAt s c).cmdq 1 []).head?

/-- R226: a failed access of an engine kills its team, and the command is gone. -/
def failEngine (s : State) (f : OutFault) : State :=
  let c := f.ctx
  match (coreAt s (coreOf c)).units.find? fun e => e.2.paused == some f.id with
  | some e => engineKill (modCore s (coreOf c) fun k => { k with units := mdel k.units e.1 }) c e.2.cmd 0x10 f.va
  | none =>
    match restoredCmd s f with
    | some q => engineKill s c q 0x10 f.va
    | none => killTeam s c 0x10 (pcOffset (ctxAt s c) (ctxAt s c).pc) f.va

/-- R226: a paused command goes on. -/
def resumeEngine (s : State) (f : OutFault) : State :=
  modCore s (coreOf f.ctx) fun k => { k with units := k.units.map fun e => if e.2.paused == some f.id then (e.1, { e.2 with paused := none }) else e }

/-- The fault is answered. -/
def answeredFault (f : OutFault) (o : Option SeqFault) : Option SeqFault := o.map fun l => if l.id = f.id then { l with answered := true } else l

/-- R226: an answer reaches a team's access. -/
def answerTeam (s : State) (f : OutFault) (fail : Bool) : State :=
  let c := f.ctx
  let s1 := modCtx s c fun x => { x with ev := true }
  if f.engine then (if fail then failEngine s1 f else resumeEngine s1 f)
  else if f.lane then
    (if fail then laneFault s1 c 0x10 f.va else switchBack (modCtx s1 c fun x => { x with laneFault := answeredFault f x.laneFault }) c)
  else if fail then killTeam s1 c 0x10 (pcOffset (ctxAt s1 c) (heldPc (ctxAt s1 c) f.va)) f.va
  else switchBack (modCtx s1 c fun x => { x with fault := answeredFault f x.fault }) c

/-- R226: an answer reaches an evicted team. -/
def answerSaved (s : State) (f : OutFault) (fail : Bool) : State :=
  let n := f.ctx - 1000
  if fail then killSaved s n f
  else match mfind s.saves n with
    | some sv =>
      { s with saves := mput s.saves n { sv with ctx := { sv.ctx with ev := true, fault := answeredFault f sv.ctx.fault, laneFault := answeredFault f sv.ctx.laneFault } } }
    | none => s

/-- PF_ANS (R226): an answer whose ID is not outstanding is ignored, and any in recovery (R63). -/
def execPfAns (value : Word) (s : State) : Outcome :=
  .next <|
    if inert s then s
    else match s.xlate.outstanding.find? fun f => f.id == wbits value 31 0 with
    | none => s
    | some f =>
      let s1 := modXlate s fun t => { t with outstanding := t.outstanding.filter fun g => g.id != f.id }
      if 1000 ≤ f.ctx then answerSaved s1 f (value.getLsbD 32)
      else if isTeam f.ctx && (ctxAt s1 f.ctx).phase != .empty then answerTeam s1 f (value.getLsbD 32)
      else s1

/-! ## Slices, atomics, replies -/

/-- SLICE_ACCESS (R228): pending access idx of context c is served at its home slice. -/
def execSliceAccess (c idx : Nat) (s : State) : Outcome :=
  .next <| match pendAt (ctxAt s c) idx with
    | some p => if isAtomicKind p.kind then s else servePend s c idx
    | none => s

/-- R86, R231: an ADD packet that may merge with others: no RC or SY page; FP only without DET. -/
def mergeable (s : State) (v : Nat) (p : Pend) : Bool :=
  p.place == .atSlice && !p.rc && !p.sy && (p.kind == .amo .add || (p.kind == .amo .fadd &&
    match mfind s.contracts.inForce v with | some k => nbits (fieldAt k.bytes 2 1) 7 7 == 0 | none => true))

/-- R231: two packets of one VNPU may merge: one memory, address, width and kind. -/
def mayMerge (s : State) (v : Nat) (p q : Pend) : Bool :=
  mergeable s v p && mergeable s v q && p.mt == q.mt && p.home == q.home && p.pa == q.pa && p.bytes == q.bytes && p.kind == q.kind

/-- R231: for each packet in queue order the sum of the operands ahead of it, and the sum of all. -/
def sumsAhead (op : AmoOp) (n : Nat) : List Pend → Option Nat → List (Option Nat) × Option Nat
  | [], sum => ([], sum)
  | p :: r, sum =>
    let v := p.value.toNat % 2 ^ (8 * n)
    let m := sumsAhead op n r (some (match sum with | none => v | some t => amoNew op n t v))
    (sum :: m.1, m.2)

/-- R231: the reply to a packet, for the old value of the location and the operands ahead of the packet. -/
def mergedReply (op : AmoOp) (n old : Nat) : Option Nat → Nat
  | none => old
  | some t => amoNew op n old t

def addOp (p : Pend) : AmoOp := match p.kind with | .amo o => o | _ => .add

/-- The packets `l` (context, index) that wait in the queue behind pending access idx of context c and merge with it: none with an access of its own team
between, to the same line, that is not of the packet (R284). -/
def mergers (s : State) (c idx : Nat) (p : Pend) (l : List (Nat × Nat)) : List (Nat × Nat) :=
  l.foldl (fun a e =>
    let x := ctxAt s e.1
    let ok := isTeam e.1 && x.v == (ctxAt s c).v && !a.contains e && match pendAt x e.2 with
      | some q => mayMerge s x.v p q && !((x.mem.zipIdx.take e.2).any fun o => o.1.mt == q.mt && o.1.home == q.home && o.1.pa / 64 == q.pa / 64 && !a.contains (e.1, o.2))
      | none => false
    if ok then a ++ [e] else a) [(c, idx)]

/-- The packets `all` have been performed together on the old value `old`. -/
def mergedDone (s : State) (op : AmoOp) (n old : Nat) (all : List ((Nat × Nat) × Option Nat)) : State :=
  all.foldl (fun t e =>
    match pendAt (ctxAt t e.1.1) e.1.2 with
    | some q => setPend t e.1.1 e.1.2 { q with place := .done, result := BitVec.ofNat 64 (mergedReply op n old e.2) }
    | none => t) s

/-- R231, R235: the merged packet is performed at its home here, or leaves for another module. -/
def mergeWith (s : State) (c idx : Nat) (p : Pend) (l : List (Nat × Nat)) : State :=
  let v := (ctxAt s c).v
  let op := addOp p
  let who := mergers s c idx p l
  let m := sumsAhead op p.bytes (who.filterMap fun e => pendAt (ctxAt s e.1) e.2) none
  let all := who.zip m.1
  let sum := m.2.getD 0
  if p.mt = 0 then
    let s1 := sliceServe s c v (lineOf p.pa) 16 true
    let old := readLe s1.dev (servedAddr s1 p.pa) p.bytes
    mergedDone { s1 with dev := writeLe s1.dev (servedAddr s1 p.pa) p.bytes (amoNew op p.bytes old sum) } op p.bytes old all
  else if p.mt = 1 then
    let s1 := hostRequest s v true p.pa p.bytes
    let old := readLe s1.host p.pa p.bytes
    mergedDone { s1 with host := writeLe s1.host p.pa p.bytes (amoNew op p.bytes old sum) } op p.bytes old all
  else
    let s1 := all.foldl (fun t e =>
      match pendAt (ctxAt t e.1.1) e.1.2 with
      | some q => setPend t e.1.1 e.1.2 { q with place := if e.2.isNone then .away else .behind c, result := BitVec.ofNat 64 (e.2.getD 0) }
      | none => t) s
    sendPend s1 c idx { p with value := BitVec.ofNat 64 sum }

/-- ATOMIC_EXECUTE (R230, R231): pending atomic idx of context c runs at its home bank; `nums` and `nums2` name the contexts and indices of
packets that wait behind it in one router queue. -/
def execAtomicExecute (c idx : Nat) (s : State) : Outcome :=
  let l := s.run.arg.nums.zip s.run.arg.nums2
  .next <| match pendAt (ctxAt s c) idx with
    | some p =>
      if !isAtomicKind p.kind then s
      else if l.isEmpty || !mergeable s (ctxAt s c).v p || olderSameLine (ctxAt s c) idx p || (p.mt == 0 && lostLine s p.pa) then servePend s c idx
      else mergeWith s c idx p l
    | none => s

/-- MEMORY_REPLY (R284): a served access returns. -/
def execMemoryReply (c idx : Nat) (s : State) : Outcome := .next (landPend s c idx)

/-! ## Flits (R197 to R199) -/

/-- What becomes of a flit now: delivered to a context, discarded, or it waits. -/
inductive FlitGo where
  | to (ctx : Nat)
  | gone
  | stays
  deriving DecidableEq, Repr

/-- R199: a flit enters the queue of a running team, which is not in a drain stub nor to be evicted. -/
def flitGo (s : State) (launch : Nat) (f : Flit) : FlitGo :=
  match launchAt s launch with
  | none => .gone
  | some l =>
    if (mfind l.ended f.team).isSome then .gone
    else match s.ctxs.find? fun e => decide (e.1 < 192) && e.2.phase == .running && e.2.drain == .off && !e.2.evict && e.2.launch == launch && e.2.team == f.team with
      | some e => if queueTakes s e.1 (4 + f.port) then .to e.1 else .stays
      | none => .stays

/-- R405: a flit enters a receive queue and sets EV. -/
def deliver (s : State) (d : Nat) (f : Flit) : State :=
  modCtx s d fun x => { x with rx := mput x.rx f.port (mget x.rx f.port [] ++ [f.value]), ev := true }

/-- R197: two flits of one send port to one destination port. -/
def sameRoute (a b : RelayFlit) : Bool :=
  a.v == b.v && a.launch == b.launch && a.team == b.team && a.port == b.port && a.flit.team == b.flit.team && a.flit.port == b.flit.port

/-- The first flit of `l` that can move, with the others; it passes none of its route that stands in `ahead` or before it in `l`. -/
def flitMover (s : State) (ahead : List RelayFlit) : List RelayFlit → List RelayFlit → Option (RelayFlit × List RelayFlit)
  | _, [] => none
  | before, r :: rest =>
    if (ahead ++ before).any (sameRoute r) || flitGo s r.launch r.flit == .stays then flitMover s ahead (before ++ [r]) rest
    else some (r, before ++ rest)

/-- The flits of a send port of a team, as the network sees them. -/
def portQueue (s : State) (c n : Nat) : List RelayFlit :=
  let x := ctxAt s c
  (mget x.tx n []).map fun f => { v := x.v, launch := x.launch, team := x.team, port := n, flit := f }

/-- The flit arrives, or is discarded. -/
def flitArrives (s : State) (r : RelayFlit) : State :=
  match flitGo s r.launch r.flit with
  | .to d => deliver s d r.flit
  | _ => s

/-- FLIT_DELIVER (R199): the oldest flit of a send port that can move enters its receive queue; with `flag`, one of a team that has left its bank. -/
def execFlitDeliver (c port : Nat) (s : State) : Outcome :=
  .next <|
    if s.run.arg.flag then
      match flitMover s [] [] s.relay with
      | some (r, rest) => flitArrives { s with relay := rest } r
      | none => s
    else
      match flitMover s s.relay [] (portQueue s c port) with
      | some (r, rest) => flitArrives (modCtx s c fun y => { y with tx := mput y.tx port (rest.map (·.flit)) }) r
      | none => s

/-! ## Frames and the patrol (R233, R234) -/

/-- Copies a frame's listed bytes to another frame. -/
def copyFrame (m : Memory) (src dst : Nat) : Memory :=
  let clean := m.filter fun e => e.1 / 16384 != dst
  (m.filter fun e => e.1 / 16384 == src).foldl (fun t e => writeByte t (dst * 16384 + e.1 % 16384) e.2) clean

/-- The first spare frame: frame number of spare 0. -/
def spareFrame : Nat := 0x003DFFC00000 / 16384

/-- R234: a spare of the table that no entry uses; 256 when there is none. -/
def freeSpare (s : State) : Nat := ((List.range 256).find? fun i => !(s.mgmt.remap.any fun e => e.2.1 == i)).getD 256

/-- R49: a move under way for which `p` holds keeps its page at its old home. -/
def stopMoves (s : State) (p : Move → Bool) : State :=
  modMgmt s fun m => { m with moving := m.moving.map fun mv => if p mv then { mv with stop := true } else mv }

/-- R48: the frames of the page that moves. -/
def movesFrame (n : Nat) (mv : Move) : Bool := decide (mv.pa ≤ n * 16384 ∧ n * 16384 < mv.pa + 2 ^ pageBits mv.size)

/-- R234: the lines that fail with an error at line `off` − 1 (0: none), of which `lost` could not be read. -/
def failingLines (lost : BitVec 256) (off : Nat) : BitVec 256 := lost ||| (if off = 0 then 0 else 1#256 <<< (off - 1))

/-- FRAME_REMAP (R234): frame `n` moves to a spare frame; `lost` marks its lines that could not be read. With no spare left it stays, with those lines and the
failing one (`off` − 1, 0: none) failing for good, until a later error finds a spare. A page that moves stays at its home (R49). It is a retirement: the standby's
copy of the state table follows (R75). -/
def execFrameRemap (s0 : State) : Outcome :=
  let a := s0.run.arg
  let s := if spareFrame ≤ a.n then s0 else stopMoves s0 (movesFrame a.n)
  let i := freeSpare s
  let put := fun (t : State) (k : Nat) (lines : BitVec 256) => modMgmt t fun m => { m with remap := mput m.remap a.n (k, lines) }
  let moved := { s with dev := copyFrame s.dev a.n (spareFrame + i) }
  .next <|
    if spareFrame ≤ a.n then s
    else mirrorTable <| match mfind s.mgmt.remap a.n with
    | some r =>
      if r.1 < 256 then put s r.1 (r.2 ||| a.lost)
      else if i < 256 then put moved i (r.2 ||| a.lost)
      else put s 256 (r.2 ||| failingLines a.lost a.off)
    | none => if i < 256 then put moved i a.lost else put s 256 (failingLines a.lost a.off)

/-- PATROL_SCRUB (R233): a read of line `n`: what it found, and with `flag` found again at the repeat. -/
def execPatrolScrub (s : State) : Outcome :=
  let a := s.run.arg
  let e : EventArg := { noArg with n := lineCtl a.n + 16 * lineDie a.n, unit := .mem, m := a.n / 256, off := a.n % 256 + 1, flag := a.flag }
  .next <|
    match a.scrub with
    | .clean => s
    | .corrected => postArg s .lastingError e
    | .uncorrectable => postArg s .lastingError { e with lost := 1#256 <<< (a.n % 256) }

end Sys2Proof.Machine
end

