-- ==== Sys2Proof/Machine/Retire.lean ====
section
/-!
DEFINITION. The retry rule and machine checks (R22 to R24), retirement of cores and slices (R25 to R27, R210), scratchpad rows (R21), UCIe modules (R37), host
completion timeouts (R33), the BAR4 window (R19).
-/
namespace Sys2Proof.Machine

/-! ## Spare pools (R21) -/

/-- Keys of the spare counts: clusters 0 to 11, slices by die, scratchpad banks by core. -/
def slicePool (die : Nat) : Nat := 100 + die
def rowPool (core bank : Nat) : Nat := 1000 + 256 * core + bank
def spareUsed (s : State) (key : Nat) : Nat := mget s.mgmt.spareUsed key 0
def useSpare (s : State) (key : Nat) : State := modMgmt s fun m => { m with spareUsed := mput m.spareUsed key (mget m.spareUsed key 0 + 1) }

/-! ## Core retirement -/

/-- A command a unit runs meets a machine check: its records, and its team is killed (R24, R206, R445). -/
def engineMachine (s : State) (core key : Nat) (u : RunCmd) (unit : Unit8) (num : Nat) (addr : Word) : State :=
  engineKill (modCore (postMachine s u.ctx unit num u.cmd.steps u.cmd.pc addr) core fun k => { k with units := mdel k.units key }) u.ctx u.cmd 0x25 addr

/-- R210: an error in the array or the accumulators: the teams of its started commands take 0x25. -/
def failArray (s : State) (core : Nat) : State :=
  [0, 1, 2, 3].foldl (fun t key =>
    match mfind (coreAt t core).units key with
    | some u => engineMachine t core key u .core core 0
    | none => t) s

/-- Every team of a core stops and is to be evicted; with `mates` the other teams of a linked launch too (R27). -/
def emptyCore (s : State) (core : Nat) (mates : Bool) : State :=
  [2 * core, 2 * core + 1].foldl (fun t c =>
    let x := ctxAt t c
    let t1 := evictStopped (stopWithMates t c) c
    if mates && x.linked && x.phase != .empty then (residentOf t1 x.launch).foldl evictStopped t1 else t1) s

/-- R27: the logical core a cluster gives up when `core` fails: the highest that is present and whose site has not failed too (log 33). -/
def givenUp (s : State) (core : Nat) : Option Nat :=
  (coresOfCluster (clusterOf core)).reverse.find? fun c => !(coreAt s c).absent && (c == core || !(coreAt s c).frozen)

/-- R146: the core lies in a class A window. -/
def inClassAWindow (s : State) (core : Nat) : Bool :=
  match windowOfCore s core with
  | some (i, w) => classAWindow s i w
  | none => false

/-- R27: the core holds a team of a class A window. -/
def holdsClassA (s : State) (core : Nat) : Bool := [2 * core, 2 * core + 1].any fun c => (ctxAt s c).phase != .empty && inClassA s c

def coreEmpty (s : State) (core : Nat) : Bool :=
  (ctxAt s (2 * core)).phase == .empty && (ctxAt s (2 * core + 1)).phase == .empty && (coreAt s core).units.isEmpty

/-- R210: a team saved from a core is due in the same bank again. Where R146 lets no team of its VNPU be restored there, it is as any evicted team (DESIGN CHOICE,
log 89). -/
def restoreSaved (s : State) (e : Nat × Saved) : State :=
  let sv := e.2
  let c := 2 * sv.core + sv.bank
  if inGuard s sv.core && !guardAllows s sv.core sv.ctx.v then { s with saves := mput s.saves e.1 { sv with placing := false } }
  else match launchAt s sv.ctx.launch with
  | some x => post (setCtx s c (restoreBank x sv c (allot s c sv.ctx.gran.length) sv.ctx.accs)) (.restore e.1 c)
  | none => s

/-- R25, R27: the core is bound to another site: its teams come back. Its withheld granules are those of its number, whichever site it lies on (DESIGN
CHOICE, log 65). -/
def bindSite (s : State) (core site : Nat) : State :=
  let s1 := modCore s core fun k => { k with site := site, frozen := false, tlb := k.tlb.filter (·.locked), icache := [], lcache := [] }
  (s1.saves.filter fun e => e.2.core == core && e.2.placing).foldl restoreSaved s1

/-- R26: a retirement is over: the map is written, and the errors counted meanwhile are dealt with. -/
def retireOver (s : State) : State :=
  mirrorTable (s.mgmt.pending.foldl (fun t e => postArg t .coreRetirement { noArg with n := e.1, flag := e.2 }) (writeService s))

/-- R27, R28: logical core j of a cluster is absent from now on; its saved teams are placed elsewhere. -/
def loseCore (s : State) (j : Nat) : State :=
  let s1 := modCore s j fun k => { k with absent := true, leaving := false }
  let s2 := { s1 with saves := s1.saves.map fun e => if e.2.core == j then (e.1, { e.2 with placing := false }) else e }
  serviceRequest (modMgmt s2 fun m => { m with cores := m.cores + 1 }) 1 j

/-- R25 steps 3 and 4, R27: once the frozen core is empty, it is bound to the spare site, or takes the site of the core its cluster gives up, once that is empty. -/
def finishCore (s : State) (core : Nat) : State :=
  let k := clusterOf core
  if !(coreAt s core).frozen then s
  else if !coreEmpty s core then emptyCore s core (coreAt s core).absent
  else if (coreAt s core).absent then retireOver (modCore s core fun x => { x with frozen := false })
  else if spareUsed s k = 0 then retireOver (bindSite (useSpare s k) core 8)
  else match givenUp s core with
    | none => s
    | some j =>
      if j = core then retireOver (loseCore (modCore s core fun x => { x with frozen := false }) core)
      else if holdsClassA s j then s
      else if !coreEmpty s j then emptyCore (modCore s j fun x => { x with leaving := true }) j true
      else retireOver (bindSite (loseCore s j) core (coreAt s j).site)

/-- R25 steps 1 and 2. -/
def freezeCore (s : State) (core : Nat) (array : Bool) : State :=
  let s1 := modCore s core fun x => { x with frozen := true }
  let s2 := if array then failArray s1 core else s1
  let s3 := if spareUsed s (clusterOf core) ≠ 0 ∧ givenUp s core = some core then loseCore s2 core else s2
  finishCore (emptyCore s3 core (coreAt s3 core).absent) core

/-- CORE_RETIREMENT (R25 to R27, R210): logical core `n` fails, in its array with `flag`; with `flag3` a retirement under way goes on. One that meets a class A
window waits, but for a core whose team has raised a machine-check (`flag2`); an error of a core that is being retired is counted afterwards (R26, R146). -/
def execCoreRetirement (s : State) : Outcome :=
  let a := s.run.arg
  let s0 := modMgmt s fun m => { m with pending := m.pending.filter fun e => e.1 != a.n }
  .next <|
    if s.fw.mode == .dead then s
    else if a.flag3 then finishCore s a.n
    else if (coreAt s a.n).absent then s0
    else if (coreAt s a.n).frozen || (inClassAWindow s a.n && !a.flag2) then modMgmt s0 fun m => { m with pending := m.pending ++ [(a.n, a.flag)] }
    else freezeCore s0 a.n a.flag

/-! ## Slice retirement -/

/-- R21: what takes over a failed logical slice: its die's spare, or (from 1000) its neighbour in the die. -/
def takeOver (s : State) (n : Nat) : Nat :=
  if spareUsed s (slicePool (n / 48)) = 0 then 96 + n / 48 else 1000 + 48 * (n / 48) + (n % 48 + 1) % 48

/-- SLICE_RETIREMENT (R25, R28): logical slice `n`; `nums` are its lines that could not be read: they are dropped and their frames retired. -/
def execSliceRetirement (s : State) : Outcome :=
  let a := s.run.arg
  let old := servingSlice s a.n
  let mine := fun (key : Nat) => key / 2048 == old
  let s1 := s.slices.foldl (fun t e => if mine e.1 then (e.2.filter fun l => !a.nums.contains l.line).foldl writeback t else t) s
  let s2 := { s1 with slices := s1.slices.map fun e => if mine e.1 then (e.1, []) else e }
  let s3 := a.nums.foldl (fun t x => postArg t .frameRemap { noArg with n := x / 256, off := x % 256 + 1, lost := 1#256 <<< (x % 256) }) s2
  let full := spareUsed s (slicePool (a.n / 48)) ≠ 0
  let s4 := modMgmt (useSpare s3 (slicePool (a.n / 48))) fun m => { m with sliceMap := mput m.sliceMap a.n (takeOver s a.n) }
  .next (if s.fw.mode == .dead then s else if 1000 ≤ mget s.mgmt.sliceMap a.n 0 then s3
    else mirrorTable (writeService (if full then serviceRequest (modMgmt s4 fun m => { m with slices := m.slices + 1 }) 2 a.n else s4)))

/-! ## Errors (R22 to R24) -/

/-- R21, R28: a scratchpad row of core `n`, bank `off`: a spare row replaces it, or granule `m` is withheld; a granule's number is 256 × core + granule. -/
def retireRow (s : State) (a : EventArg) : State :=
  let core := a.n % 96
  let g := a.m % 256
  if spareUsed s (rowPool core a.off) < 4 then mirrorTable (writeService (useSpare s (rowPool core a.off)))
  else if (coreAt s core).withheld.contains g then s
  else
    mirrorTable (serviceRequest (modMgmt (modCore s core fun k => { k with withheld := k.withheld ++ [g] }) fun m => { m with granules := m.granules + 1 }) 4
      (256 * core + g))

/-- R23: a unit's count: that of what is retired, a row of a granule or a frame among them. -/
def unitKey (a : EventArg) : Nat :=
  unitCode a.unit * 2 ^ 48 + (match a.unit with | .row => (a.n % 96) * 2 ^ 32 + a.off % 2 ^ 16 * 2 ^ 16 + a.m % 256 | .mem => a.m | _ => a.n)

/-- R73: a unit's lasting errors are counted. -/
def countLasting (s : State) (a : EventArg) : State :=
  modMgmt s fun m => { m with lasting := mput m.lasting (unitKey a) (mget m.lasting (unitKey a) 0 + 1) }

/-- R25: the unit of a lasting error is retired, by the active complex: without firmware (R76) nothing is. Of a core, `raised` says that its team has raised a machine-check.
Of device memory, `write` marks an error of the link to its channel, which retrains: the frame stays (R233), and a page that moves from it stays too (R49). Of a bridge, the UCIe
module 2 × `n` + `m` mod 2 fails (R37; DESIGN CHOICE, log 90). -/
def retireUnit (s0 : State) (a : EventArg) (raised : Bool) : State :=
  let s := countLasting s0 a
  if s0.fw.mode == .dead then s0
  else match a.unit with
  | .core => if a.n < 96 then postArg s .coreRetirement { noArg with n := a.n, flag := a.flag3, flag2 := raised } else s
  | .slice => if a.n < 96 then postArg s .sliceRetirement { noArg with n := a.n, nums := a.nums } else s
  | .link => if a.n < 2 then postArg s .linkRetrain { noArg with n := a.n, write := a.write } else s
  | .row => retireRow s a
  | .mem =>
    if spareFrame ≤ a.m then s
    else if a.write then stopMoves s (movesFrame a.m)
    else postArg s .frameRemap { noArg with n := a.m, off := a.off, lost := a.lost }
  | .complex => if a.n < 2 then postArg s .complexLastingError { noArg with n := a.n } else s
  | .bridge => if a.n < 8 then postArg s .ucieModuleFailure { noArg with n := 2 * a.n + a.m % 2 } else s
  | .hostPort | .module => s

/-- R24: the access that meets undeliverable data: a team's sequencer's or lanes' (R205), a firmware core's, a prologue's, or an engine's. -/
def checkSite (s : State) (a : EventArg) : State :=
  match a.site with
  | .noAccess => s
  | .access c addr =>
    let x := ctxAt s c
    if x.phase == .empty then s
    else if isTeam c then machineCheck s c a.unit a.n (match x.mem.find? fun p => p.va == addr with | some p => p.pc | none => x.pc) addr
    else takeTrap s c 0x25 addr
  | .lanes c addr => if isTeam c && (ctxAt s c).phase != .empty then laneMachine s c a.unit a.n addr else s
  | .engine core key addr =>
    match mfind (coreAt s core).units key with
    | some u => if core < 96 then engineMachine s core key u a.unit a.n addr else s
    | none => s

/-- R24, R146: the access is one of the failing core itself, which is then retired at once. -/
def siteOnCore (a : EventArg) : Bool :=
  match a.site with
  | .noAccess => false
  | .access c _ | .lanes c _ => isTeam c && coreOf c == a.n
  | .engine core _ _ => core == a.n

/-- R23: a transient error is counted; as many as the threshold within an hour are as a lasting one. -/
def countTransient (s : State) (a : EventArg) : State :=
  let k := unitKey a
  let n := s.mgmt.threshold
  let times := ((mget s.mgmt.transientAt k []) ++ [s.tick.toNat]).reverse.take n
  let s1 := modMgmt s fun m => { m with transient := mput m.transient k (mget m.transient k 0 + 1), transientAt := mput m.transientAt k times.reverse }
  if n ≤ times.length ∧ s.tick.toNat - times.getLastD 0 ≤ 360000000000 then postArg s1 .transientThreshold { a with flag := true } else s1

/-- LASTING_ERROR (R22, R24): an error of unit `unit`, `n`. Without `flag` its repeat was clean. With it the error is lasting: with `flag2` the data at `site`
cannot be delivered; the unit is retired. -/
def execLastingError (s : State) : Outcome :=
  let a := s.run.arg
  .next (if !a.flag then countTransient s a else retireUnit (if a.flag2 then checkSite s a else s) a (a.flag2 && siteOnCore a))

/-- TRANSIENT_THRESHOLD (R23): the unit is retired as for a lasting error, and its count starts again. -/
def execTransientThreshold (s : State) : Outcome :=
  let a := s.run.arg
  .next (retireUnit (modMgmt s fun m => { m with transientAt := mdel m.transientAt (unitKey a) }) a false)

/-! ## Host port and die interface -/

/-- Who waits for the host (R33): with `len` 1 to 4 the sequencer, the lanes, a load or a remainder of context `n`, engine `m` of core `n`; from 5 event `m` of
those that wait (a packet, a record, a collective). -/
def hostWaiter (s : State) (a : EventArg) : Option Agent :=
  match a.len with
  | 1 => some (.turn (.seq a.n))
  | 2 => some (.turn (.lanes a.n))
  | 3 => some (.turn (.mem a.n))
  | 4 => some (.turn (.engine a.n a.m))
  | _ => ((s.run.later ++ s.run.inputs)[a.m]?).map .event

/-- R30, R33: function 0's AER records a completion timeout: bit 14 of its uncorrectable error status (PRESUMED, log 66). -/
def noteAer (s : State) : State := { s with aer := s.aer ||| 0x4000#32 }

/-- HOST_COMPLETION_TIMEOUT (R33): a request to a host page is not answered: access `m` of context `n` with `len` 0, else of the waiting party that `len` selects.
With `flag` its repeat failed too. -/
def execHostCompletionTimeout (s : State) : Outcome :=
  let a := s.run.arg
  let s0 := noteAer s
  .next <|
    if !a.flag then countTransient s0 { noArg with unit := .hostPort }
    else if a.len = 0 then
      match pendAt (ctxAt s a.n) a.m with
      | some p => if p.mt ≠ 1 ∨ p.place = .done then s0 else machineCheck s0 a.n .hostPort 0 p.pc p.va
      | none => s0
    else match hostWaiter s a with
      | some w => { s0 with run := { s0.run with ledger := s0.run.ledger ++ [(w, .hostLost)] } }
      | none => s0

/-- UCIE_MODULE_FAILURE (R37): UCIe module `n` serves bridge n / 2. -/
def execUcieModuleFailure (s : State) : Outcome :=
  let n := s.run.arg.n
  let b := n / 2
  let failed := s.mgmt.ucieFailed ||| (1#16 <<< n)
  let both := failed.getLsbD (2 * b) && failed.getLsbD (2 * b + 1)
  .next <|
    if s.mgmt.ucieFailed.getLsbD n then s
    else
      mirrorTable (raise (modMgmt s fun m =>
        { m with ucieFailed := failed, d2dChg := true,
                 degr := if both then m.degr &&& ~~~(1#8 <<< b) else m.degr ||| (1#8 <<< b),
                 reroute := if both then m.reroute ||| (1#8 <<< b) else m.reroute }) 0 53)

/-- R19, R213: a BAR4 access reaches device-type space outside the firmware regions. -/
def bar4Open (pa n : Nat) : Bool := decide (pa + n ≤ 0x003E00000000) && !inFwRegion pa && !inFwRegion (pa + n - 1)

/-- BAR4_ACCESS (R19, R32): `len` bytes at window offset `off`: a write of `value`, or a read into `out.read`. A line that could not be
read gives a free value and takes no part write (R234). An access to a page that is being moved waits (R235). -/
def execBar4Access (s : State) : Outcome :=
  let a := s.run.arg
  let pa := wbits s.mgmt.winbase 45 32 * 2 ^ 32 + a.off % 2 ^ 32
  .next <|
    if bar4Open pa a.len && pageMoving s 0 pa then stall s
    else if a.write then
      (if !bar4Open pa a.len || lostLine s pa then s
       else
         let s1 := (sliceTouch s 0 (lineOf pa) true).1
         { s1 with dev := writeLe s1.dev (servedAddr s1 pa) a.len (a.value.toNat % 2 ^ (8 * a.len)) })
    else if !bar4Open pa a.len then { s with out := { s.out with read := 0 } }
    else if lostLine s pa then { useFree s with out := { s.out with read := freeAt s 0 } }
    else
      let s1 := (sliceTouch s 0 (lineOf pa) false).1
      { s1 with out := { s1.out with read := BitVec.ofNat 64 (readLe s1.dev (servedAddr s1 pa) a.len) } }

end Sys2Proof.Machine
end

