-- ==== Sys2Proof/Machine/Links.lean ====
section
/-!
DEFINITION. Derdar Link ports and their flits (R38 to R44), remote accesses (R45 to R47, R54), page migration (R48 to R51).
-/
namespace Sys2Proof.Machine

/-! ## Ports (R42, R44) -/

/-- R44: the port's state changes. -/
def setPort (s : State) (p st : Nat) : State :=
  if (portAt s p).state = st then s else raise (modPort s p fun x => { x with state := st, chg := true }) 0 62

/-- A pending access whose answer comes from another module. -/
def isAway (p : Pend) : Bool :=
  match p.place with
  | .away | .awayAfter | .behind _ => true
  | _ => false

/-- R46, R54: requests already on their way end as for an unreachable module: accesses of teams, and what waiting parties have asked for. -/
def failAway (s : State) : State :=
  let s1 := s.ctxs.foldl (fun t e =>
    match e.2.mem.findIdx? isAway with
    | some i => postArg t .remoteResponse { noArg with n := e.1, m := i, flag := true }
    | none => t) s
  s1.run.asked.foldl (fun t e => postArg t .remoteResponse { noArg with write := true, off := e.2.tag, flag := true }) s1

/-- MODCFG (R42): a write of `value`, which has no effect in recovery (R63). What a port holds survives a LEN that is cleared and set again (DESIGN CHOICE, log 67). -/
def execModcfg (s : State) : Outcome :=
  let w := s.run.arg.value
  let n := wbits w 7 5
  .next <|
    if inert s then s
    else if ringOn s then
      if w.getLsbD 0 then s
      else failAway (stopMoves (setPort (setPort (modMgmt s fun m => { m with modcfg := m.modcfg &&& ~~~1#64 }) 0 0) 1 0) fun _ => true)
    else if w.getLsbD 0 then
      if 1 ≤ n ∧ n ≤ 4 ∧ wbits w 4 2 < n then
        setPort (setPort (modMgmt s fun m => { m with modcfg := w &&& 0xFD#64 }) 0 1) 1 1
      else s
    else modMgmt s fun m => { m with modcfg := w &&& 0xFC#64 }

/-! ## Flits (R38, R39) -/

/-- CRC-64 with the ECMA-182 polynomial, most significant bit first, from 0 (log 34). -/
def crcBit (c : BitVec 64) : BitVec 64 := if c.msb then (c <<< 1) ^^^ 0x42F0E1EBA9EA3693#64 else c <<< 1
def crcByte (c : BitVec 64) (b : Byte) : BitVec 64 :=
  crcBit (crcBit (crcBit (crcBit (crcBit (crcBit (crcBit (crcBit (c ^^^ (b.setWidth 64 <<< 56)))))))))
def crc64 (l : List Byte) : BitVec 64 := l.foldl crcByte 0

def flitHdr (b : List Byte) : Nat := fieldAt b 0 8
def flitSeq (b : List Byte) : Nat := nbits (flitHdr b) 63 54
def flitAck (b : List Byte) : Nat := nbits (flitHdr b) 53 44
def flitNak (b : List Byte) : Bool := nbits (flitHdr b) 43 43 == 1
def flitClass (b : List Byte) : Nat := nbits (flitHdr b) 42 41
def flitDest (b : List Byte) : Nat := nbits (flitHdr b) 40 38
def flitOrig (b : List Byte) : Nat := nbits (flitHdr b) 37 35

/-- R39: the receiver treats the flit as failed. -/
def flitBad (s : State) (b : List Byte) : Bool :=
  (crc64 (b.take 248)).toNat != fieldAt b 248 8 || nbits (flitHdr b) 24 0 != 0 || decide (ringN s ≤ flitDest b) || decide (ringN s ≤ flitOrig b)

/-- R39: the message units a flit uses. -/
def flitUnits (b : List Byte) : Nat := ((List.range 15).filter fun i => !allZero ((b.drop (8 + 16 * i)).take 16)).length

/-- R43: the port on which a flit that came in on port p goes on. -/
def onward (s : State) (p : Nat) : Nat := if portUp s (1 - p) then 1 - p else p

def enqueue (s : State) (p : Nat) (b : List Byte) : State :=
  modPort s p fun x => { x with queues := mput x.queues (flitClass b) (mget x.queues (flitClass b) [] ++ [b]) }

/-- R43: with port p down its traffic takes the other way: the flits that the peer has not acknowledged, and those that wait. That a flit in the replay buffer, which
the peer may have had, is sent again the other way is a DESIGN CHOICE (log 94). -/
def moveTraffic (s : State) (p : Nat) : State :=
  let x := portAt s p
  if x.state = 4 ∧ portUp s (1 - p) = true then
    (x.replay.filter (fun b => flitDest b != modId s) ++ x.queues.flatMap (·.2)).foldl (fun t b => enqueue t (1 - p) b)
      (modPort s p fun y => { y with replay := [], queues := [] })
  else s

/-- R40: what the sender keeps after an acknowledgement: flits behind it. -/
def dropAcked (ack : Nat) (l : List (List Byte)) : List (List Byte) :=
  if l.any fun b => flitSeq b == ack then (l.dropWhile fun b => flitSeq b != ack).drop 1 else l

/-- A good flit's header acts: acknowledgement, credits, a NAK. -/
def readHead (s : State) (p : Nat) (b : List Byte) : State :=
  let cls := nbits (flitHdr b) 34 33
  let s1 := modPort s p fun x =>
    { x with replay := dropAcked (flitAck b) x.replay, credits := mput x.credits cls (mget x.credits cls 0 + nbits (flitHdr b) 32 25) }
  if flitNak b then postArg s1 .nakReplay { noArg with n := p, m := flitAck b } else s1

/-- FLIT_RECEIVE (R22, R39, R40, R43): `data` on port `n`; `flag` marks a replayed flit, whose failure is lasting; a replay that succeeds makes the error
transient. A flit for another module is queued to be sent on. -/
def execFlitReceive (s : State) : Outcome :=
  let a := s.run.arg
  let p := a.n
  let x := portAt s p
  let b := a.data
  .next <|
    if x.state ≠ 2 then s
    else if flitBad s b then
      let s1 := modPort s p fun y => { y with crcerr := min 65535 (y.crcerr + 1), discarding := true, nakDue := true }
      if a.flag then postArg s1 .lastingError { noArg with n := p, unit := .link, flag := true } else s1
    else if flitSeq b ≠ (x.rxGood + 1) % 1024 then
      modPort s p fun y => { y with discarding := true, nakDue := y.nakDue || !y.discarding }
    else
      let s1 := modPort s p fun y =>
        { y with rxGood := flitSeq b, discarding := false, due := mput y.due (flitClass b) (mget y.due (flitClass b) 0 + flitUnits b) }
      let s2 := readHead s1 p b
      let s3 := if x.discarding then postArg s2 .lastingError { noArg with n := p, unit := .link } else s2
      if flitDest b ≠ modId s then enqueue s3 (onward s p) b else s3

/-! ## Sending (R41) -/

/-- A class has a flit waiting that its credits cover. -/
def classReady (x : Port) (k : Nat) : Bool :=
  match mget x.queues k [] with
  | b :: _ => decide (flitUnits b ≤ mget x.credits k 0)
  | [] => false

/-- R41: the class that sends next. -/
def nextClass (x : Port) : Option Nat :=
  let other := if x.lastOther = 0 then [3, 0] else [0, 3]
  if classReady x 2 && decide (7 ≤ x.sinceMig) then some 2
  else ([1] ++ other ++ [2]).find? fun k => classReady x k

/-- R38: a flit's bytes as they go on the wire. R38 does not say which class's credits a flit returns where several have credits due: those of the lowest class
number (DESIGN CHOICE, log 97). -/
def sealFlit (x : Port) (b : List Byte) : List Byte :=
  let back := (List.range 4).find? fun k => mget x.due k 0 != 0
  let cls := back.getD 0
  let h := x.txSeq * 2 ^ 54 + x.rxGood * 2 ^ 44 + (if x.nakDue then 2 ^ 43 else 0) + flitClass b * 2 ^ 41 + flitDest b * 2 ^ 38 + flitOrig b * 2 ^ 35 +
    cls * 2 ^ 33 + min 255 (mget x.due cls 0) * 2 ^ 25
  let body := natLe 8 h ++ (b.drop 8).take 240
  body ++ natLe 8 (crc64 body).toNat

def sendFlitOn (s : State) (p k : Nat) (b : List Byte) : State :=
  let x := portAt s p
  let w := sealFlit x b
  let cls := ((List.range 4).find? fun k => mget x.due k 0 != 0).getD 0
  modPort { s with out := { s.out with flits := s.out.flits ++ [(p, w)] } } p fun y =>
    { y with txSeq := (y.txSeq + 1) % 1024, replay := y.replay ++ [w], nakDue := false,
             due := mput y.due cls (mget y.due cls 0 - 255),
             queues := mput y.queues k ((mget y.queues k []).drop 1), credits := mput y.credits k (mget y.credits k 0 - flitUnits b),
             sinceMig := if k = 2 then 0 else if (mget y.queues 2 []).isEmpty then 0 else y.sinceMig + 1, lastOther := if k = 0 ∨ k = 3 then k else y.lastOther }

/-- FLIT_TRANSMIT (R41, R43): port `n` sends one flit of the class that is due; `data`, when it is a flit, is first queued there, or the other way. A port with nothing to send
but an acknowledgement, credits or a NAK sends null messages, in a response-class flit to its own module's number (DESIGN CHOICE, log 69). -/
def execFlitTransmit (s : State) : Outcome :=
  let a := s.run.arg
  let s1 := if a.data.length = 256 then enqueue s (otherWay s a.n) a.data else s
  let x := portAt s1 a.n
  .next <|
    if x.state ≠ 2 ∨ 512 ≤ x.replay.length then s1
    else match nextClass x with
      | some k => match mget x.queues k [] with
        | b :: _ => sendFlitOn s1 a.n k b
        | [] => s1
      | none =>
        if x.nakDue || x.due.any fun e => e.2 != 0 then
          sendFlitOn s1 a.n 4 (natLe 8 (2 ^ 41 + modId s1 * 2 ^ 38 + modId s1 * 2 ^ 35) ++ List.replicate 248 0)
        else s1

/-- Flits of the replay buffer with the header fields of now. -/
def resend (s : State) (p : Nat) (l : List (List Byte)) : State := { s with out := { s.out with flits := s.out.flits ++ l.map fun b => (p, b) } }

/-- NAK_REPLAY (R40): port `n` sends again from `m` + 1. -/
def execNakReplay (s : State) : Outcome :=
  let a := s.run.arg
  .next <|
    if (portAt s a.n).state ≠ 2 then s
    else
      let l := dropAcked a.m (portAt s a.n).replay
      resend (modPort s a.n fun x => { x with replay := l, replays := min 255 (x.replays + 1) }) a.n l

/-- LINK_RETRAIN (R38, R40): port `n` retrains, a lane of its outgoing (`write`) or incoming direction having failed: with a spare lane of that direction, or at
x8; what it holds is kept. An error of a port that retrains is counted afterwards (R26). -/
def execLinkRetrain (s : State) : Outcome :=
  let p := s.run.arg.n
  let x := portAt s p
  let out := s.run.arg.write
  .next <|
    if x.state = 3 then modMgmt s fun m => { m with linkPending := m.linkPending ++ [(p, out)] }
    else if x.state ≠ 2 then s
    else mirrorTable <| if (if out then x.sparesTx else x.sparesRx) ≠ 0 then
      setPort (modPort s p fun y => { y with sparesTx := if out then y.sparesTx - 1 else y.sparesTx, sparesRx := if out then y.sparesRx else y.sparesRx - 1 }) p 3
    else if x.lanes = 16 then
      serviceRequest (modMgmt (setPort (modPort s p fun y => { y with lanes := 8, width := 8 }) p 3) fun m => { m with lanes := m.lanes + 1 }) 3 p
    else setPort (modPort s p fun y => { y with lanes := 0, width := 0 }) p 3

/-- R26: the errors of a port's lanes that have waited for its retraining are dealt with. -/
def linkPendingOver (s : State) (p : Nat) : State :=
  (s.mgmt.linkPending.filter fun e => e.1 == p).foldl (fun t e => postArg t .linkRetrain { noArg with n := p, write := e.2 })
    (modMgmt s fun m => { m with linkPending := m.linkPending.filter fun e => e.1 != p })

/-- LINK_TRAINING_COMPLETE (R40, R43, R44): port `n` has trained with peer `len`, at `m` lanes as far as its width allows (R21); with 0 lanes it is down, its traffic
takes the other way, and no page moves (R49). -/
def execLinkTrainingComplete (s : State) : Outcome :=
  let a := s.run.arg
  let x := portAt s a.n
  let lanes := min a.m x.width
  .next <|
    if x.state ≠ 1 ∧ x.state ≠ 3 then s
    else
      let s1 := modPort s a.n fun y =>
        { y with lanes := lanes, peer := a.len, credits := if x.state = 1 then (List.range 4).map fun k => (k, Config.linkCredits k) else y.credits }
      let s2 := if x.state = 3 then mirrorTable (linkPendingOver (if lanes = 0 then s1 else resend s1 a.n x.replay) a.n) else s1
      let s3 := if lanes = 0 then stopMoves (setPort s2 a.n 4) fun _ => true else setPort s2 a.n 2
      let s4 := moveTraffic (moveTraffic s3 0) 1
      if unreachable s4 then failAway s4 else s4

/-! ## Remote accesses (R45, R46) -/

def remoteAcc : RemoteKind → AccKind
  | .load => .load
  | .store => .store
  | .amo op => .amo op
  | .cas => .cas

/-- The home answers a request, on the port of the shorter way back (R43). -/
def answerRemote (s : State) (r : RemoteMsg) (b : Option (List Byte)) : State :=
  { s with out := { s.out with answers := s.out.answers ++ [{ port := leavePort s r.src r.pa, dest := r.src, tag := r.tag, data := b }] } }

/-- R48: the remote accesses of a module to a frame are counted. -/
def countRemote (s : State) (r : RemoteMsg) : State :=
  let k := 8 * (r.pa / 16384) + r.src
  modMgmt s fun m => { m with remoteCounts := mput m.remoteCounts k (mget m.remoteCounts k 0 + 1) }

/-- R45: what a request does to its bytes at its home, and the bytes it answers. -/
def performRemote (s : State) (r : RemoteMsg) (pa : Nat) : State × List Byte :=
  let a := servedAddr s pa
  match r.kind with
  | .load => (s, readBytes s.dev a r.bytes)
  | .store => ({ s with dev := writeBytes s.dev a (r.data.take r.bytes) }, [])
  | _ =>
    let m := accessMemory s.dev (remoteAcc r.kind) a r.bytes (BitVec.ofNat 64 (leNat r.data)) r.compare
    ({ s with dev := m.1 }, natLe r.bytes m.2.toNat)

/-- Free bytes: those of a line that cannot be read. -/
def freeBytes (s : State) (n : Nat) : List Byte := (List.range n).map fun i => (freeAt s i).setWidth 8

/-- R61, R213: a line that no translation reaches: a firmware region's, or beyond the frames that guests use. -/
def outOfReach (pa : Nat) : Bool := inFwRegion pa || decide (spareBase ≤ pa)

/-- REMOTE_REQUEST (R46, R48): another module's access of up to 64 bytes is executed at its home here, or refused when its VNPU has no contract here or no guest's
translation reaches the line (R61; DEDUCED, log 59); it waits while its page moves. At a LOST line (R234) it changes nothing and its answer is free: the 0x25 is the other module's (log 19). -/
def execRemoteRequest (s : State) : Outcome :=
  let r := s.run.arg.msg
  let pa := r.pa % 2 ^ 46
  let write := isWriteKind (remoteAcc r.kind)
  let whole := r.kind == .store && r.bytes == 64
  .next <|
    if noContract s r.v || outOfReach pa then answerRemote s r none
    else if pageMoving s 0 pa then stall s
    else if lostLine s pa && (!whole || deadLine s pa) then answerRemote (useFree s) r (some (freeBytes s r.bytes))
    else
      let s1 := serveAlone (countRemote (if whole then clearLost s pa else s) r) (lineDie (lineOf pa)) r.v (lineOf pa) (initCharge r.bytes (isAtomicKind (remoteAcc r.kind))) write
      let m := performRemote s1 r pa
      answerRemote m.1 r (some m.2)

/-- R231: the accesses merged into pending access p of context c, itself last. -/
def mergedAt (s : State) (c i : Nat) (p : Pend) : List (Nat × Nat) :=
  (s.ctxs.flatMap fun e => (e.2.mem.zipIdx.filter fun q => q.1.place == .behind c && q.1.home == p.home && q.1.pa == p.pa).map fun q => (e.1, q.2)) ++ [(c, i)]

/-- R231: an access whose packet has returned the value v. -/
def replied (v : Word) (q : Pend) : Pend :=
  let sum := if q.place == .away then none else some q.result.toNat
  { q with place := .done, result := if sum.isNone then v else BitVec.ofNat 64 (mergedReply (addOp q) q.bytes v.toNat sum) }

/-- An access, and those merged into it, are answered: by what another module returned, a refusal, or as unreachable. -/
def pendAnswered (s : State) (a : EventArg) (p : Pend) : State :=
  (mergedAt s a.n a.m p).foldl (fun t e =>
    match pendAt (ctxAt t e.1) e.2 with
    | some q =>
      if !isAway q then t
      else if a.flag then machineCheck t e.1 .module q.home q.pc q.va
      else if a.flag2 then refusePend t e.1 e.2 false
      else setPend t e.1 e.2 (replied a.value q)
    | none => t) s

/-- R110: the store that launch `l` waited for is acknowledged. -/
def launchPaid (s : State) (l : Nat) : State := if launchOver s l then post s (.launchComplete l) else s

/-- The request `off` of a waiting party is answered: it finds the answer when it runs again; a launch that waits for its stores may be over. -/
def askAnswered (s : State) (a : EventArg) : State :=
  match s.run.asked.find? fun e => e.2.tag == a.off with
  | none => s
  | some (.launch l, m) => launchPaid { s with run := { s.run with asked := s.run.asked.erase (.launch l, m) } } l
  | some e =>
    let g : Given := .reply { e.2 with tag := 0 } (if a.flag then 2 else if a.flag2 then 1 else 0) a.data
    let l := if e.1 == .nobody then s.run.ledger else s.run.ledger ++ [(e.1, g)]
    { s with run := { s.run with asked := s.run.asked.erase e, ledger := l } }

/-- REMOTE_RESPONSE (R45, R46, R54, R231): access `m` of context `n` is answered with `value`, or with `write` the request of tag `off` with `data`; unreachable
with `flag`; refused with `flag2`, which is a not-present fault: the access is made again when it is answered. -/
def execRemoteResponse (s : State) : Outcome :=
  let a := s.run.arg
  .next <|
    if a.write then askAnswered s a
    else match pendAt (ctxAt s a.n) a.m with
      | some p => if isAway p then pendAnswered s a p else s
      | none => s

/-! ## Page migration (R48 to R51) -/

/-- The bucket entry that holds a page's leaf: its address. -/
def leafEntry (s : State) (v size va : Nat) : Option Nat :=
  (List.range 2).findSome? fun j =>
    (bucketBytes s v size va j).bind fun b =>
      ((List.range 4).find? fun i => (matchEntry s.dev b size (vpnOf va size) i).isSome).map fun i => b + 16 * i

/-- R222: a locked entry of some core covers the page. -/
def lockedPage (s : State) (v vpn16 size : Nat) : Bool := s.cores.any fun e => e.2.tlb.any fun t => t.locked && tlbHit v 3 false vpn16 t ||
  (t.locked && t.v == v && decide (t.vpn * 2 ^ (pageBits t.size - 14) ≤ vpn16 + 2 ^ (pageBits size - 14) - 1 ∧ vpn16 < (t.vpn + 1) * 2 ^ (pageBits t.size - 14)))

/-- The first 16 KiB page number of the page that holds page number vpn16. -/
def pageStart (size vpn16 : Nat) : Nat := vpn16 / 2 ^ (pageBits size - 14) * 2 ^ (pageBits size - 14)

/-- R50: a page's key in the list of moves. -/
def moveKey (v vpn16 : Nat) : Nat := v * 2 ^ 34 + vpn16

/-- R50: a page's moves in the 1 ms that ends now. R50 does not say whether a move made exactly 100,000 ticks earlier still lies in it: here it does not (DESIGN
CHOICE, log 95). -/
def earlierMoves (s : State) (k : Nat) : List Nat := (mget s.mgmt.moves k []).filter fun t => decide (s.tick.toNat - t < 100000)
def recentMoves (s : State) (k : Nat) : List Nat := earlierMoves s k ++ [s.tick.toNat]

/-- R19: why a move is refused, or its leaf's address and word. Where several refusals hold, R19 gives no precedence: the model tests the ring, the leaf and MIG, a move under
way, DEST, and the locked entries, in this order (DESIGN CHOICE, log 91). A VNPU that is not 1 to 16 has the tables its number selects (DESIGN CHOICE, log 68), a page
that has moved three times within 1 ms (R50) is refused as one whose MIG is clear (DESIGN CHOICE, log 68), and so is one whose home is not this module (DESIGN CHOICE, log 53). -/
def moveCheck (s : State) (v vpn16 size dest : Nat) : Except Nat (Nat × Word) :=
  let va := vpn16 * 16384
  if !ringAdmitted s then .error 4
  else if 2 ≤ size then .error 2
  else match leafEntry s v size va with
  | none => .error 2
  | some e =>
    let w : Word := BitVec.ofNat 64 (readLe s.dev e 8)
    let home := if leafMT w = 2 then leafHome w else modId s
    if !w.getLsbD 10 || decide (3 ≤ (earlierMoves s (moveKey v (pageStart size vpn16))).length) then .error 2
    else if s.mgmt.moving.any fun m => m.v == v && m.size == size && m.vpn16 == pageStart size vpn16 then .error 3
    else if decide (ringN s ≤ dest) || dest == home || unreachable s then .error 4
    else if lockedPage s v vpn16 size then .error 7
    else if leafMT w ≠ 0 then .error 2
    else .ok (e, w)

def startMove (s : State) (v vpn16 size dest : Nat) (w : Word) (driver : Bool) : State :=
  modMgmt s fun m => { m with moving := m.moving ++ [{ v := v, vpn16 := pageStart size vpn16, size := size, dest := dest, pa := leafFrame w * 16384, driver := driver, stop := false }] }

def migAnswer (s : State) (code : Nat) : State := raise (modMgmt s fun m => { m with migStatus := code, migDone := true }) 0 52

/-- MIGREQ (R19, R49): a write of `value`, which has no effect in recovery (R63). -/
def execMigreq (s : State) : Outcome :=
  let w := s.run.arg.value
  .next <|
    if !w.getLsbD 0 || s.mgmt.migStatus == 1 || s.fw.mode == .dead || inert s then s
    else match moveCheck s (wbits w 29 25) (wbits w 63 30) (wbits w 24 23) (wbits w 22 20) with
    | .error code => migAnswer s code
    | .ok (_, l) => startMove (modMgmt s fun m => { m with migStatus := 1 }) (wbits w 29 25) (wbits w 63 30) (wbits w 24 23) (wbits w 22 20) l true

/-- MIGRATION_POLICY_PROPOSAL (R48, R54): the policy moves page `off` of size `len` of VNPU `n` to module `m`; it proposes none that MIGREQ would refuse. -/
def execMigrationPolicyProposal (s : State) : Outcome :=
  let a := s.run.arg
  .next <| if s.fw.mode == .dead then s else match moveCheck s a.n a.off a.len a.m with
    | .error _ => s
    | .ok (_, l) => startMove s a.n a.off a.len a.m l false

/-- The times of a page's last three moves, with one that ends now. -/
def noteMove (s : State) (k : Nat) : State := modMgmt s fun m => { m with moves := mput m.moves k ((recentMoves s k).reverse.take 3).reverse }

/-- R51: the record of a page that is pinned. -/
def pinnedBytes (s : State) (size home old vpn16 : Nat) : List Byte :=
  natLe 1 3 ++ natLe 1 size ++ natLe 1 home ++ natLe 1 old ++ natLe 4 0 ++ natLe 8 (vpn16 * 16384) ++ natLe 8 s.tick.toNat ++ natLe 8 0

/-- R217: the leaf's first word after a move, of memory type `mt`: device at the new home, remote elsewhere. HOME names the new home in both (DESIGN CHOICE, log 53). -/
def movedLeaf (w : Word) (mt frame home count : Nat) : Word :=
  BitVec.ofNat 64 (w.toNat % 2 ^ 8 + mt * 2 ^ 8 + (if 3 ≤ count then 0 else nbits w.toNat 10 10 * 2 ^ 10) + home * 2 ^ 11 + count % 4 * 2 ^ 14 +
    nbits w.toNat 19 16 * 2 ^ 16 + frame % 2 ^ 32 * 2 ^ 20)

/-- R221: a page's translations are dropped everywhere. -/
def dropPage (s : State) (v vpn16 size : Nat) : State :=
  let f := fun (l : List TlbEntry) => l.filter fun e => !tlbHit v size false vpn16 e
  modXlate { s with cores := s.cores.map fun e => (e.1, { e.2 with tlb := f e.2.tlb }) } fun t => { t with l2 := t.l2.map fun e => (e.1, f e.2) }

/-- What waited for a page goes on: queues, prologues, launches that were over, a guest reset. -/
def afterMove (s : State) (v : Nat) : State :=
  let s1 := s.vnpus.foldl (fun t e => e.2.queues.foldl (fun u q =>
    let w := post (kick u e.1 q.1) (.packetTake e.1 q.1)
    match q.2.ind with | some _ => post w (.prologueRun e.1 q.1) | none => w) t) s
  let s2 := s1.launches.foldl (fun t e => if launchOver t e.1 then post t (.launchComplete e.1) else t) s1
  if (vnpuAt s2 v).resetting then postArg s2 (.guestReset v) { noArg with flag := true } else s2

/-- R48, R234: the bytes of device memory at a page, numbered from its first. -/
def pageData (s : State) (pa size : Nat) : Memory :=
  s.dev.foldl (fun m e =>
    let a := logicalAddr s e.1
    if pa ≤ a ∧ a < pa + 2 ^ pageBits size then writeByte m (a - pa) e.2 else m) []

/-- R48 steps 2 and 3: what another module of the ring is sent of a move: its new leaf, and at the new home the page's bytes, each line on the port that its
address gives (R43). -/
def pageMsg (s : State) (mv : Move) (w : Word) (frame count dest : Nat) : PageMsg :=
  let new := dest == mv.dest
  { dest, even := leavePort s dest 0, odd := leavePort s dest 64, v := mv.v, vpn16 := mv.vpn16, size := mv.size,
    leaf := movedLeaf w (if new then 0 else 2) frame mv.dest count, data := if new then pageData s mv.pa mv.size else [] }

/-- R48 steps 2 and 3: the frame leaves in migration-class flits, the new leaf for every other module; the frame's remote accesses are counted afresh at the new home. -/
def sendPage (s : State) (mv : Move) (w : Word) (frame count : Nat) : State :=
  let l := ((List.range (ringN s)).filter (· != modId s)).map (pageMsg s mv w frame count)
  modMgmt { s with out := { s.out with pages := s.out.pages ++ l } } fun g =>
    { g with remoteCounts := g.remoteCounts.filter fun e => decide (e.1 / 8 * 16384 < mv.pa ∨ mv.pa + 2 ^ pageBits mv.size ≤ e.1 / 8 * 16384) }

/-- R48 step 5: another module's access to the page, held during its move, goes on to the new home, which answers it. -/
def heldForPage (mv : Move) (e : Event) : Bool :=
  e.i == .remoteRequest && decide (mv.pa ≤ e.arg.msg.pa % 2 ^ 46 ∧ e.arg.msg.pa % 2 ^ 46 < mv.pa + 2 ^ pageBits mv.size)

def forwardHeld (s : State) (mv : Move) (frame : Nat) : State :=
  let keep := fun (l : List Event) => l.filter fun e => !heldForPage mv e
  let gone := fun (a : Agent) => match a with | .event e => heldForPage mv e | _ => false
  let s1 := { s with
    run := { s.run with inputs := keep s.run.inputs, later := keep s.run.later, ledger := s.run.ledger.filter fun e => !gone e.1 }
    buckets := s.buckets.map fun b => (b.1, { b.2 with held := b.2.held.map fun h => if gone h.who then { h with who := .nobody } else h }) }
  ((s.run.later ++ s.run.inputs).filter (heldForPage mv)).foldl (fun t e =>
    sendRemote t { e.arg.msg with dest := mv.dest, pa := frame * 16384 + (e.arg.msg.pa % 2 ^ 46 - mv.pa) }) s1

/-- R48: a page's bytes arrive at its new home's frames. -/
def storePage : Nat → Nat → List Byte → State → State
  | 0, _, _, s => s
  | n + 1, pa, b, s => if b.isEmpty then s else storePage n (pa + 16384) (b.drop 16384) { s with dev := writeBytes s.dev (servedAddr s pa) (b.take 16384) }

/-- R48 steps 2 to 5 at the old home; `frame` is the page's frame at the new home. -/
def finishMove (s : State) (mv : Move) (frame : Nat) : State :=
  match leafEntry s mv.v mv.size (mv.vpn16 * 16384) with
  | none => s
  | some e =>
    let k := moveKey mv.v mv.vpn16
    let times := recentMoves s k
    let w : Word := BitVec.ofNat 64 (readLe s.dev e 8)
    let s1 := noteMove { s with dev := writeLe s.dev e 8 (movedLeaf w 2 frame mv.dest times.length).toNat } k
    let s2 := forwardHeld (dropPage (sendPage s1 mv w frame times.length) mv.v mv.vpn16 mv.size) mv frame
    if 3 ≤ times.length then postPinnedRecord s2 mv.v (pinnedBytes s2 mv.size mv.dest (modId s) mv.vpn16) else s2

/-- R49: an access that had reached the page before the move began; it completes at the old home before the copy. One that is to be made again (R223) waits for the
move instead (R235). -/
def oldAccess (s : State) (mv : Move) : Bool :=
  s.ctxs.any fun e => e.2.mem.any fun p => p.mt == 0 && p.place != .done && p.place != .pageHeld && decide (mv.pa ≤ p.pa ∧ p.pa < mv.pa + 2 ^ pageBits mv.size)

/-- R48, R50, R51: another module has moved page `off`, size `len`, VNPU `n`, from home `m`, and its leaf here is now `value`: this module is the new home where
that is a device-type leaf; the page's bytes are then `data`. -/
def pageArrives (s : State) (a : EventArg) : State :=
  let v := a.n % 32
  let first := pageStart a.len a.off
  let s1 := match leafEntry s v a.len (a.off * 16384) with
    | some e => { s with dev := writeLe s.dev e 8 a.value.toNat }
    | none => s
  let here := leafMT a.value == 0
  let s2 := if here then storePage 128 (leafFrame a.value * 16384) a.data s1 else s1
  let s3 := noteMove (dropPage s2 v a.off a.len) (moveKey v first)
  if wbits a.value 15 14 = 3 ∧ here ∧ a.n ≤ 16 then postPinnedRecord s3 a.n (pinnedBytes s3 a.len (modId s) a.m first) else s3

/-- R49, R234: a line of the page cannot be read. -/
def pageLost (s : State) (mv : Move) : Bool := s.mgmt.remap.any fun e => movesFrame e.1 mv && e.2.2 != 0

/-- R49: the page stays at its old home: by what has happened during the move, a line that cannot be read, or since no way leads to another module. -/
def moveStops (s : State) (mv : Move) : Bool := mv.stop || pageLost s mv || !ringAdmitted s || unreachable s

/-- PAGE_MIGRATION_DONE (R48 to R51): the oldest move ends (DESIGN CHOICE, log 53), with the page in frame `m` of its new home, or is stopped (R49), with `flag` in any case. With `flag3` a page that another module moved has arrived, or its new leaf. -/
def execPageMigrationDone (s : State) : Outcome :=
  let a := s.run.arg
  .next <|
    if a.flag3 then pageArrives s a
    else match s.mgmt.moving with
    | [] => s
    | mv :: rest =>
      if oldAccess s mv || s.fw.mode == .dead then s
      else
        let stop := a.flag || moveStops s mv
        let s1 := modMgmt s fun m => { m with moving := rest }
        let s2 := if stop then s1 else finishMove s1 mv a.m
        afterMove (if mv.driver then migAnswer s2 (if stop then 6 else 5) else s2) mv.v

end Sys2Proof.Machine
end

