-- ==== Sys2Proof/Machine/Firmware.lean ====
section
/-!
DEFINITION. Resets (R18, R19, R63, R157, R234), boot and recovery (R58 to R66, R76), the mailbox (R67 to R69, R72), live update (R70, R71, R73 to R77),
attestation (R66, R78, R79).
-/
namespace Sys2Proof.Machine

/-! ## Flash and banks (R58, R59) -/

def bankAt (b : Nat) : Nat := 0x00200000 + b * 0x01000000
def bankPlen (m : Memory) (a : Nat) : Nat := readLe m (a + 20) 4
def bankVer (m : Memory) (a : Nat) : Nat := readLe m (a + 8) 4
def bankRollback (m : Memory) (a : Nat) : Bool := readLe m (a + 12) 1 % 2 == 1

/-- R59: the header of a bank that has `len` bytes is good. -/
def headerGood (m : Memory) (a len : Nat) : Bool :=
  readLe m a 4 == 0x47464B50 && readLe m (a + 4) 2 == 1 && decide (readLe m (a + 12) 1 < 2) && readLe m (a + 13) 3 == 0 &&
    (bankRollback m a || readLe m (a + 16) 4 == 0) && decide (bankPlen m a ≤ 16776640) && allZero (readBytes m (a + 24) 40) &&
    decide (576 + bankPlen m a ≤ len)

/-- R60: the key that travels in the certificate chain is the one whose digest the ROM holds. -/
def keyGood (s : State) : Bool := Config.sha512 (Config.firmwareKey (readBytes s.fw.flash 0x1000 0xF000)) == Config.romKeyDigest

/-- R62 steps 2 to 5: the REASON of the first check that fails, or 0, for the bank at `a` of `m`. -/
def bankReason (s : State) (m : Memory) (a len : Nat) : Nat :=
  let counter := s.fw.counter
  if !headerGood m a len then 1
  else if !keyGood s || !Config.verifies (readBytes m a (576 + bankPlen m a)) then 2
  else if readLe m (a + 6) 2 ≠ 1 then 4
  else if bankRollback m a then (if counter ≤ readLe m (a + 16) 4 then 0 else 3)
  else if counter ≤ bankVer m a then 0 else 3

/-- The check of a bank of the flash. -/
def flashReason (s : State) (b : Nat) : Nat := bankReason s s.fw.flash (bankAt b) 16777216

/-- R68: a bank's version in an answer. -/
def shownVer (s : State) (b : Nat) : Nat := if headerGood s.fw.flash (bankAt b) 16777216 then bankVer s.fw.flash (bankAt b) else 0

/-- R58: the bank the selector names. -/
def selector (m : Memory) : Nat := if readByte m 0 = 1 ∧ readByte m 4 = 1 then 1 else 0

/-- R234: device memory as its addresses read. -/
def servedMemory (s : State) : Memory :=
  (s.mgmt.remap.filter fun e => decide (e.2.1 < 256)).foldl (fun m e => copyFrame m (spareFrame + e.2.1) e.1) s.dev

/-- R61: n bytes of a memory, from a, go to byte d and on of a complex's firmware region. -/
def regionPut (s : State) (die d : Nat) (src : Memory) (a n : Nat) : State :=
  let rest := s.dev.filter fun e => match fwOffset die (logicalAddr s e.1) with | some o => !decide (d ≤ o ∧ o < d + n) | none => true
  { s with dev := (src.filter fun e => decide (a ≤ e.1 ∧ e.1 < a + n)).foldl (fun t e => writeByte t (servedAddr s (fwAddr die (d + (e.1 - a)))) e.2) rest }

/-- R61: n bytes of a complex's firmware region from byte d on. -/
def regionGet (s : State) (die d n : Nat) : Memory :=
  (servedMemory s).foldl (fun t e => match fwOffset die e.1 with | some o => if d ≤ o ∧ o < d + n then writeByte t (o - d) e.2 else t | none => t) []

/-- R61: a bank is copied into a complex's image half, and its resident part into SRAM. -/
def loadImage (s : State) (die b : Nat) : State :=
  let a := bankAt b
  let n := 576 + bankPlen s.fw.flash a
  modFw (regionPut s die 0 s.fw.flash a n) fun f =>
    { f with sram := mput f.sram die (copyInto (mget f.sram die []) f.flash (a + 64) (min 1572864 (bankPlen f.flash a)) 0) }

/-! ## FWSTAT (R56) -/

def fwstat (s : State) : Word :=
  let f := s.fw
  let bit := fun (b : Bool) i => if b then 2 ^ i else 0
  BitVec.ofNat 64 (f.fwver * 2 ^ 32 + f.upd * 2 ^ 12 + f.reason * 2 ^ 8 + bit f.pendc 7 + bit f.idok 6 + bit f.fallbk 5 + bit f.rolled 4 + f.bank * 8 +
    bit f.chardActive 1 + bit f.chg 0)

/-- R56: a change of UPD, ACTIVE or BANK sets CHG and raises vector 60. -/
def noteFw (s0 s : State) : State :=
  if s0.fw.upd = s.fw.upd ∧ s0.fw.chardActive = s.fw.chardActive ∧ s0.fw.bank = s.fw.bank then s
  else raise (modFw s fun f => { f with chg := true }) 0 60

def setUpd (s : State) (u : Nat) : State := noteFw s (modFw s fun f => { f with upd := u })

/-! ## Firmware cores -/

def complexCores (die : Nat) : List Nat := (List.range 4).map fun i => 192 + 4 * die + i

/-- The cores of a complex start (R62 step 8). -/
def startComplex (s : State) (die : Nat) : State :=
  (complexCores die).foldl (fun t c => addTurns (setCtx t c { freshCtx with phase := .running, pc := Config.fwEntry c }) [.seq c]) s

def stopComplex (s : State) (die : Nat) : State :=
  (complexCores die).foldl (fun t c => setCtx (dropTurns t (teamTurns c)) c { freshCtx with phase := .halted }) s

/-! ## Boot (R62 to R66) -/

/-- R14, R64: first-boot spare maps; the counts start again with them, but for complexes that are marked as failed (R76; DESIGN CHOICE, log 70). -/
def firstBootMaps (s : State) : State :=
  let marked := s.fw.kaleFailed || s.fw.chardFailed
  modMgmt { s with cores := s.cores.map fun e => (e.1, { e.2 with site := e.1 % 8, absent := false, withheld := [] }) } fun m =>
    { m with sliceMap := [], spareUsed := [], cores := 0, slices := 0, lanes := 0, granules := 0, cplx := if marked then m.cplx else 0,
             requests := if marked then m.requests.filter fun e => e.1 == 6 else [] }

/-- R64: the self-test's failures are retired: core sites (from 96 the clusters' spare sites), slices (from 96 the dies' spare ones); a new service part is written. -/
def selfTest (s : State) (cores slices : List Nat) : State :=
  let s1 := (cores.filter fun c => decide (96 ≤ c ∧ c < 108)).foldl (fun t c => useSpare t (c - 96)) (firstBootMaps s)
  let s2 := (slices.filter fun n => decide (96 ≤ n ∧ n < 98)).foldl (fun t n => useSpare t (slicePool (n - 96))) s1
  let s3 := (cores.filter (· < 96)).foldl (fun t c => postArg t .coreRetirement { noArg with n := c }) s2
  writeService ((slices.filter (· < 96)).foldl (fun t n => postArg t .sliceRetirement { noArg with n := n }) s3)

/-- R64: the service part of the configuration image verifies: the device wrote it, or it came so with the flash. -/
def serviceGood (s : State) : Bool := s.fw.service.isSome || Config.serviceVerifies (readBytes s.fw.flash 0x10000 0x100000)

/-- R62 step 7, R15, R76: the maps and counts of the service part, beside the complex that this boot has found failed. -/
def bootService (s : State) : State :=
  match s.fw.service with
  | none => s
  | some v =>
    let t := applyService s v
    modFw (modMgmt t fun m => { m with cplx := max m.cplx s.mgmt.cplx, requests := m.requests ++ s.mgmt.requests.filter fun e => !m.requests.contains e })
      fun f => { f with kaleFailed := f.kaleFailed || s.fw.kaleFailed, chardFailed := f.chardFailed || s.fw.chardFailed }

/-- R76: a complex found failed is recorded in the service part. -/
def recordFailed (s : State) : State :=
  let written := match s.fw.service with
    | some v => (v.kaleFailed, v.chardFailed)
    | none => (false, false)
  if written = (s.fw.kaleFailed, s.fw.chardFailed) then s else writeService s

/-- R62 step 7, R64: the spare maps of this boot: those that SRAM has kept (R18), the service part's, or first-boot maps. -/
def bootMaps (s : State) (a : EventArg) : State :=
  if s.fw.mapsHeld then s
  else if !a.flag2 && serviceGood s then bootService s
  else selfTest s a.nums a.nums2

/-- R29: the messages of earlier boots, as long as a count is not 0. -/
def repeatMessages (s : State) : State := if svcBits s.mgmt = 0 then s else s.mgmt.requests.foldl (fun t e => serviceMessage t e.1 e.2) s

/-- R165, R273: a cluster that is granted level 0 anew: its VC, its clock, and VL1 to VL3 at VC. -/
def freshRails (s : State) (p : Cluster) : Cluster :=
  { p with level := 0, freq := levelFreq s 0, vc := levelVc s 0, wa := decide (levelVc s 0 < 480), vl1 := levelVc s 0, vl2 := levelVc s 0, vl3 := levelVc s 0 }

/-- R126, R165, R273: the first major frame begins; the clusters are granted level 0, but with the rails off (R20, log 79). -/
def beginFrames (s : State) : State :=
  let s1 := modFrame (dropAbsent s) fun f => { f with started := true, tick := 0, frames := f.frames + 1 }
  let s2 := if s.railsOff then s1 else (List.range 12).foldl (fun t k => modCluster t k (freshRails s1)) s1
  (s2.frame.view.zipIdx).foldl (fun t e => if e.1.valid ∧ e.1.start = 0 then post t (.windowStart e.2) else t) s2

/-- A complex that is lost: it is recorded, and a replacement asked for (R75, R76). -/
def loseComplex (s : State) (die : Nat) : State :=
  let s1 := modFw (stopComplex s die) fun f => { f with kaleFailed := f.kaleFailed || die == 0, chardFailed := f.chardFailed || die == 1, standby := false }
  serviceRequest (modMgmt s1 fun m => { m with cplx := max m.cplx 1 }) 6 die

/-- The firmware of bank b runs: its version and its thresholds (R12). -/
def runBank (b : Nat) (f : Firmware) : Firmware :=
  let v := bankVer f.flash (bankAt b)
  { f with fwver := v, bank := b, rolled := bankRollback f.flash (bankAt b), pendc := decide (f.counter < v) }

/-- R12: the clusters' DDT_THR and VLMIN (R273) as the tables give them. -/
def tuneClusters (thr : Nat) (s : State) : State :=
  (List.range 12).foldl (fun t k => modCluster t k fun p => let v := max (vlFloor s); { p with ddtThr := thr, vl1 := v p.vl1, vl2 := v p.vl2, vl3 := v p.vl3 }) s

/-- R12, R23, R160, R165, R172: the tables and the threshold of the running firmware. The version that was the first to run has the defaults; an update to another
has its own, within the ranges the spec gives (DESIGN CHOICE, log 78). -/
def loadTables (s : State) : State :=
  let first := s.fw.firstVer.getD s.fw.fwver
  let v := BitVec.ofNat 32 s.fw.fwver
  let s1 := modFw s fun f => { f with firstVer := some first }
  if first = s.fw.fwver then tuneClusters 30 (modMgmt { s1 with weights := defaultWeights, levels := defaultLevels } fun m => { m with threshold := 16 })
  else
    tuneClusters (5 + Config.droopThreshold v % 96) (modMgmt { s1 with
      weights := (List.range 14).map fun i => (i, Config.powerWeight v i)
      levels := (List.range 8).map fun l => (8 + Config.levelClock v l % 57, 400 + 5 * (Config.levelVolts v l % 41)) }
      fun m => { m with threshold := Config.retryThreshold v })

/-- R62 steps 7 and 8, for an accepted bank. -/
def startFirmware (s : State) (die b : Nat) (a : EventArg) : State :=
  let r := Config.imageRscfg (readBytes s.fw.flash 0x10000 0x100000)
  let s1 := bootMaps (loadImage (modXlate s fun t => { t with rsBase := r.1.toNat * 2 ^ 24, rsN := r.2.1.toNat % 7, rsEn := r.2.2 }) die b) a
  let s2 := loadTables (modFw s1 fun f =>
    { runBank b f with mode := .running, chardActive := die == 1, passed := [], staged := none, lastStageOk := false, mapsHeld := false })
  let s3 := startComplex s2 die
  let other := 1 - die
  let known := if other = 1 then s3.fw.chardFailed else s3.fw.kaleFailed
  let s4 := if known then recordFailed s3
    else if a.flag then loseComplex s3 other
    else recordFailed (modFw (startComplex (loadImage s3 other b) other) fun f => { f with standby := true })
  mirrorTable (beginFrames (repeatMessages (noteFw s s4)))

/-- BOOT_SEQUENCE (R62 to R66): the ROM of the complex that boots. `flag`: the other complex is not reached; `flag2`: the service part does not verify, and `nums`
and `nums2` are the core sites and slices the self-test finds failing. Whether the PUF's correction succeeds is a free value (log 15); with no bank to run no key
is derived (R65). A vendor part that fails has REASON 2 (DESIGN CHOICE, log 71). -/
def execBootSequence (s : State) : Outcome :=
  let a := s.run.arg
  .next <|
    if s.fw.mode ≠ .rom then s
    else
      let die := if s.fw.kaleFailed then 1 else 0
      let b := selector s.fw.flash
      let r0 := flashReason s b
      let r1 := flashReason s (1 - b)
      let s0 := modFw s fun f => { f with fallbk := decide (r0 ≠ 0), reason := if r0 = 0 then f.reason else r0 }
      let recover := fun (t : State) (r : Nat) => noteFw s (modFw t fun f => { f with mode := .recovery, reason := r, chardActive := die == 1 })
      if r0 ≠ 0 ∧ r1 ≠ 0 then recover s0 r1
      else
        let s1 := useFree (modFw s0 fun f => { f with idok := (freeAt s 0).getLsbD 0 })
        if keyGood s && Config.verifies (readBytes s.fw.flash 0x10000 0x100000) then startFirmware s1 die (if r0 = 0 then b else 1 - b) a
        else recover s1 2

/-- CHARD_BOOT_TIMEOUT (R76): Kale has not reached Chard within 500 ms: Chard boots, and Kale is recorded as failed. -/
def execChardBootTimeout (s : State) : Outcome :=
  .next (if s.fw.mode = .rom then post (loseComplex s 0) .bootSequence else s)

/-! ## Resets (R18) -/

/-- R234: at a warm reset a remapped frame's row is repaired, the frame is copied back and its entry freed; a spent row keeps its entry. -/
def repairFrame (spent : List Nat) (s : State) (e : Nat × (Nat × BitVec 256)) : State :=
  if spent.contains e.1 then serviceRequest s 5 e.1
  else
    let moved := decide (e.2.1 < 256)
    let lost := (List.range 256).filter fun i => e.2.2.getLsbD i
    let d1 := if moved then copyFrame s.dev (spareFrame + e.2.1) e.1 else s.dev
    let d2 := lost.foldl (fun m i => writeBytes m (e.1 * 16384 + 64 * i) ((List.range 64).map fun j => (freeAt s (64 * i + j)).setWidth 8)) d1
    let s1 := modMgmt { s with dev := d2 } fun m => { m with remap := mdel m.remap e.1 }
    if lost.isEmpty then s1 else useFree s1

def repairFrames (s : State) (spent : List Nat) : State :=
  let all := s.mgmt.repairSpent ++ spent.filter fun n => !s.mgmt.repairSpent.contains n
  s.mgmt.remap.foldl (repairFrame all) (modMgmt s fun m => { m with repairSpent := all })

/-- What a core keeps over a reset of its cluster: its place, its withheld granules, ERRLO (R271), and a retirement that is under way (R18). -/
def keptCore (k : Core) : Core :=
  { freshCore with site := k.site, absent := k.absent, withheld := k.withheld, errlo := k.errlo, frozen := k.frozen, leaving := k.leaving }

/-- R18: the module as a power-on reset leaves it: the flash with its counter and its service part, the host's memory, and what has left the module stay. The
complexes that the service part marks as failed are known (R76). It restores the rails and releases THERMTRIP_N, which a warm reset does not (DESIGN CHOICE, log 79). -/
def coldReset (s : State) : State :=
  let s1 := { State.reset with
    run := { State.reset.run with free := s.run.free }
    out := { s.out with thermtrip := false }
    host := s.host }
  modFw s1 fun f =>
    { f with flash := s.fw.flash, counter := s.fw.counter, firstVer := s.fw.firstVer, service := s.fw.service,
             kaleFailed := match s.fw.service with | some v => v.kaleFailed | none => false
             chardFailed := match s.fw.service with | some v => v.chardFailed | none => false }

/-- R18: the spare maps that complex SRAM keeps, with the counts they stand for and the frames whose row cannot be repaired. -/
def holdMaps (s t : State) : State :=
  let m := s.mgmt
  let u := { t with cores := s.cores.map fun e => (e.1, { freshCore with site := e.2.site, absent := e.2.absent, withheld := e.2.withheld, errlo := e.2.errlo }) }
  modFw (modMgmt u fun n =>
    { n with cores := m.cores, slices := m.slices, lanes := m.lanes, granules := m.granules, cplx := m.cplx, spareUsed := m.spareUsed, sliceMap := m.sliceMap,
             requests := m.requests, repairSpent := m.repairSpent,
             remap := (m.remap.filter fun e => m.repairSpent.contains e.1).map fun e => (e.1, (e.2.1, 0)) })
    fun f => { f with mapsHeld := true }

/-- With `flag` the complex that should boot does not: Chard's wait ends in its timeout (R76). -/
def bootNext (s : State) (dead : Bool) : State :=
  if dead then { s with run := { s.run with inputs := [{ i := .chardBootTimeout, arg := noArg }] } } else s

/-- POWER_ON_RESET (R18): with `flag` Kale does not start. -/
def execPowerOnReset (s : State) : Outcome := .next (bootNext (coldReset s) s.run.arg.flag)

/-- FUNDAMENTAL_RESET (R18): as power-on, but the spare maps and ERRLO (R271) stay; FT_POS reads 0 until the boot is over (R126). -/
def execFundamentalReset (s : State) : Outcome := .next (bootNext (holdMaps s (coldReset s)) s.run.arg.flag)

/-- R18: every team ends, the evicted ones too; their launches complete as faulted (log 35). -/
def endAllTeams (s : State) : State :=
  let s1 := ((List.range 192).filter fun c => (ctxAt s c).phase != .empty).foldl (fun t c => endTeam t c true true) s
  (s.saves.map (·.1)).foldl (fun t n =>
    match mfind t.saves n with
    | some sv => countEnd (discardSave t n) sv.ctx.launch sv.ctx.team sv.ctx true true
    | none => t) s1

/-- A warm reset of all clusters and slices (R18, R157, R234). -/
def warmReset (s : State) (spent : List Nat) : State :=
  let s1 := endAllTeams s
  let s2 := { s1 with
    cores := s1.cores.map fun e => (e.1, keptCore e.2)
    clusters := s1.clusters.map fun e =>
      let p := { freshCluster with cap := e.2.cap, ddtThr := e.2.ddtThr }
      (e.1, if s.railsOff then { p with vc := 0, vl := 0 } else freshRails s p)
    slices := [], collectives := [], relay := []
    buckets := s1.buckets.map fun e => (e.1, { e.2 with level := e.2.depth, held := [] })
    xlate := { s1.xlate with l2 := [] } }
  repairFrames s2 spent

/-- MGMT_RESET (R18, R19, R63): in recovery, boot runs again; `nums` are frames whose row's repair resources are spent. -/
def execMgmtReset (s : State) : Outcome :=
  .next (match s.fw.mode with
    | .recovery => post (modFw s fun f => { f with mode := .rom }) .bootSequence
    | .rom => s
    | _ => warmReset s s.run.arg.nums)

/-! ## The mailbox (R67, R68) -/

/-- R68: the answer area, complete when vector 59 is raised. -/
def answerBytes (s : State) (status reason : Nat) : List Byte :=
  natLe 4 status ++ natLe 1 (if status = 0 then 0 else reason) ++ natLe 3 0 ++ natLe 8 (fwstat s).toNat ++ natLe 4 s.fw.counter ++ natLe 4 0 ++
    natLe 4 (shownVer s 0) ++ natLe 4 (shownVer s 1) ++ List.replicate 224 0

/-- MAILBOX_ANSWER (R67, R68): STATUS `n`, REASON `m`; busy leaves the command in progress. -/
def execMailboxAnswer (s : State) : Outcome :=
  let a := s.run.arg
  let busy := a.n == 2
  .next (raise (modFw s fun f =>
    let m := writeBytes f.mailbox 0x100 (answerBytes s a.n a.m)
    { f with mailBusy := f.mailBusy && busy, mailbox := if busy then m else writeLe m 0xFC 4 0 }) 0 59)

def answer (s : State) (status reason : Nat) : State := postArg s .mailboxAnswer { noArg with n := status, m := reason }

/-- A refusal is the last failure (R57). -/
def refuse (s : State) (reason : Nat) : State := answer (modFw s fun f => { f with reason := reason }) 1 reason

def cmdCode (s : State) : Nat := fieldAt s.fw.latched 0 4
def cmdArg (s : State) (i : Nat) : Nat := fieldAt s.fw.latched (8 + 8 * i) 8

/-- R68: the command is well formed. Any device physical address is one for STAGE, one at which there is no memory too: the image that it then copies fails its check
(DESIGN CHOICE, log 87). -/
def commandGood (s : State) : Bool :=
  let b := s.fw.latched
  let rec' := s.fw.mode == .recovery
  allZero ((b.drop 4).take 4) && allZero ((b.drop 32).take 220) &&
    match cmdCode s with
    | 1 => cmdArg s 0 % 64 == 0 && decide (576 ≤ cmdArg s 1 ∧ cmdArg s 1 ≤ 16777216) && decide (cmdArg s 2 ≤ if rec' then 1 else 0)
    | 4 => decide (cmdArg s 0 ≤ 1) && cmdArg s 1 == 0 && cmdArg s 2 == 0
    | 2 | 3 | 5 => cmdArg s 0 == 0 && cmdArg s 1 == 0 && cmdArg s 2 == 0
    | _ => false

/-- The command in progress. -/
def mailEvent (s : State) : Instr :=
  if !commandGood s then .malformedMailboxCommand
  else match cmdCode s with | 1 => .stage | 2 => .activate | 3 => .commit | 4 => .select | _ => .status

/-- R67, R405: the doorbell: a command starts, or is answered busy. -/
def doorbell (s : State) : State :=
  let s1 := (complexCores (activeDie s)).foldl (fun t c => modCtx t c fun x => { x with ev := true }) s
  if s.fw.mode = .rom ∨ s.fw.mode = .dead then s
  else if s.fw.mailBusy then answer s1 2 0
  else
    let s2 := modFw s1 fun f => { f with mailBusy := true, latched := readBytes f.mailbox 0 0xFC, mailbox := writeLe f.mailbox 0xFC 4 1 }
    post s2 (mailEvent s2)

/-- R63: commands of recovery; the boot that a reset in recovery starts does not end one that it meets. -/
def inRecovery (s : State) : Bool := s.fw.mode == .recovery || s.fw.mode == .rom

/-- A command in progress: none without firmware (R76), and it waits while a complex takes over (R75). -/
def command (f : State → State) (s : State) : Outcome :=
  .next (if !s.fw.mailBusy || s.fw.mode == .dead then s else if s.fw.failover ≠ .none then stall s else f s)

/-- MALFORMED_MAILBOX_COMMAND (R68): checked before the refusals of recovery (R63; DESIGN CHOICE, log 72). -/
def execMalformedMailboxCommand (s : State) : Outcome := command (fun s => refuse s 0xB) s

/-- R61: the staging half of a region. -/
def stagingHalf : Nat := 16777216

/-- STAGE (R61, R63, R67, R72): UPD is 1 while it runs, and 0 after. -/
def execStage (s : State) : Outcome :=
  command (fun s =>
    let n := cmdArg s 1
    let b := if inRecovery s then cmdArg s 2 else 1 - s.fw.bank
    let s1 := setUpd s 1
    let s2 := regionPut s1 (activeDie s) stagingHalf (servedMemory s1) (cmdArg s 0) n
    let image := regionGet s2 (activeDie s) stagingHalf n
    let r := bankReason s image 0 n
    if r = 0 then
      let s3 := modFw s2 fun f =>
        let m := copyInto f.flash image 0 n (bankAt b)
        { f with flash := if inRecovery s then writeByte (writeByte m 0 (BitVec.ofNat 8 b)) 4 (BitVec.ofNat 8 b) else m
                 staged := some b, lastStageOk := true, passed := f.passed.filter (· != b) ++ [b] }
      answer (setUpd s3 0) 0 0
    else refuse (setUpd (modFw s2 fun f => { f with lastStageOk := false }) 0) r) s

/-- COMMIT (R67, R69), which no power failure divides: the counter it leaves is the old one or FWVER (DESIGN CHOICE, log 73). -/
def execCommit (s : State) : Outcome :=
  command (fun s =>
    if inRecovery s then refuse s 0xC
    else if !s.fw.pendc || s.fw.rolled || decide (64 < s.fw.fwver - s.fw.counter) then refuse s 8
    else
      let b := BitVec.ofNat 8 s.fw.bank
      answer (modFw s fun f => { f with counter := max f.counter f.fwver, flash := writeByte (writeByte f.flash 0 b) 4 b, pendc := false }) 0 0) s

/-- SELECT (R67, R72). -/
def execSelect (s : State) : Outcome :=
  command (fun s =>
    let b := cmdArg s 0
    if inRecovery s then refuse s 0xC
    else if !s.fw.passed.contains b && b != s.fw.bank then refuse s 9
    else answer (modFw s fun f => { f with flash := writeByte (writeByte f.flash 0 (BitVec.ofNat 8 b)) 4 (BitVec.ofNat 8 b) }) 0 0) s

/-- STATUS (R67): every answer carries what it returns. -/
def execStatus (s : State) : Outcome := command (fun s => answer s 0 0) s

/-! ## Live update and takeover (R70 to R77) -/

/-- UPD becomes 5: the update ends. The bank that passed STAGE is spent (R72), and a standby that has it is started again from the running one (DESIGN CHOICE,
log 74). -/
def abortUpdate (s : State) (reason : Nat) : State :=
  let s1 := setUpd (modFw s fun f => { f with reason := reason, quiesced := false, staged := none }) 5
  let other := 1 - activeDie s1
  if s1.fw.standby then startComplex (loadImage s1 other s1.fw.bank) other else s1

/-- R77: SPDM requests that waited are answered now. -/
def releaseSpdm (s : State) : State :=
  modFw { s with run := { s.run with inputs := s.run.inputs ++ s.fw.heldSpdm } } fun f => { f with heldSpdm := [] }

/-- Intake resumes: every queue's merge unit takes packets again. -/
def resumeIntake (s : State) : State :=
  s.vnpus.foldl (fun t e => e.2.queues.foldl (fun u q => post (kick u e.1 q.1) (.packetTake e.1 q.1)) t) (releaseSpdm s)

/-- The merge units take no further packet (R70 step 3). -/
def pauseIntake (s : State) : State := post (modFw s fun f => { f with quiesced := true, quiesceStart := s.tick.toNat }) .liveUpdateTakeover

/-- R70 step 3, once no retirement is in progress (R77). -/
def enterQuiesce (s : State) : State := if anyRetiring s then s else pauseIntake (setUpd s 3)

/-- ACTIVATE (R70 steps 1 to 3, R72): the standby boots from the staged bank and takes the state table. `flag`: the table written to it is damaged; `nums`: the
TYPEs of records it lacks. With no bank staged REASON is 9, a standby or not (DESIGN CHOICE, log 72). An update that aborts is answered with STATUS 1 and its REASON, one that
comes to its end with STATUS 0 after step 5 (DESIGN CHOICE, log 88). -/
def execActivate (s : State) : Outcome :=
  command (fun s =>
    if inRecovery s then refuse s 0xC
    else if s.fw.upd = 2 ∨ s.fw.upd = 3 ∨ s.fw.upd = 4 then s
    else match s.fw.staged with
    | none => refuse s 9
    | some b =>
      if !s.fw.lastStageOk || b == s.fw.bank then refuse s 9
      else if !s.fw.standby then refuse s 0xA
      else
        let other := 1 - activeDie s
        let s1 := setUpd s 2
        let r := flashReason s b
        if r ≠ 0 then answer (abortUpdate s1 r) 1 r
        else
          let t := withoutTypes s.run.arg.nums (stateTable s1)
          let s2 := modFw (startComplex (loadImage s1 other b) other) fun f => { f with mirror := t }
          if s.run.arg.flag || !importOk t then answer (abortUpdate s2 5) 1 5 else enterQuiesce s2) s

/-- R77: nothing that a takeover waits for is under way. -/
def takeoverClear (s : State) : Bool := s.mgmt.moving.isEmpty && s.vnpus.all fun e => !e.2.resetting && e.2.queues.all fun q => !q.2.busy

/-- R75, R76: the table that a complex has taken over with is older than a failure that has led to it: failed complexes and their reports stay. -/
def importLive (s : State) : State :=
  let t := importTable s s.fw.mirror
  modFw (modMgmt t fun m => { m with cplx := max m.cplx s.mgmt.cplx, requests := m.requests ++ s.mgmt.requests.filter fun e => !m.requests.contains e })
    fun f => { f with kaleFailed := f.kaleFailed || s.fw.kaleFailed, chardFailed := f.chardFailed || s.fw.chardFailed }

/-- The other complex is active, with what it has imported; intake resumes. -/
def changeActive (s : State) (f : Firmware → Firmware) : State :=
  let s1 := modFw (importLive s) fun w => { f w with chardActive := !w.chardActive, quiesced := false, failover := .none }
  resumeIntake (noteFw s s1)

/-- R70 step 4: until step 5 is over there is no standby. -/
def takeOverNow (s : State) : State :=
  let b := s.fw.staged.getD s.fw.bank
  loadTables (changeActive (post s .liveUpdateTakeover) fun f => { runBank b f with upd := 4, staged := none, standby := false })

/-- R75: the standby takes over from a complex that has failed; UPD then reads 0, or 5 where the failure ended an update (log 75). -/
def failOver (s : State) (updating : Bool) : State := changeActive s fun f => { f with upd := if updating then 5 else 0 }

/-- R71: 5 ms have passed since intake paused. -/
def pauseOver (s : State) : Bool := decide (s.fw.quiesceStart + 500000 ≤ s.tick.toNat)

/-- R70 step 5: the former active complex boots from the same bank and is standby. -/
def updateDone (s : State) : State :=
  let die := 1 - activeDie s
  let s1 := modFw (startComplex (loadImage s die s.fw.bank) die) fun f => { f with standby := true }
  answer (setUpd (mirrorTable s1) 0) 0 0

/-- R75, R77: the takeover from a failed complex begins, as step 3 does, once no retirement is in progress. -/
def enterFailover (s : State) (updating : Bool) : State :=
  if anyRetiring s then s else pauseIntake (if updating then s else setUpd s 3)

/-- LIVE_UPDATE_TAKEOVER (R70, R75): a failed complex's standby takes over, or an update's step 3 begins once it may, step 4 once nothing waits for it (R77), or
step 5 ends. Without firmware (R76) nothing does. -/
def execLiveUpdateTakeover (s : State) : Outcome :=
  .next <|
    if s.fw.mode ≠ .running then s
    else match s.fw.failover with
    | .failed updating => if !s.fw.quiesced then enterFailover s updating else if takeoverClear s then failOver s updating else s
    | .none =>
      match s.fw.upd with
      | 2 => enterQuiesce s
      | 3 => if takeoverClear s then takeOverNow s else s
      | 4 => updateDone s
      | _ => s

/-- LIVE_UPDATE_TIMEOUT (R71): 5 ms after step 3 began the update ends; a failed complex's standby takes over whatever is still under way (DESIGN CHOICE, log 75). -/
def execLiveUpdateTimeout (s : State) : Outcome :=
  .next <|
    if s.fw.mode ≠ .running ∨ s.fw.quiesced = false ∨ pauseOver s = false then s
    else match s.fw.failover with
      | .failed updating => failOver s updating
      | .none => if s.fw.upd = 3 then answer (resumeIntake (abortUpdate s 6)) 1 6 else s

/-- UPD as the loss of the firmware leaves it: an update that was under way is aborted, and the wait for a failed complex's standby is over (log 75). -/
def updLost (s : State) : Nat :=
  match s.fw.failover with
  | .failed u => if s.fw.upd = 3 then (if u then 5 else 0) else s.fw.upd
  | .none => if s.fw.upd = 4 then 5 else s.fw.upd

/-- R76: the module is without firmware; an update or a takeover that was under way has ended. -/
def loseFirmware (s : State) (die : Nat) : State :=
  let s1 := setUpd (modFw (stopComplex s die) fun f => { f with quiesced := false, staged := none, heldSpdm := [] }) (updLost s)
  raise (modMgmt (modFw s1 fun f => { f with mode := .dead, reason := 7, failover := .none }) fun m => { m with cplx := 2, pend := true }) 0 63

/-- R57: a lasting error in a complex is the last failure. -/
def complexFailed (s : State) (die : Nat) : State := loseComplex (modFw s fun f => { f with reason := 7 }) die

/-- R75, R77: the active complex fails and its standby is to take over, in an update with the old image. -/
def startFailover (s : State) (die : Nat) (updating : Bool) : State :=
  let s1 := modFw (complexFailed s die) fun f => { f with failover := .failed updating }
  if updating then
    let s2 := setUpd (modFw s1 fun f => { f with staged := none }) 5
    answer (enterFailover (startComplex (loadImage s2 (1 - die) s2.fw.bank) (1 - die)) true) 1 7
  else enterFailover s1 false

/-- A complex other than the active one fails: the standby, or the former active one while it boots (R70 step 5), whose update then ends. -/
def otherFails (s : State) (die : Nat) (updating : Bool) : State :=
  if s.fw.standby then
    let s1 := complexFailed s die
    if updating then answer (resumeIntake (abortUpdate s1 7)) 1 7 else s1
  else if s.fw.upd = 4 then answer (setUpd (complexFailed s die) 0) 0 0
  else if s.fw.failover ≠ .none ∧ die ≠ activeDie s then loseFirmware s die
  else s

/-- COMPLEX_LASTING_ERROR (R75 to R77): of complex `n`, or of Chard with `flag`. One in the active complex before step 5 of an update is over finds no standby, and
leaves the module without firmware, though the other complex has not failed (DESIGN CHOICE, log 75). -/
def execComplexLastingError (s : State) : Outcome :=
  let die := if s.run.arg.flag || s.run.arg.n == 1 then 1 else 0
  let updating := s.fw.upd == 2 || s.fw.upd == 3
  .next <|
    if s.fw.mode ≠ .running then s
    else if die ≠ activeDie s then otherFails s die updating
    else if s.fw.failover ≠ .none then s
    else if s.fw.standby then startFailover s die updating
    else loseFirmware s die

/-! ## Attestation (R66, R78, R79) -/

/-- SPDM codes (log 36). -/
def spdmMsg (code p1 p2 : Nat) (body : List Byte) : List Byte := natLe 1 0x13 ++ natLe 1 code ++ natLe 1 p1 ++ natLe 1 p2 ++ body
def spdmError (e : Nat) : List Byte := spdmMsg 0x7F e 0 []

/-- The request i is answered: held during a takeover (R77), refused without an identity (R66), by nobody without firmware (R76). -/
def spdm (i : Instr) (f : State → List Byte) (s : State) : Outcome :=
  .next <|
    if s.fw.mode = .dead then s
    else if s.fw.quiesced then modFw s fun w => { w with heldSpdm := w.heldSpdm ++ [{ i := i, arg := s.run.arg }] }
    else { s with out := { s.out with spdm := s.out.spdm ++ [if s.fw.idok then f s else spdmError 5] } }

def chainBytes (s : State) : List Byte := Config.chain (readBytes s.fw.flash 0x1000 0xF000)

/-- R79: the measurement blocks. -/
def measure (s : State) (i : Nat) : List Byte :=
  let a := bankAt s.fw.bank
  match i with
  | 1 => Config.romDigest
  | 2 => Config.sha512 (readBytes s.fw.flash a (576 + bankPlen s.fw.flash a))
  | 3 => Config.sha512 (readBytes s.fw.flash 0x10000 0x100000 ++ match s.fw.service with | some v => wordsToBytes (serviceRecord v) | none => [])
  | 4 => Config.sha512 (s.contracts.inForce.flatMap fun e => e.2.bytes)
  | _ => []

/-- SPDM_GET_VERSION (R78). -/
def execSpdmGetVersion (s : State) : Outcome := spdm .spdmGetVersion (fun _ => spdmMsg 0x04 0 0 (natLe 1 0 ++ natLe 1 1 ++ natLe 2 0x1300)) s
/-- SPDM_GET_CAPABILITIES (R78): no session capability. -/
def execSpdmGetCapabilities (s : State) : Outcome := spdm .spdmGetCapabilities (fun _ => spdmMsg 0x61 0 0 (natLe 4 0 ++ natLe 4 0x16)) s
/-- SPDM_NEGOTIATE_ALGORITHMS (R78): `n`, `m`, `off` are the proposed BaseAsymAlgo, BaseHashAlgo and MeasurementHashAlgo sets. -/
def execSpdmNegotiateAlgorithms (s : State) : Outcome :=
  spdm .spdmNegotiateAlgorithms (fun t =>
    let a := t.run.arg
    if nbits a.n 6 6 = 1 ∧ nbits a.m 2 2 = 1 ∧ nbits a.off 3 3 = 1 then spdmMsg 0x63 0 0 (natLe 4 0x40 ++ natLe 4 0x04 ++ natLe 4 0x08) else spdmError 1) s
/-- SPDM_GET_DIGESTS (R78). -/
def execSpdmGetDigests (s : State) : Outcome := spdm .spdmGetDigests (fun t => spdmMsg 0x01 0 1 (Config.sha512 (chainBytes t))) s
/-- SPDM_GET_CERTIFICATE (R78): slot `n`, portion `off`, `len`. -/
def execSpdmGetCertificate (s : State) : Outcome :=
  spdm .spdmGetCertificate (fun t =>
    let a := t.run.arg
    if a.n ≠ 0 then spdmError 7 else spdmMsg 0x02 0 0 (((chainBytes t).drop a.off).take a.len)) s
/-- SPDM_CHALLENGE (R78, R79): slot `n`, nonce `data`. -/
def execSpdmChallenge (s : State) : Outcome :=
  spdm .spdmChallenge (fun t =>
    let a := t.run.arg
    if a.n ≠ 0 then spdmError 1
    else
      let body := Config.sha512 (chainBytes t) ++ a.data
      spdmMsg 0x03 0 1 (body ++ Config.identitySign body)) s
/-- SPDM_GET_MEASUREMENTS (R78, R79): block `n`, 0 for the number of blocks, 255 for all; signed with `flag` over the nonce `data`. -/
def execSpdmGetMeasurements (s : State) : Outcome :=
  spdm .spdmGetMeasurements (fun t =>
    let a := t.run.arg
    let body := if a.n = 0 then natLe 1 4 else if a.n = 255 then [1, 2, 3, 4].flatMap (measure t) else measure t a.n
    if 4 < a.n ∧ a.n ≠ 255 then spdmError 1
    else spdmMsg 0x60 0 0 (if a.flag then body ++ a.data ++ Config.identitySign (body ++ a.data) else body)) s
/-- SPDM_UNSUPPORTED_REQUEST (R66, R78). -/
def execSpdmUnsupportedRequest (s : State) : Outcome := spdm .spdmUnsupportedRequest (fun _ => spdmError 7) s

end Sys2Proof.Machine
end

