-- ==== Sys2Proof/Machine/LaneInt.lean ====
section
/-!
DEFINITION. Integer lane words, moves and compares (R423, R424).
-/
namespace Sys2Proof.Machine

/-- R423: the 32-bit image of an exact result: wrapped, or clamped with SAT under `sat`. -/
def satInt (sat : Bool) (x : Int) : Lane × LFlags :=
  if sat && decide (x < -(2 ^ 31)) then (BitVec.intMin 32, flSAT)
  else if sat && decide (2 ^ 31 - 1 < x) then (BitVec.intMax 32, flSAT)
  else (BitVec.ofInt 32 x, 0)

def noFlags (x : Lane) : Lane × LFlags := (x, 0)

/-- d := f(a, b) in each active lane. -/
def lane2 (op : Nat) (f : LaneFields) (g : Lane → Lane → Lane) (s : State) : Outcome :=
  plainWord op f 1 (fun w i => noFlags (g (w.a i) (w.b i))) s

/-- d := f(a) in each active lane. -/
def lane1 (op : Nat) (f : LaneFields) (g : Lane → Lane) (s : State) : Outcome :=
  plainWord op f 1 (fun w i => noFlags (g (w.a i))) s

/-- An exact signed result of a and b, wrapped or clamped. -/
def laneSat (op : Nat) (f : LaneFields) (g : Int → Int → Int) (s : State) : Outcome :=
  plainWord op f 1 (fun w i => satInt f.sat (g (w.a i).toInt (w.b i).toInt)) s

/-- VADD (R423). -/
def execVadd (f : LaneFields) (s : State) : Outcome := laneSat 0x01 f (fun a b => a + b) s

/-- VSUB (R423). -/
def execVsub (f : LaneFields) (s : State) : Outcome := laneSat 0x02 f (fun a b => a - b) s

/-- VMUL (R423). -/
def execVmul (f : LaneFields) (s : State) : Outcome := laneSat 0x03 f (fun a b => a * b) s

/-- VMULH (R423). -/
def execVmulh (f : LaneFields) (s : State) : Outcome := lane2 0x04 f (fun a b => BitVec.ofInt 32 (a.toInt * b.toInt / 2 ^ 32)) s

/-- VMAD (R423). -/
def execVmad (f : LaneFields) (s : State) : Outcome := 
  plainWord 0x05 f 1 (fun w i => satInt f.sat ((w.a i).toInt * (w.b i).toInt + (w.c i).toInt)) s

/-- VAND (R423). -/
def execVand (f : LaneFields) (s : State) : Outcome := lane2 0x06 f (fun a b => a &&& b) s

/-- VOR (R423). -/
def execVor (f : LaneFields) (s : State) : Outcome := lane2 0x07 f (fun a b => a ||| b) s

/-- VXOR (R423). -/
def execVxor (f : LaneFields) (s : State) : Outcome := lane2 0x08 f (fun a b => a ^^^ b) s

/-- VSHL (R423). -/
def execVshl (f : LaneFields) (s : State) : Outcome := lane2 0x09 f (fun a b => a <<< (b.toNat % 32)) s

/-- VSHR (R423). -/
def execVshr (f : LaneFields) (s : State) : Outcome := lane2 0x0A f (fun a b => a >>> (b.toNat % 32)) s

/-- VSRA (R423). -/
def execVsra (f : LaneFields) (s : State) : Outcome := lane2 0x0B f (fun a b => a.sshiftRight (b.toNat % 32)) s

/-- VMIN (R423). -/
def execVmin (f : LaneFields) (s : State) : Outcome := lane2 0x0C f (fun a b => if a.slt b then a else b) s

/-- VMAX (R423). -/
def execVmax (f : LaneFields) (s : State) : Outcome := lane2 0x0D f (fun a b => if a.slt b then b else a) s

/-- VABS (R423). -/
def execVabs (f : LaneFields) (s : State) : Outcome := lane1 0x0E f (fun a => if a.msb then -a else a) s

/-- VCLZ (R423). -/
def execVclz (f : LaneFields) (s : State) : Outcome := lane1 0x0F f (fun a => BitVec.ofNat 32 (clzGo a.toNat 32)) s

/-- VPOPC (R423). -/
def execVpopc (f : LaneFields) (s : State) : Outcome := lane1 0x10 f (fun a => BitVec.ofNat 32 (popGo a.toNat 32)) s

/-- A word that writes bit i of qd in each active lane. -/
def compareWord (op : Nat) (f : LaneFields) (weightIdx : Nat) (p : LaneView → Nat → Bool) (s : State) : Outcome :=
  laneWord op f weightIdx none (fun w _ => .ok { qbits := w.active.map fun i => (f.d.toNat, i, p w i) }) s

/-- R424: the conditions of VCMP. -/
def intCond (cond : Nat) (a b : Lane) : Bool :=
  match cond with
  | 0 => a == b
  | 1 => a != b
  | 2 => a.slt b
  | 3 => a.sle b
  | 4 => b.slt a
  | 5 => b.sle a
  | 6 => a.ult b
  | _ => b.ule a

/-- VCMP (R424). -/
def execVcmp (f : LaneFields) (s : State) : Outcome := compareWord 0x18 f 1 (fun w i => intCond w.imm (w.a i) (w.b i)) s

/-- VSEL (R424). -/
def execVsel (f : LaneFields) (s : State) : Outcome := 
  plainWord 0x19 f 1 (fun w i => noFlags (if w.q f.c.toNat i then w.a i else w.b i)) s

/-- VMOV (R424). -/
def execVmov (f : LaneFields) (s : State) : Outcome := lane1 0x1A f (fun a => a) s

/-- VIMM (R424). -/
def execVimm (f : LaneFields) (s : State) : Outcome := plainWord 0x1B f 1 (fun _ _ => noFlags f.imm) s

/-- VLID (R424). -/
def execVlid (f : LaneFields) (s : State) : Outcome := plainWord 0x1C f 1 (fun _ i => noFlags (BitVec.ofNat 32 i)) s

/-- VTOK (R424): one data token is popped, whatever the mask. -/
def execVtok (f : LaneFields) (s : State) : Outcome :=
  laneWord 0x1D f 1 (some 3) (fun w t =>
    let p : Word := match t with | some t => t.payload | none => 0
    .ok (perLane w fun _ => noFlags (if f.imm = 0 then p.extractLsb' 0 32 else p.extractLsb' 32 32))) s

end Sys2Proof.Machine
end

