-- ==== Sys2Proof/Machine/LaneFloat.lean ====
section
/-!
DEFINITION. Floating-point lane words (R425 to R427).
-/
namespace Sys2Proof.Machine

/-- A register's value in format `fmt`, read under the section's mode (R250). -/
def LaneView.val (w : LaneView) (fmt : Nat) (x : Lane) : FVal := inputF fmt w.full x.toNat

def imageF (y : Nat × LFlags) : Lane × LFlags := (imageOfNat y.1, y.2)

/-- d := round(g(a, b)) in the word's format. -/
def fround2 (op : Nat) (f : LaneFields) (g : Nat → Rnd → FVal → FVal → Nat × LFlags) (s : State) : Outcome :=
  let fmt := f.f1.toNat
  roundWord op f (fun w i => imageF (g fmt (rndOf w i) (w.val fmt (w.a i)) (w.val fmt (w.b i)))) s

/-- FADD (R425). -/
def execFadd (f : LaneFields) (s : State) : Outcome := fround2 0x20 f addF s

/-- FSUB (R425). -/
def execFsub (f : LaneFields) (s : State) : Outcome := fround2 0x21 f (fun fmt r a b => addF fmt r a (fNeg b)) s

/-- FMUL (R425). -/
def execFmul (f : LaneFields) (s : State) : Outcome := fround2 0x22 f mulF s

/-- FDIV (R425). -/
def execFdiv (f : LaneFields) (s : State) : Outcome := fround2 0x28 f divF s

/-- FFMA (R425). -/
def execFfma (f : LaneFields) (s : State) : Outcome :=
  let fmt := f.f1.toNat
  roundWord 0x23 f (fun w i => imageF (fmaF fmt (rndOf w i) (w.val fmt (w.a i)) (w.val fmt (w.b i)) (w.val fmt (w.c i)))) s

/-- FSQRT (R425). -/
def execFsqrt (f : LaneFields) (s : State) : Outcome :=
  let fmt := f.f1.toNat
  roundWord 0x29 f (fun w i => imageF (sqrtF fmt (rndOf w i) (w.val fmt (w.a i)))) s

/-- FMIN (R425). -/
def execFmin (f : LaneFields) (s : State) : Outcome :=
  plainWord 0x24 f 2 (fun w i => noFlags (imageOfNat (minmaxF f.f1.toNat w.full false (w.a i).toNat (w.b i).toNat))) s

/-- FMAX (R425). -/
def execFmax (f : LaneFields) (s : State) : Outcome :=
  plainWord 0x25 f 2 (fun w i => noFlags (imageOfNat (minmaxF f.f1.toNat w.full true (w.a i).toNat (w.b i).toNat))) s

/-- The sign bit of an encoding. -/
def signOf (fmt : Nat) (x : Lane) : Bool := x.getLsbD (signBit fmt)

/-- An encoding with its subnormals read as zeros in a flush-mode section (R250). -/
def flushEnc (fmt : Nat) (full : Bool) (x : Lane) : Nat :=
  let bits := x.toNat % 2 ^ fmtBits fmt
  if (inputF fmt full bits).isZero then withSign fmt (signOf fmt x) 0 else bits

/-- R425: a's magnitude with the sign chosen by imm; a NaN a gives the canonical NaN. -/
def fsgnF (fmt : Nat) (full : Bool) (imm : Nat) (a b : Lane) : Nat :=
  if isNan (inputF fmt full (a.toNat % 2 ^ fmtBits fmt)) then nanEnc fmt
  else
    let sgn := match imm with | 0 => signOf fmt b | 1 => !signOf fmt b | _ => signOf fmt a != signOf fmt b
    withSign fmt sgn (flushEnc fmt full a % 2 ^ signBit fmt)

/-- FSGN (R425). -/
def execFsgn (f : LaneFields) (s : State) : Outcome :=
  plainWord 0x26 f 2 (fun w i => noFlags (imageOfNat (fsgnF f.f1.toNat w.full w.imm (w.a i) (w.b i)))) s

/-- R425: the conditions of FCMP; beside a NaN only ne and unordered hold. -/
def floatCond (cond : Nat) (a b : FVal) : Bool :=
  let un := isNan a || isNan b
  match cond with
  | 0 => fEq a b
  | 1 => un || !fEq a b
  | 2 => fLt a b
  | 3 => !un && (fLt a b || fEq a b)
  | 4 => fLt b a
  | 5 => !un && (fLt b a || fEq a b)
  | 6 => un
  | _ => !un

/-- FCMP (R425). -/
def execFcmp (f : LaneFields) (s : State) : Outcome :=
  let fmt := f.f1.toNat
  compareWord 0x27 f 2 (fun w i => floatCond w.imm (w.val fmt (w.a i)) (w.val fmt (w.b i))) s

/-- FSPEC (R426). -/
def execFspec (f : LaneFields) (s : State) : Outcome :=
  plainWord 0x2A f 2 (fun w i => imageF (fspec f.f1.toNat w.imm w.full w.x.ovt ((w.a i).toNat % 2 ^ fmtBits f.f1.toNat))) s

/-- FDOT2 (R427). -/
def execFdot2 (f : LaneFields) (s : State) : Outcome :=
  let src := f.f2.toNat
  let el := fun (w : LaneView) (x : Lane) k => w.val src (x.extractLsb' (16 * k) 16 |>.setWidth 32)
  roundWord 0x2B f (fun w i =>
    imageF (dot2F 0 (rndOf w i) (el w (w.a i) 0) (el w (w.b i) 0) (el w (w.a i) 1) (el w (w.b i) 1) (w.val 0 (w.c i)))) s

/-- R427: the class bit of an encoding, read with no flush. -/
def fclassBit (fmt : Nat) (bits : Nat) : Nat :=
  match decodeF fmt bits with
  | .nan => 8
  | .inf neg => if neg then 0 else 7
  | .fin neg m _ =>
    if m = 0 then (if neg then 3 else 4)
    else if m < 2 ^ fracBits fmt then (if neg then 2 else 5)
    else (if neg then 1 else 6)

/-- FCLASS (R427). -/
def execFclass (f : LaneFields) (s : State) : Outcome :=
  plainWord 0x2C f 2 (fun w i => noFlags (1 <<< fclassBit f.f1.toNat ((w.a i).toNat % 2 ^ fmtBits f.f1.toNat))) s

end Sys2Proof.Machine
end

