-- ==== Sys2Proof/Machine/LaneQuant.lean ====
section
/-!
DEFINITION. Conversions, quantising and block words (R428 to R432).
-/
namespace Sys2Proof.Machine

/-- R428: with sat set an overflow of a floating-point destination gives the largest finite value (choice 0 of R247). -/
def satRnd (sat : Bool) (r : Rnd) : Rnd := if sat then { r with ovt := 0 } else r

/-- VCVT (R428). -/
def execVcvt (f : LaneFields) (s : State) : Outcome :=
  roundWord 0x30 f (fun w i => convert f.f1.toNat (satRnd f.sat (rndOf w i)) (readImage f.f2.toNat w.full (w.a i))) s

/-- R428: a value rounded to an integral value of its format. -/
def roundIntegral (fmt : Nat) (r : Rnd) : FVal → Nat × LFlags
  | .nan => (nanEnc fmt, 0)
  | .inf neg => (withSign fmt neg (infEnc fmt), 0)
  | .fin neg m e =>
    let p := scale2 m 1 e
    (withSign fmt neg (encodeMag fmt (roundInt r.mode r.u neg p.1 p.2) 0), if p.1 % p.2 = 0 then 0 else flNX)

/-- VRND (R428). -/
def execVrnd (f : LaneFields) (s : State) : Outcome :=
  let fmt := f.f1.toNat
  roundWord 0x36 f (fun w i => imageF (roundIntegral fmt (rndOf w i) (w.val fmt (w.a i)))) s

/-- VQNT (R254, R429). -/
def execVqnt (f : LaneFields) (s : State) : Outcome :=
  roundWord 0x31 f (fun w i => vqnt f.f1.toNat (rndOf w i) (w.a i).toNat (w.b i).toNat) s

/-- VDQNT (R429): value × scale, rounded once to FP32 in RNE. -/
def execVdqnt (f : LaneFields) (s : State) : Outcome :=
  plainWord 0x32 f 2 (fun w i =>
    imageF (mulF 0 { mode := 0, u := 0, full := w.full, ovt := w.x.ovt } (readImage f.f1.toNat w.full (w.a i)) (w.val 0 (w.b i)))) s

/-! ## Block words (R430 to R432) -/

/-- VBSCALE (R256, R430). -/
def execVbscale (f : LaneFields) (s : State) : Outcome :=
  plainWord 0x33 f 2 (fun w i =>
    let b := blockScales f.f1.toNat w.full ((List.range 32).map fun j => (w.a (i / 32 * 32 + j)).toNat)
    (imageOfNat b.1, nvIf b.2)) s

/-- R431: the element of an FP32 value under a scale word. -/
def packElem (f mode u : Nat) (full : Bool) (x sw : Nat) : Nat × LFlags :=
  let s0 := sw % 65536
  let s1 := sw / 65536
  let v := inputF 0 full x
  if !legalScale s0 || !legalScale s1 || isNan v then (0, flNV)
  else
    let enc := fun (neg : Bool) (m : Nat) (e : Int) =>
      let sel := if fitsSmall f m e s0 then 0 else 1
      let sc := scaleVal (if sel = 0 then s0 else s1)
      encodeElem f mode u sel neg m sc.1 (e - sc.2)
    match v with
    | .nan => (0, flNV)
    | .inf neg => let y := enc neg 0xFFFFFF 104; (y.1, y.2 ||| flSAT)
    | .fin neg m e => enc neg m e

/-- Element j of a pack word, under generator state g (already advanced). -/
def packLane (w : LaneView) (j : Nat) (g : BitVec 32) : Nat × LFlags :=
  packElem w.f.f1.toNat w.f.rnd.toNat (genDraw g) w.full (w.a j).toNat (w.b j).toNat

/-- R431: what lane i receives: for DB4 lane i of the lower half packs elements 2i and 2i + 1. -/
def packOut (w : LaneView) (i : Nat) : Lane × LFlags :=
  let g1 := genStep (genOf w.x i)
  let keep := (w.c i).extractLsb' 8 24
  if w.f.f1.toNat = fmtDB8 then
    let e := packLane w i g1
    (keep ++ BitVec.ofNat 8 e.1, e.2)
  else if i < 32 then
    let e0 := packLane w (2 * i) g1
    let e1 := packLane w (2 * i + 1) (genStep g1)
    (keep ++ BitVec.ofNat 8 (e1.1 % 16 * 16 + e0.1 % 16), e0.2 ||| e1.2)
  else (w.c i, 0)

/-- R431: the generators of the lanes that encode, advanced once for each element in SR. -/
def packGens (w : LaneView) : List (Nat × BitVec 32) :=
  if w.f.rnd.toNat ≠ 5 then []
  else if w.f.f1.toNat = fmtDB8 then rndGens w w.active
  else (w.active.filter fun i => decide (i < 32)).map fun i => (i, genStep (genStep (genOf w.x i)))

/-- VBPACK (R431). -/
def execVbpack (f : LaneFields) (s : State) : Outcome :=
  laneWord 0x34 f 2 none (fun w _ => .ok { perLane w (packOut w) with gens := packGens w }) s

/-- VBUNPK (R432): the decoded value, which both modes keep (R250); one above FP32's largest overflows (R247). -/
def execVbunpk (f : LaneFields) (s : State) : Outcome :=
  plainWord 0x35 f 2 (fun w i =>
    let fmt := f.f1.toNat
    let el := if fmt = fmtDB8 then (w.a i).toNat % 256 else (w.a (i / 2)).toNat / (if i % 2 = 0 then 1 else 16) % 16
    match elemValue fmt el ((w.b i).toNat % 65536) ((w.b i).toNat / 65536) with
    | some v => imageF (roundVal 0 (rneFull w.x.ovt) v)
    | none => (imageOfNat (nanEnc 0), flNV)) s

end Sys2Proof.Machine
end

