-- ==== Sys2Proof/Machine/LaneCross.lean ====
section
/-!
DEFINITION. Cross-lane words (R433 to R435).
-/
namespace Sys2Proof.Machine

/-- d_i := a of another lane, whatever that lane's mask. -/
def permWord (op : Nat) (f : LaneFields) (src : LaneView → Nat → Nat) (s : State) : Outcome :=
  plainWord op f 1 (fun w i => noFlags (w.a (src w i))) s

/-- VPERM (R433). -/
def execVperm (f : LaneFields) (s : State) : Outcome := permWord 0x40 f (fun w i => (w.b i).toNat % 64) s

/-- VROT (R433). -/
def execVrot (f : LaneFields) (s : State) : Outcome := permWord 0x41 f (fun w i => (i + w.imm) % 64) s

/-- VSHUF (R433). -/
def execVshuf (f : LaneFields) (s : State) : Outcome := permWord 0x42 f (fun w i => (i ^^^ w.imm) % 64) s

/-- VBCAST (R433). -/
def execVbcast (f : LaneFields) (s : State) : Outcome := permWord 0x43 f (fun w _ => w.imm % 64) s

/-- R434: the identity of an operation in INT32 or FP32. -/
def redIdentity (isF : Bool) (op : Nat) : Lane :=
  if isF then (match op with | 0 => 0x80000000 | 1 => 0x7F800000 | _ => 0xFF800000)
  else (match op with | 0 => 0 | 1 => 0x7FFFFFFF | 2 => 0x80000000 | 3 => 0xFFFFFFFF | _ => 0)

/-- R434: the operation, with the flags an FP32 addition raises. -/
def redOp (w : LaneView) (x y : Lane) : Lane × LFlags :=
  if w.f.f1 = 0 then
    match w.imm with
    | 0 => imageF (addF 0 { mode := 0, u := 0, full := w.full, ovt := w.x.ovt } (w.val 0 x) (w.val 0 y))
    | 1 => noFlags (imageOfNat (minmaxF 0 w.full false x.toNat y.toNat))
    | _ => noFlags (imageOfNat (minmaxF 0 w.full true x.toNat y.toNat))
  else
    noFlags (match w.imm with
      | 0 => x + y
      | 1 => if x.sle y then x else y
      | 2 => if y.sle x then x else y
      | 3 => x &&& y
      | 4 => x ||| y
      | _ => x ^^^ y)

/-- One level of the pairwise tree of R232. -/
def pairLevel (w : LaneView) : List Lane → List Lane × LFlags
  | x :: y :: r =>
    let z := redOp w x y
    let t := pairLevel w r
    (z.1 :: t.1, z.2 ||| t.2)
  | l => (l, 0)

def pairTree (w : LaneView) : Nat → List Lane → List Lane × LFlags
  | 0, l => (l, 0)
  | n + 1, l =>
    let a := pairLevel w l
    let b := pairTree w n a.1
    (b.1, a.2 ||| b.2)

/-- One level of the scan: y_i := y_(i−d) op y_i for every i ≥ d at once. -/
def scanLevel (w : LaneView) (d : Nat) (l : List Lane) : List Lane × LFlags :=
  let z := (l.drop d).zipWith (fun y x => redOp w x y) l
  (l.take d ++ z.map (·.1), z.foldl (fun m e => m ||| e.2) 0)

def scanAll (w : LaneView) : Nat → Nat → List Lane → List Lane × LFlags
  | 0, _, l => (l, 0)
  | n + 1, d, l =>
    let a := scanLevel w d l
    let b := scanAll w n (2 * d) a.1
    (b.1, a.2 ||| b.2)

def redInputs (w : LaneView) : List Lane :=
  (List.range 64).map fun i => if w.mask.getLsbD i then w.a i else redIdentity (w.f.f1 == 0) w.imm

/-- VRED (R232, R434). -/
def execVred (f : LaneFields) (s : State) : Outcome :=
  laneWord 0x44 f 1 none (fun w _ =>
    let y := pairTree w 6 (redInputs w)
    .ok (perLane w fun _ => (y.1.headD 0, y.2))) s

/-- VSCAN (R434). -/
def execVscan (f : LaneFields) (s : State) : Outcome :=
  laneWord 0x45 f 1 none (fun w _ =>
    let y := scanAll w 6 1 (redInputs w)
    .ok (perLane w fun i => (y.1.getD i 0, y.2))) s

/-- VIDXR (R435). -/
def execVidxr (f : LaneFields) (s : State) : Outcome :=
  plainWord 0x46 f 1 (fun w i => noFlags (w.reg ((w.a i).toNat % 64) ((w.b i).toNat % 256))) s

/-- VIDXW (R435): of two active lanes that name one target the higher prevails. -/
def execVidxw (f : LaneFields) (s : State) : Outcome :=
  laneWord 0x47 f 1 none (fun w _ =>
    .ok { writes := w.active.map fun i => ((w.a i).toNat % 64, (w.b i).toNat % 256, w.reg i (w.dIndex i)) }) s

end Sys2Proof.Machine
end

