-- ==== Sys2Proof/Machine/LaneMem.lean ====
section
/-!
DEFINITION. The lanes' scratchpad words (R436 to R439).
-/
namespace Sys2Proof.Machine

/-- R436: the width and offset of the immediate. -/
def rowWidth (imm : BitVec 32) : Nat := match (imm.extractLsb' 20 2).toNat with | 0 => 4 | 1 => 2 | _ => 1
def rowAddr (w : LaneView) : Nat := ((w.a 0).toNat + w.f.imm.toNat % 2 ^ 20) % 2 ^ 20

/-- R439: the first check that fails over the active lanes' (address, reported address) pairs of width n. Of several lanes that fail it the lowest one's address is
reported (DESIGN CHOICE, log 105). -/
def laneChecks (s : State) (c n : Nat) (l : List (Nat × Nat)) : Option (Nat × Word) :=
  let lim := 4096 * (ctxAt s c).gran.length
  match l.find? fun e => decide (e.2 % n ≠ 0) with
  | some e => some (0x17, BitVec.ofNat 64 e.2)
  | none =>
    match l.find? fun e => decide (lim < e.1 + n) with
    | some e => some (0x20, BitVec.ofNat 64 e.2)
    | none =>
      match l.find? fun e => decide (granuleOwner s c (e.1 / 4096) ≠ 0) with
      | some e => some (0x20, BitVec.ofNat 64 e.2)
      | none => none

/-- R416: a byte with a lane store in flight reads as a free value. -/
def laneByte (s : State) (c a : Nat) : Byte :=
  let l := (ctxAt s c).lanes
  if inFlight l l.memhz a then (freeAt s (262144 + a)).setWidth 8 else scratchByte s c a

def laneRead (s : State) (c a n : Nat) : Nat := leNat ((List.range n).map fun k => laneByte s c (a + k))

/-- R437: zero- or sign-extension to 32 bits. -/
def extendRow (sx : Bool) (n x : Nat) : Lane :=
  if sx && n == 1 then (BitVec.ofNat 8 x).signExtend 32
  else if sx && n == 2 then (BitVec.ofNat 16 x).signExtend 32
  else BitVec.ofNat 32 x

def storeBytes (a n : Nat) (v : Lane) : List (Nat × Byte) := (natLe n v.toNat).zipIdx.map fun e => (a + e.2, e.1)

/-- A row load: lane i reads n bytes at `at' i`. -/
def rowLoad (op : Nat) (f : LaneFields) (step : Nat) (s : State) : Outcome :=
  laneWord op f 3 none (fun w _ =>
    let n := rowWidth f.imm
    let addr := fun i => rowAddr w + step * n * i
    match laneChecks s s.run.cur n (w.active.map fun i => (addr i, addr i)) with
    | some e => .error e
    | none => .ok (perLane w fun i => noFlags (extendRow (f.imm.getLsbD 22) n (laneRead s s.run.cur (addr i) n)))) s

/-- VLD (R437). -/
def execVld (f : LaneFields) (s : State) : Outcome := rowLoad 0x50 f 1 s

/-- VLDBC (R437). -/
def execVldbc (f : LaneFields) (s : State) : Outcome := rowLoad 0x54 f 0 s

/-- A row store: the k-th active lane i writes n bytes at place `place k i`. -/
def rowStore (op : Nat) (f : LaneFields) (place : Nat → Nat → Nat) (s : State) : Outcome :=
  laneWord op f 3 none (fun w _ =>
    let n := rowWidth f.imm
    let l := w.active.zipIdx.map fun e => (e.1, rowAddr w + n * place e.2 e.1)
    match laneChecks s s.run.cur n (l.map fun e => (e.2, e.2)) with
    | some e => .error e
    | none => .ok { stores := l.flatMap fun e => storeBytes e.2 n (w.b e.1) }) s

/-- VST (R437). -/
def execVst (f : LaneFields) (s : State) : Outcome := rowStore 0x51 f (fun _ i => i) s

/-- VSTP (R437): compacted by the active lanes below. -/
def execVstp (f : LaneFields) (s : State) : Outcome := rowStore 0x55 f (fun k _ => k) s

/-- R185: the scratchpad address of column offset o of lane i. -/
def columnAddr (i o : Nat) : Nat := o / 64 * 4096 + (4 * i + o / 16 % 4) % 256 * 16 + o % 16

/-- VLDG (R438). -/
def execVldg (f : LaneFields) (s : State) : Outcome :=
  laneWord 0x52 f 3 none (fun w _ =>
    let o := fun i => (w.a i).toNat
    match laneChecks s s.run.cur 4 (w.active.map fun i => (columnAddr i (o i), o i)) with
    | some e => .error e
    | none => .ok (perLane w fun i => noFlags (BitVec.ofNat 32 (laneRead s s.run.cur (columnAddr i (o i)) 4)))) s

/-- VSTX (R438). -/
def execVstx (f : LaneFields) (s : State) : Outcome :=
  laneWord 0x53 f 3 none (fun w _ =>
    let o := fun i => (w.a i).toNat
    match laneChecks s s.run.cur 4 (w.active.map fun i => (columnAddr i (o i), o i)) with
    | some e => .error e
    | none => .ok { stores := w.active.flatMap fun i => storeBytes (columnAddr i (o i)) 4 (w.b i) }) s

end Sys2Proof.Machine
end

