-- ==== Sys2Proof/Machine/LaneMask.lean ====
section
/-!
DEFINITION. The mask stack (R440) and the remaining lane words (R441).
-/
namespace Sys2Proof.Machine

/-- R440: a mask-stack word: the new stack, or none where it faults with 0x22. -/
def maskWord (op : Nat) (f : LaneFields) (need : Option Nat) (g : LaneView → Word → Option (List (BitVec 64))) (s : State) : Outcome :=
  laneWord op f 1 need (fun w t =>
    match g w (match t with | some t => t.payload | none => 0) with
    | some m => .ok { masks := some m }
    | none => .error (0x22, 0)) s

/-- The pushed stack, unless it holds eight entries. -/
def pushMask (w : LaneView) (m : BitVec 64) : Option (List (BitVec 64)) :=
  if 8 ≤ w.x.lanes.masks.length then none else some ((topMask w.x.lanes &&& m) :: w.x.lanes.masks)

/-- MPUSH (R193, R440). With eight entries on the stack, a token of another kind is found first, and a full stack before an empty queue (DESIGN CHOICE, log 105). -/
def execMpush (f : LaneFields) (s : State) : Outcome := maskWord 0x60 f (some 0) (fun w p => pushMask w p) s

/-- MPUSHQ (R440). -/
def execMpushq (f : LaneFields) (s : State) : Outcome :=
  maskWord 0x61 f none (fun w _ => pushMask w (maskOf (w.q f.a.toNat))) s

/-- MINV (R440). -/
def execMinv (f : LaneFields) (s : State) : Outcome :=
  maskWord 0x62 f none (fun w _ =>
    match w.x.lanes.masks with
    | t :: u :: r => some ((u &&& ~~~t) :: u :: r)
    | _ => none) s

/-- MPOP (R440). -/
def execMpop (f : LaneFields) (s : State) : Outcome :=
  maskWord 0x63 f none (fun w _ =>
    match w.x.lanes.masks with
    | _ :: u :: r => some (u :: r)
    | _ => none) s

/-- MTOQ (R440): every bit of qd. -/
def execMtoq (f : LaneFields) (s : State) : Outcome :=
  laneWord 0x64 f 1 none (fun w _ =>
    .ok { qbits := (List.range 64).map fun i => (f.d.toNat, i, (topMask w.x.lanes).getLsbD i) }) s

/-- MCLR (R440). -/
def execMclr (f : LaneFields) (s : State) : Outcome :=
  maskWord 0x65 f none (fun w _ => some (w.x.lanes.masks.drop (w.x.lanes.masks.length - 1))) s

/-- VNOP (R441): one issue cycle. -/
def execVnop (f : LaneFields) (s : State) : Outcome := laneWord 0x70 f 1 none (fun _ _ => .ok {}) s

/-- VSEED (R245, R441). -/
def execVseed (f : LaneFields) (s : State) : Outcome :=
  laneWord 0x71 f 1 none (fun w _ => .ok { gens := w.active.map fun i => (i, if w.a i = 0 then 1 else w.a i) }) s

/-- VSTAT (R441): reads LST or the generator; which flags of words still in flight it includes is free. imm 1 clears LST in the active
lanes; a flag that lands later stays set. -/
def execVstat (f : LaneFields) (s : State) : Outcome :=
  let c := s.run.cur
  let l := (ctxAt s c).lanes
  let pick := fun k => (freeAt s (524288 + k)).getLsbD 0
  let s1 := if f.imm.toNat < 2 ∧ !l.flying.isEmpty then useFree (modCtx s c fun x => { x with lanes := settleSome x.lanes pick }) else s
  let lst := (ctxAt s1 c).lanes.lst
  laneWord 0x72 f 1 none (fun w _ =>
    .ok { perLane w (fun i => noFlags (if f.imm = 2 then genOf w.x i else (mget lst i 0).setWidth 32)) with
          clearLst := if f.imm = 1 then w.active else [] }) s1

end Sys2Proof.Machine
end

