-- ==== Sys2Proof/Machine/Registers.lean ====
section
/-!
DEFINITION. The host's register accesses (R3, R4, R19, R32): the registers of function 0's BAR0 and BAR2 and of a virtual function's BAR0.
-/
namespace Sys2Proof.Machine

/-- The state an event's meaning gives. -/
def after (s : State) : Outcome → State
  | .next t => t
  | _ => s

/-- The same event with another argument. -/
def withArg (s : State) (a : EventArg) : State := { s with run := { s.run with arg := a } }

def bitAt (b : Bool) (i : Nat) : Nat := if b then 2 ^ i else 0

/-- The 8 bytes at an offset of a list of bytes. -/
def wordAtByte (b : List Byte) (off : Nat) : Nat := fieldAt b off 8

/-- The word at an offset of eight records of 32 bytes. -/
def recordWord (m : SMap (List Byte)) (off : Nat) : Nat := wordAtByte (mget m (off / 32) []) (off % 32)

/-! ## Reads -/

/-- R28. -/
def svcreq (s : State) : Nat := svcBits s.mgmt * 256 + bitAt s.mgmt.pend 0

/-- R44. -/
def dlkStat (s : State) (p : Nat) : Nat :=
  let x := portAt s p
  x.crcerr * 2 ^ 32 + x.replays * 2 ^ 24 + x.lanes * 2 ^ 16 + x.peer * 2 ^ 13 + x.state * 64 + min x.sparesTx x.sparesRx * 2 + bitAt x.chg 0

def contractBytes (s : State) (v : Nat) : List Byte :=
  match mfind s.contracts.inForce v with | some c => c.bytes | none => List.replicate 64 0

/-- R127: a window record's bytes in FT_VIEW. Of an accepted record with VALID 0, which R127 ignores, the spec does not say what FT_VIEW shows: its START, LEN, CORES,
OWNER and SHARED, its other bits and bytes as 0 (DESIGN CHOICE, log 99). -/
def windowBytes (w : Window) : List Byte :=
  natLe 4 w.start ++ natLe 4 w.len ++ natLe 12 w.cores.toNat ++ natLe 1 (w.owner + bitAt w.shared 7) ++ natLe 1 (bitAt w.valid 0) ++ natLe 10 0

/-- R167, R172, R174, R177, R274: cluster registers. -/
def clusterReg (s : State) (k off : Nat) : Nat :=
  let p := clusterAt s k
  match off with
  | 0x00 => (p.vl - 300) / 10 * 2 ^ 32 + (p.vc - 400) / 5 * 2 ^ 24 + p.freq * 2 ^ 16 + bitAt p.wa 11 + thermalCap s p * 256 + p.level
  | 0x08 => p.alarms.toNat * 2 ^ 32 + p.ddtThr
  | 0x10 => p.bal.toNat * 2 ^ 32 + p.slope
  | 0x18 =>
    p.dcnt.toNat * 2 ^ 32 + (p.vl3 - 300) / 10 * 2 ^ 24 + (p.vl2 - 300) / 10 * 2 ^ 16 + (p.vl1 - 300) / 10 * 256 + (vlFloor s - 300) / 10 * 32 + targetLevel s k
  | 0x28 => p.gcode * 256 + p.gstate
  | _ => 0

/-- R151: a bucket's registers. -/
def bucketReg (s : State) (off : Nat) : Nat :=
  let b := bucketAt s (off / 0x100000) (off % 0x100000 / 0x800) (off % 0x800 / 0x40)
  if off % 0x100000 / 0x800 < 80 ∧ off % 0x800 / 0x40 ≤ 16 then
    match off % 0x40 with
    | 0x00 => b.rate
    | 0x08 => b.depth
    | 0x10 => b.level
    | 0x18 => b.exh * 256 + bitAt b.trapped 2 + b.mode
    | _ => 0
  else 0

/-- R209, R271. -/
def coreReg (s : State) (c off : Nat) : Nat :=
  let k := coreAt s c
  match off with
  | 0x00 => k.site * 4096 + bitAt k.absent 7 + bitAt k.frozen 6 + bitAt ((ctxAt s (2 * c + 1)).phase != .empty) 5 + bitAt ((ctxAt s (2 * c)).phase != .empty) 4
  | 0x08 => k.errlo.toNat
  | _ => 0

/-- R81, R82: the control registers of VNPU v, and its records. -/
def vnpuReg (s : State) (v off : Nat) : Nat :=
  let x := vnpuAt s v
  let b := contractBytes s v
  if off = 0x00 then v * 2 ^ 24 + fieldAt b 1 1 * 64 + bitAt (nbits (fieldAt b 2 1) 7 7 == 1) 5 + fieldAt b 2 1 % 4 * 4 + bitAt x.chg 0
  else if off = 0x08 then x.eused
  else if off = 0x10 then x.errlo.toNat
  else if off = 0x18 then x.tfcnt
  else if off = 0x20 then x.mpcnt
  else if off = 0x28 then x.mccnt
  else if 0x40 ≤ off ∧ off < 0x80 then wordAtByte b (off - 0x40)
  else if 0x100 ≤ off ∧ off < 0x200 then recordWord x.tf (off - 0x100)
  else if 0x200 ≤ off ∧ off < 0x300 then recordWord x.mp (off - 0x200)
  else if 0x300 ≤ off ∧ off < 0x400 then recordWord x.mc (off - 0x300)
  else 0

/-- R98: ring registers. -/
def ringReg (s : State) (v r off : Nat) : Nat :=
  let x := ringAt s v r
  match off with
  | 0x00 => x.base.toNat
  | 0x08 => bitAt x.en 8 + x.size
  | 0x10 => x.tail.toNat
  | 0x18 => x.head.toNat
  | 0x20 => x.unit.toNat * 2 ^ 32 + x.fcause * 2 ^ 24 + x.eseq * 2 ^ 16 + x.code * 256 + bitAt x.stop 0
  | _ => 0

/-- R106: logical-queue registers. -/
def queueReg (s : State) (v q off : Nat) : Nat :=
  let x := queueAt s v q
  match off with
  | 0x00 => x.prio * 256 + bitAt x.en 0
  | 0x08 => x.rmask.toNat
  | 0x10 => bitAt x.cfgerr 2 + bitAt x.done 1 + bitAt x.busy 0
  | _ => 0

/-- A read of function 0's BAR0 below the token buckets. -/
def mgmtReg (s : State) (off : Nat) : Nat :=
  let m := s.mgmt
  match off with
  | 0x00 => svcreq s
  | 0x10 => wbits m.winbase 45 32 * 2 ^ 32
  | 0x18 => (fwstat s).toNat
  | 0x20 => m.modcfg.toNat
  | 0x28 => dlkStat s 0
  | 0x30 => dlkStat s 1
  | 0x38 => m.degr.toNat * 2 ^ 16 + m.reroute.toNat * 256 + bitAt m.d2dChg 0
  | 0x48 => m.migStatus * 2 + bitAt m.migDone 0
  | _ => 0

def stageReg (s : State) (off : Nat) : Nat :=
  let c := s.contracts
  let f := s.frame
  if off < 0x100040 then readLe c.record (off - 0x100000) 8
  else if off = 0x100048 then c.vnpu * 2 ^ 24 + c.code * 2 ^ 16 + bitAt c.done 1 + bitAt c.busy 0
  else if off = 0x100050 then emaxNow s
  else if 0x101000 ≤ off ∧ off < 0x101440 then wordAtByte (contractBytes s ((off - 0x101000) / 64)) (off % 64)
  else if 0x102000 ≤ off ∧ off < 0x102400 then readLe f.table (off - 0x102000) 8
  else if off = 0x102400 then f.frame
  else if off = 0x102410 then f.code * 2 ^ 16 + f.win * 256 + bitAt f.done 1 + bitAt f.busy 0
  else if off = 0x102418 then f.frames.toNat * 2 ^ 32 + f.tick.toNat
  else if 0x103000 ≤ off ∧ off < 0x103400 then
    (match f.view[(off - 0x103000) / 32]? with | some w => wordAtByte (windowBytes w) (off % 32) | none => 0)
  else if off = 0x103400 then f.len
  else 0

def powerReg (s : State) (off : Nat) : Nat :=
  if off = 0x30A108 then bitAt s.xlate.tiDone 1 + bitAt s.xlate.tiBusy 0
  else if off = 0x30A200 then s.xlate.pfqBase.toNat
  else if off = 0x30A208 then s.xlate.pfqHead.toNat
  else if off = 0x30A210 then s.xlate.pfqTail.toNat
  else if off = 0x30A300 then s.xlate.rsBase / 2 ^ 24 * 2 ^ 24 + s.xlate.rsN * 16 + bitAt s.xlate.rsEn 0
  else if off < 0x30C000 then clusterReg s ((off - 0x300000) / 0x1000) (off % 0x1000)
  else if 0x30D000 ≤ off ∧ off < 0x30D088 then (vnpuAt s ((off - 0x30D000) / 8)).budEvt.toNat
  else if 0x30D100 ≤ off ∧ off < 0x30D188 then (vnpuAt s ((off - 0x30D100) / 8)).eovr.toNat
  else if 0x30E000 ≤ off ∧ off < 0x30E070 then weight s ((off - 0x30E000) / 8)
  else if off = 0x30F000 then s.pwrCap
  else 0

/-- A read of function 0's BAR0. R229 does not say what SL_OCC counts of a logical slice that is homed on its neighbour (R21): the lines of the slice that serves it,
the neighbour's own among them (DESIGN CHOICE, log 101). -/
def bar0Read (s : State) (off : Nat) : Nat :=
  if off % 8 ≠ 0 then 0
  else if off < 0x100000 then mgmtReg s off
  else if off < 0x200000 then stageReg s off
  else if off < 0x300000 then
    (if off < 0x201100 ∧ off % 0x100 < 0x60 ∧ off % 0x20 < 0x18 then (tdReg s ((off - 0x200000) / 0x100) (off % 0x100 / 0x20) (off % 0x20 / 8)).toNat else 0)
  else if off < 0x310000 then powerReg s off
  else if off < 0x320000 then (if off < 0x311800 then coreReg s ((off - 0x310000) / 0x40) (off % 0x40) else 0)
  else if off < 0x330000 then
    (if off < 0x326000 ∧ off % 0x100 < 0x88 then linesOwned s (servingSlice s ((off - 0x320000) / 0x100)) (off % 0x100 / 8) else 0)
  else if off < 0x340000 then (if 0x330018 ≤ off ∧ off < 0x330400 then vnpuReg s 0 (off - 0x330000) else 0)
  else if 0x400000 ≤ off ∧ off < 0x600000 then bucketReg s (off - 0x400000)
  else 0

/-- A read of a virtual function's BAR0. -/
def guestRead (s : State) (v off : Nat) : Nat :=
  if 0x80000 ≤ off ∧ off < 0x81000 then readLe (mget s.msix v []) (off - 0x80000) 8
  else if off % 8 ≠ 0 then 0
  else if off = 0x88000 then (mget s.pba v 0).toNat
  else if off < 0x40000 then ringReg s v (off / 0x1000) (off % 0x1000)
  else if off < 0x41000 then queueReg s v (off % 0x1000 / 0x100) (off % 0x100)
  else if 0x70000 ≤ off ∧ off < 0x70400 then vnpuReg s v (off - 0x70000)
  else 0

/-- R31, R63: the function exists for the host. -/
def fnExists (s : State) (fn : Nat) : Bool := fn == 0 || (decide (fn ≤ s.numVFs) && s.fw.mode != .recovery && s.fw.mode != .rom)

/-- R30: function 0's configuration space (BAR 7, log 23): TotalVFs, NumVFs, First VF Offset and VF Stride at their places of the SR-IOV capability, and the AER
uncorrectable error status (PRESUMED, log 66). -/
def configRead (s : State) (off : Nat) : Nat :=
  match off with
  | 0x0E => 16
  | 0x10 => s.numVFs
  | 0x14 => 1
  | 0x16 => 1
  | 0x104 => s.aer.toNat
  | _ => 0

/-- R30: a write of the configuration space: NumVFs up to TotalVFs, the error status cleared by ones. -/
def configWrite (s : State) (off : Nat) (w : Word) : State :=
  match off with
  | 0x10 => if w.toNat ≤ 16 then { s with numVFs := w.toNat } else s
  | 0x104 => { s with aer := s.aer &&& ~~~(w.setWidth 32) }
  | _ => s

/-- What a read returns (R3, R32). -/
def hostRead (s : State) (fn bar off : Nat) : Nat :=
  if !fnExists s fn then 0
  else if bar = 7 then (if fn = 0 then configRead s off else 0)
  else if bar = 2 then
    (if fn ≠ 0 then 0 else if off < 0x200 then readLe s.fw.mailbox off 8
     else if 0x800000 ≤ off ∧ off < 0x801000 then readLe (mget s.msix 0 []) (off - 0x800000) 8
     else if off = 0x808000 then (mget s.pba 0 0).toNat else 0)
  else if fn = 0 then bar0Read s off
  else guestRead s fn off

/-! ## Writes -/

/-- W1C of one bit: whether it stays. -/
def keepBit (b : Bool) (w : Word) (i : Nat) : Bool := b && !w.getLsbD i

/-- R98, R99. -/
def ringWrite (s : State) (v r off : Nat) (w : Word) : State :=
  match off with
  | 0x00 => modRing s v r fun x => if x.en then x else { x with base := w &&& 0xFFFFFFFFF000#64 }
  | 0x08 => if w.getLsbD 8 then (if (ringAt s v r).en then s else after s (execRingEnable v r w s)) else after s (execRingDisable v r w s)
  | 0x10 => after s (execTailWrite v r w s)
  | _ => s

/-- R106, R107, R124. -/
def queueWrite (s : State) (v q off : Nat) (w : Word) : State :=
  match off with
  | 0x00 =>
    if w.getLsbD 1 && !(queueAt s v q).busy then after s (execDestroy v q (modQueue s v q fun x => { x with prio := wbits w 12 8 }))
    else after s (execLqCtlEn v q w s)
  | 0x08 => after s (execLqRings v q w s)
  | 0x10 => modQueue s v q fun x => { x with cfgerr := keepBit x.cfgerr w 2, done := keepBit x.done w 1 }
  | _ => s

/-- R30, R32: a write of an MSI-X table; a vector that is pending and no longer masked is sent. -/
def msixWrite (s : State) (fn off n : Nat) (w : Word) : State :=
  sendPending { s with msix := mput s.msix fn (writeLe (mget s.msix fn []) off n (w.toNat % 2 ^ (8 * n))) } fn

/-- A write of a virtual function's BAR0. -/
def guestWrite (s : State) (v off n : Nat) (w : Word) : State :=
  if 0x80000 ≤ off ∧ off < 0x80400 then msixWrite s v (off - 0x80000) n w
  else if off % 8 ≠ 0 then s
  else if off < 0x40000 then ringWrite s v (off / 0x1000) (off % 0x1000) w
  else if off < 0x41000 then queueWrite s v (off % 0x1000 / 0x100) (off % 0x100) w
  else if off = 0x70000 then modVnpu s v fun x => { x with chg := keepBit x.chg w 0 }
  else s

/-- R214: writes of the table descriptors, and those the device ignores. -/
def tdWrite (s : State) (v z r : Nat) (w : Word) : State :=
  let legal := !tdEn w || decide (4 ≤ tdB w ∧ tdB w ≤ 28)
  let kept := w &&& 0x3FFFFFFFF09F#64
  match r with
  | 0 => if legal && !tdEn (tdReg s v z 1) then setTd s v z 0 kept else s
  | 1 => if legal && wbits (tdReg s v z 2) 31 0 == 0 then setTd s v z 1 kept else s
  | 2 => if wbits w 31 0 ≤ 2 ^ tdB (tdReg s v z 0) then setTd s v z 2 (w &&& 0xFFFFFFFF#64) else s
  | _ => after s (execTdCmtGo v z w s)

/-- R19, R28, R42, R44, R56. -/
def mgmtWrite (s : State) (off : Nat) (w : Word) : State :=
  let a := { noArg with value := w }
  match off with
  | 0x00 => modMgmt s fun m => { m with pend := keepBit m.pend w 0 }
  | 0x10 => modMgmt s fun m => { m with winbase := w &&& 0x3FFF00000000#64 }
  | 0x18 => modFw s fun f => { f with chg := keepBit f.chg w 0 }
  | 0x20 => after s (execModcfg (withArg s a))
  | 0x28 => modPort s 0 fun p => { p with chg := keepBit p.chg w 0 }
  | 0x30 => modPort s 1 fun p => { p with chg := keepBit p.chg w 0 }
  | 0x38 => modMgmt s fun m => { m with d2dChg := keepBit m.d2dChg w 0 }
  | 0x40 => after s (execMigreq (withArg s a))
  | 0x48 => modMgmt s fun m => { m with migDone := keepBit m.migDone w 0 }
  | _ => s

/-- R87, R88, R126. -/
def stageWrite (s : State) (off n : Nat) (w : Word) : State :=
  if off < 0x100040 then modContracts s fun c => { c with record := writeLe c.record (off - 0x100000) n (w.toNat % 2 ^ (8 * n)) }
  else if off = 0x100040 then (if w.getLsbD 0 then after s (execCtCtlGo s) else s)
  else if off = 0x100048 then modContracts s fun c => { c with done := keepBit c.done w 1 }
  else if 0x102000 ≤ off ∧ off < 0x102400 then modFrame s fun f => { f with table := writeLe f.table (off - 0x102000) n (w.toNat % 2 ^ (8 * n)) }
  else if off = 0x102400 then modFrame s fun f => { f with frame := wbits w 13 0 }
  else if off = 0x102408 then (if w.getLsbD 0 then after s (execFtCtlGo s) else s)
  else if off = 0x102410 then modFrame s fun f => { f with done := keepBit f.done w 1 }
  else s

/-- R166, R177, R221, R224. -/
def powerWrite (s : State) (off : Nat) (w : Word) : State :=
  if off = 0x30A100 then after s (execTiCtlGo w s)
  else if off = 0x30A108 then modXlate s fun t => { t with tiDone := keepBit t.tiDone w 1 }
  else if off = 0x30A200 then (if 8 < wbits w 3 0 then s else post (modXlate s fun t => { t with pfqBase := w &&& 0x3FFFFFFFF00F#64 }) .faultRecordPost)
  else if off = 0x30A208 then post (modXlate s fun t => { t with pfqHead := w.setWidth 32 }) .faultRecordPost
  else if off = 0x30A218 then after s (execPfAns w s)
  else if off < 0x30C000 then
    (match off % 0x1000 with
     | 0x20 => after s (execGate ((off - 0x300000) / 0x1000) w s)
     | 0x30 => after s (execWake ((off - 0x300000) / 0x1000) w s)
     | _ => s)
  else if off = 0x30F000 then (if 150 ≤ wbits w 8 0 ∧ wbits w 8 0 ≤ 420 then { s with pwrCap := wbits w 8 0 } else s)
  else s

/-- R63: in recovery only MGMT_RESET acts. -/
def bar0Write (s : State) (off n : Nat) (w : Word) : State :=
  if off = 0x08 then (if wbits w 31 0 = 0xC0DE then after s (execMgmtReset (withArg s noArg)) else s)
  else if s.fw.mode = .recovery ∨ s.fw.mode = .rom then s
  else if 0x100000 ≤ off ∧ off < 0x200000 then stageWrite s off n w
  else if off % 8 ≠ 0 then s
  else if off < 0x100000 then mgmtWrite s off w
  else if off < 0x300000 then
    (if off < 0x201100 ∧ off % 0x100 < 0x60 then tdWrite s ((off - 0x200000) / 0x100) (off % 0x100 / 0x20) (off % 0x20 / 8) w else s)
  else if off < 0x310000 then powerWrite s off w
  else s

/-- R67, R68: the mailbox's command area; 1 in DOORBELL submits the command. -/
def mailWrite (s : State) (off n : Nat) (w : Word) : State :=
  let v := w.toNat % 2 ^ (8 * n)
  let k := min n (0xFC - off)
  let s1 := if 0x100 < off + n then s else modFw s fun f => { f with mailbox := writeLe f.mailbox off k (v % 2 ^ (8 * k)) }
  if off ≤ 0xFC ∧ 0xFC < off + n ∧ v / 2 ^ (8 * k) % 2 ^ 32 = 1 then doorbell s1 else s1

/-- REGISTER_WRITE (R3): the host writes `len` bytes (0 stands for 8) of a function; with `flag3` it reads, and `out.read` has the answer. -/
def execRegisterWrite (fn bar off : Nat) (value : Word) (s : State) : Outcome :=
  let a := s.run.arg
  let n := if a.len = 0 ∨ 8 < a.len then 8 else a.len
  .next <|
    if a.flag3 then { s with out := { s.out with read := BitVec.ofNat 64 (hostRead s fn bar off) } }
    else if !fnExists s fn then s
    else if bar = 7 then (if fn = 0 then configWrite s off value else s)
    else if bar = 2 then
      (if fn ≠ 0 then s else if off < 0x200 then mailWrite s off n value
       else if 0x800000 ≤ off ∧ off < 0x800400 then msixWrite s 0 (off - 0x800000) n value else s)
    else if fn = 0 then bar0Write s off n value
    else guestWrite s fn off n value

end Sys2Proof.Machine
end

