-- ==== Sys2Proof/Machine/Dispatch.lean ====
section
/-!
DEFINITION. The dispatch of an instruction to its meaning: one arm per constructor.
-/
namespace Sys2Proof.Machine

def exec (i : Instr) (s : State) : Host.Outcome State Fault Refusal :=
  match i with
  | .guestReset v => Sys2Proof.Machine.execGuestReset v s
  | .windowStart w => Sys2Proof.Machine.execWindowStart w s
  | .windowEnd w => Sys2Proof.Machine.execWindowEnd w s
  | .classAStop w => Sys2Proof.Machine.execClassAStop w s
  | .dispatchDecision w => Sys2Proof.Machine.execDispatchDecision w s
  | .eviction ctx => Sys2Proof.Machine.execEviction ctx s
  | .restore save ctx => Sys2Proof.Machine.execRestore save ctx s
  | .overlayLoad ctx => Sys2Proof.Machine.execOverlayLoad ctx s
  | .teamRetire ctx => Sys2Proof.Machine.execTeamRetire ctx s
  | .tailWrite v ring value => Sys2Proof.Machine.execTailWrite v ring value s
  | .ringEnable v ring value => Sys2Proof.Machine.execRingEnable v ring value s
  | .ringDisable v ring value => Sys2Proof.Machine.execRingDisable v ring value s
  | .lqCtlEn v q value => Sys2Proof.Machine.execLqCtlEn v q value s
  | .lqRings v q value => Sys2Proof.Machine.execLqRings v q value s
  | .destroy v q => Sys2Proof.Machine.execDestroy v q s
  | .destroyDone v q => Sys2Proof.Machine.execDestroyDone v q s
  | .packetTake v q => Sys2Proof.Machine.execPacketTake v q s
  | .nop v q => Sys2Proof.Machine.execNop v q s
  | .launch v q => Sys2Proof.Machine.execLaunch v q s
  | .launchIndirect v q => Sys2Proof.Machine.execLaunchIndirect v q s
  | .prologueRun v q => Sys2Proof.Machine.execPrologueRun v q s
  | .prologueBudgetExceeded die => Sys2Proof.Machine.execPrologueBudgetExceeded die s
  | .wait v q => Sys2Proof.Machine.execWait v q s
  | .waitPoll v q => Sys2Proof.Machine.execWaitPoll v q s
  | .signal v q => Sys2Proof.Machine.execSignal v q s
  | .pktFence v q => Sys2Proof.Machine.execPktFence v q s
  | .timestamp v q => Sys2Proof.Machine.execTimestamp v q s
  | .copy v q => Sys2Proof.Machine.execCopy v q s
  | .copyPacketComplete v q => Sys2Proof.Machine.execCopyPacketComplete v q s
  | .launchComplete id => Sys2Proof.Machine.execLaunchComplete id s
  | .bucketRequest die point v bytes ctx engine => Sys2Proof.Machine.execBucketRequest die point v bytes ctx engine s
  | .quotaExhausted v => Sys2Proof.Machine.execQuotaExhausted v s
  | .staticCharge core => Sys2Proof.Machine.execStaticCharge core s
  | .chargeReturn ctx team v units => Sys2Proof.Machine.execChargeReturn ctx team v units s
  | .levelRampStep k => Sys2Proof.Machine.execLevelRampStep k s
  | .droopAlarm k => Sys2Proof.Machine.execDroopAlarm k s
  | .droopResponseEnd k => Sys2Proof.Machine.execDroopResponseEnd k s
  | .ballast k cycles => Sys2Proof.Machine.execBallast k cycles s
  | .slopeConflictStep k => Sys2Proof.Machine.execSlopeConflictStep k s
  | .gate k value => Sys2Proof.Machine.execGate k value s
  | .gatingStateChange k => Sys2Proof.Machine.execGatingStateChange k s
  | .wake k value => Sys2Proof.Machine.execWake k value s
  | .tiCtlGo value => Sys2Proof.Machine.execTiCtlGo value s
  | .tdCmtGo v size value => Sys2Proof.Machine.execTdCmtGo v size value s
  | .tableWalk core v va => Sys2Proof.Machine.execTableWalk core v va s
  | .notPresentFault ctx va kind malf engine => Sys2Proof.Machine.execNotPresentFault ctx va kind malf engine s
  | .pfAns value => Sys2Proof.Machine.execPfAns value s
  | .sliceAccess ctx idx => Sys2Proof.Machine.execSliceAccess ctx idx s
  | .atomicExecute ctx idx => Sys2Proof.Machine.execAtomicExecute ctx idx s
  | .memoryReply ctx idx => Sys2Proof.Machine.execMemoryReply ctx idx s
  | .flitDeliver ctx port => Sys2Proof.Machine.execFlitDeliver ctx port s
  | .blockedWaitEnd ctx => Sys2Proof.Machine.execBlockedWaitEnd ctx s
  | .accumulatorSpill core set ctx => Sys2Proof.Machine.execAccumulatorSpill core set ctx s
  | .engineCommandComplete core unit => Sys2Proof.Machine.execEngineCommandComplete core unit s
  | .epilogueRelease core => Sys2Proof.Machine.execEpilogueRelease core s
  | .collectiveInstanceMatch launch cid => Sys2Proof.Machine.execCollectiveInstanceMatch launch cid s
  | .sectionHeader h => Sys2Proof.Machine.execSectionHeader h s
  | .registerWrite fn bar off value => Sys2Proof.Machine.execRegisterWrite fn bar off value s
  | .add d a b => Sys2Proof.Machine.execAdd d a b s
  | .sub d a b => Sys2Proof.Machine.execSub d a b s
  | .mul d a b => Sys2Proof.Machine.execMul d a b s
  | .mulh d a b => Sys2Proof.Machine.execMulh d a b s
  | .mulhu d a b => Sys2Proof.Machine.execMulhu d a b s
  | .div d a b => Sys2Proof.Machine.execDiv d a b s
  | .divu d a b => Sys2Proof.Machine.execDivu d a b s
  | .rem d a b => Sys2Proof.Machine.execRem d a b s
  | .remu d a b => Sys2Proof.Machine.execRemu d a b s
  | .and d a b => Sys2Proof.Machine.execAnd d a b s
  | .or d a b => Sys2Proof.Machine.execOr d a b s
  | .xor d a b => Sys2Proof.Machine.execXor d a b s
  | .andn d a b => Sys2Proof.Machine.execAndn d a b s
  | .orn d a b => Sys2Proof.Machine.execOrn d a b s
  | .sll d a b => Sys2Proof.Machine.execSll d a b s
  | .srl d a b => Sys2Proof.Machine.execSrl d a b s
  | .sra d a b => Sys2Proof.Machine.execSra d a b s
  | .ror d a b => Sys2Proof.Machine.execRor d a b s
  | .min d a b => Sys2Proof.Machine.execMin d a b s
  | .max d a b => Sys2Proof.Machine.execMax d a b s
  | .minu d a b => Sys2Proof.Machine.execMinu d a b s
  | .maxu d a b => Sys2Proof.Machine.execMaxu d a b s
  | .slt d a b => Sys2Proof.Machine.execSlt d a b s
  | .sltu d a b => Sys2Proof.Machine.execSltu d a b s
  | .seq d a b => Sys2Proof.Machine.execSeq d a b s
  | .sel d a b => Sys2Proof.Machine.execSel d a b s
  | .shadd d a b sh => Sys2Proof.Machine.execShadd d a b sh s
  | .clz d a => Sys2Proof.Machine.execClz d a s
  | .ctz d a => Sys2Proof.Machine.execCtz d a s
  | .popc d a => Sys2Proof.Machine.execPopc d a s
  | .brev d a => Sys2Proof.Machine.execBrev d a s
  | .bswap d a => Sys2Proof.Machine.execBswap d a s
  | .sext d a b => Sys2Proof.Machine.execSext d a b s
  | .zext d a b => Sys2Proof.Machine.execZext d a b s
  | .extr d a pos wid => Sys2Proof.Machine.execExtr d a pos wid s
  | .insr d a pos wid => Sys2Proof.Machine.execInsr d a pos wid s
  | .addi d a imm => Sys2Proof.Machine.execAddi d a imm s
  | .andi d a imm => Sys2Proof.Machine.execAndi d a imm s
  | .ori d a imm => Sys2Proof.Machine.execOri d a imm s
  | .xori d a imm => Sys2Proof.Machine.execXori d a imm s
  | .slti d a imm => Sys2Proof.Machine.execSlti d a imm s
  | .sltiu d a imm => Sys2Proof.Machine.execSltiu d a imm s
  | .slli d a sh => Sys2Proof.Machine.execSlli d a sh s
  | .srli d a sh => Sys2Proof.Machine.execSrli d a sh s
  | .srai d a sh => Sys2Proof.Machine.execSrai d a sh s
  | .lui d imm => Sys2Proof.Machine.execLui d imm s
  | .pcadd d imm => Sys2Proof.Machine.execPcadd d imm s
  | .beq a b off => Sys2Proof.Machine.execBeq a b off s
  | .bne a b off => Sys2Proof.Machine.execBne a b off s
  | .blt a b off => Sys2Proof.Machine.execBlt a b off s
  | .bge a b off => Sys2Proof.Machine.execBge a b off s
  | .bltu a b off => Sys2Proof.Machine.execBltu a b off s
  | .bgeu a b off => Sys2Proof.Machine.execBgeu a b off s
  | .j off => Sys2Proof.Machine.execJ off s
  | .jal off => Sys2Proof.Machine.execJal off s
  | .jr d a imm => Sys2Proof.Machine.execJr d a imm s
  | .jtab d a len => Sys2Proof.Machine.execJtab d a len s
  | .loop a off => Sys2Proof.Machine.execLoop a off s
  | .swp imm => Sys2Proof.Machine.execSwp imm s
  | .ld d base size off => Sys2Proof.Machine.execLd d base size off s
  | .st src base size off => Sys2Proof.Machine.execSt src base size off s
  | .ldsp d base size off => Sys2Proof.Machine.execLdsp d base size off s
  | .stsp src base size off => Sys2Proof.Machine.execStsp src base size off s
  | .pref base off => Sys2Proof.Machine.execPref base off s
  | .ipref d a level => Sys2Proof.Machine.execIpref d a level s
  | .ipin d a level => Sys2Proof.Machine.execIpin d a level s
  | .iunpin d a level => Sys2Proof.Machine.execIunpin d a level s
  | .amo d a b op wide ord => Sys2Proof.Machine.execAmo d a b op wide ord s
  | .cas d a b wide ord => Sys2Proof.Machine.execCas d a b wide ord s
  | .ldacq d a size ord => Sys2Proof.Machine.execLdacq d a size ord s
  | .strel a b size ord => Sys2Proof.Machine.execStrel a b size ord s
  | .fence ord => Sys2Proof.Machine.execFence ord s
  | .tmask a => Sys2Proof.Machine.execTmask a s
  | .ttrip a => Sys2Proof.Machine.execTtrip a s
  | .tout a => Sys2Proof.Machine.execTout a s
  | .tdata a => Sys2Proof.Machine.execTdata a s
  | .lwait a => Sys2Proof.Machine.execLwait a s
  | .cmd eng a b op flags => Sys2Proof.Machine.execCmd eng a b op flags s
  | .kwait k b => Sys2Proof.Machine.execKwait k b s
  | .ksig k b => Sys2Proof.Machine.execKsig k b s
  | .krd d k => Sys2Proof.Machine.execKrd d k s
  | .ownx a b => Sys2Proof.Machine.execOwnx a b s
  | .ownw a b => Sys2Proof.Machine.execOwnw a b s
  | .tagwa a => Sys2Proof.Machine.execTagwa a s
  | .tagwl a => Sys2Proof.Machine.execTagwl a s
  | .tagff d a => Sys2Proof.Machine.execTagff d a s
  | .tagclr a => Sys2Proof.Machine.execTagclr a s
  | .phase glb => Sys2Proof.Machine.execPhase glb s
  | .gets d imm => Sys2Proof.Machine.execGets d imm s
  | .sets a imm => Sys2Proof.Machine.execSets a imm s
  | .trap imm => Sys2Proof.Machine.execTrap imm s
  | .tstamp d => Sys2Proof.Machine.execTstamp d s
  | .tlbinv a b => Sys2Proof.Machine.execTlbinv a b s
  | .tlblk a b => Sys2Proof.Machine.execTlblk a b s
  | .ldovt a => Sys2Proof.Machine.execLdovt a s
  | .vadd f => Sys2Proof.Machine.execVadd f s
  | .vsub f => Sys2Proof.Machine.execVsub f s
  | .vmul f => Sys2Proof.Machine.execVmul f s
  | .vmulh f => Sys2Proof.Machine.execVmulh f s
  | .vmad f => Sys2Proof.Machine.execVmad f s
  | .vand f => Sys2Proof.Machine.execVand f s
  | .vor f => Sys2Proof.Machine.execVor f s
  | .vxor f => Sys2Proof.Machine.execVxor f s
  | .vshl f => Sys2Proof.Machine.execVshl f s
  | .vshr f => Sys2Proof.Machine.execVshr f s
  | .vsra f => Sys2Proof.Machine.execVsra f s
  | .vmin f => Sys2Proof.Machine.execVmin f s
  | .vmax f => Sys2Proof.Machine.execVmax f s
  | .vabs f => Sys2Proof.Machine.execVabs f s
  | .vclz f => Sys2Proof.Machine.execVclz f s
  | .vpopc f => Sys2Proof.Machine.execVpopc f s
  | .vcmp f => Sys2Proof.Machine.execVcmp f s
  | .vsel f => Sys2Proof.Machine.execVsel f s
  | .vmov f => Sys2Proof.Machine.execVmov f s
  | .vimm f => Sys2Proof.Machine.execVimm f s
  | .vlid f => Sys2Proof.Machine.execVlid f s
  | .vtok f => Sys2Proof.Machine.execVtok f s
  | .fadd f => Sys2Proof.Machine.execFadd f s
  | .fsub f => Sys2Proof.Machine.execFsub f s
  | .fmul f => Sys2Proof.Machine.execFmul f s
  | .fdiv f => Sys2Proof.Machine.execFdiv f s
  | .ffma f => Sys2Proof.Machine.execFfma f s
  | .fsqrt f => Sys2Proof.Machine.execFsqrt f s
  | .fmin f => Sys2Proof.Machine.execFmin f s
  | .fmax f => Sys2Proof.Machine.execFmax f s
  | .fsgn f => Sys2Proof.Machine.execFsgn f s
  | .fcmp f => Sys2Proof.Machine.execFcmp f s
  | .fspec f => Sys2Proof.Machine.execFspec f s
  | .fdot2 f => Sys2Proof.Machine.execFdot2 f s
  | .fclass f => Sys2Proof.Machine.execFclass f s
  | .vcvt f => Sys2Proof.Machine.execVcvt f s
  | .vrnd f => Sys2Proof.Machine.execVrnd f s
  | .vqnt f => Sys2Proof.Machine.execVqnt f s
  | .vdqnt f => Sys2Proof.Machine.execVdqnt f s
  | .vbscale f => Sys2Proof.Machine.execVbscale f s
  | .vbpack f => Sys2Proof.Machine.execVbpack f s
  | .vbunpk f => Sys2Proof.Machine.execVbunpk f s
  | .vperm f => Sys2Proof.Machine.execVperm f s
  | .vrot f => Sys2Proof.Machine.execVrot f s
  | .vshuf f => Sys2Proof.Machine.execVshuf f s
  | .vbcast f => Sys2Proof.Machine.execVbcast f s
  | .vred f => Sys2Proof.Machine.execVred f s
  | .vscan f => Sys2Proof.Machine.execVscan f s
  | .vidxr f => Sys2Proof.Machine.execVidxr f s
  | .vidxw f => Sys2Proof.Machine.execVidxw f s
  | .vld f => Sys2Proof.Machine.execVld f s
  | .vldbc f => Sys2Proof.Machine.execVldbc f s
  | .vst f => Sys2Proof.Machine.execVst f s
  | .vstp f => Sys2Proof.Machine.execVstp f s
  | .vldg f => Sys2Proof.Machine.execVldg f s
  | .vstx f => Sys2Proof.Machine.execVstx f s
  | .mpush f => Sys2Proof.Machine.execMpush f s
  | .mpushq f => Sys2Proof.Machine.execMpushq f s
  | .minv f => Sys2Proof.Machine.execMinv f s
  | .mpop f => Sys2Proof.Machine.execMpop f s
  | .mtoq f => Sys2Proof.Machine.execMtoq f s
  | .mclr f => Sys2Proof.Machine.execMclr f s
  | .vnop f => Sys2Proof.Machine.execVnop f s
  | .vseed f => Sys2Proof.Machine.execVseed f s
  | .vstat f => Sys2Proof.Machine.execVstat f s
  | .mwl c => Sys2Proof.Machine.execMwl c s
  | .mwa c => Sys2Proof.Machine.execMwa c s
  | .mst c => Sys2Proof.Machine.execMst c s
  | .mep c => Sys2Proof.Machine.execMep c s
  | .macl c => Sys2Proof.Machine.execMacl c s
  | .masv c => Sys2Proof.Machine.execMasv c s
  | .mars c => Sys2Proof.Machine.execMars c s
  | .cpl c => Sys2Proof.Machine.execCpl c s
  | .cpw c => Sys2Proof.Machine.execCpw c s
  | .cpg c => Sys2Proof.Machine.execCpg c s
  | .cpx c => Sys2Proof.Machine.execCpx c s
  | .cpf c => Sys2Proof.Machine.execCpf c s
  | .cpr c => Sys2Proof.Machine.execCpr c s
  | .cph c => Sys2Proof.Machine.execCph c s
  | .clrs c => Sys2Proof.Machine.execClrs c s
  | .clag c => Sys2Proof.Machine.execClag c s
  | .clar c => Sys2Proof.Machine.execClar c s
  | .clbc c => Sys2Proof.Machine.execClbc c s
  | .illegalInstruction w => Sys2Proof.Machine.execIllegalInstruction w s
  | .illegalLaneWord w => Sys2Proof.Machine.execIllegalLaneWord w s
  | .unassignedEngineCommand eng op c => Sys2Proof.Machine.execUnassignedEngineCommand eng op c s
  | .guestResetDone v => Sys2Proof.Machine.execGuestResetDone v s
  | .powerOnReset => Sys2Proof.Machine.execPowerOnReset s
  | .fundamentalReset => Sys2Proof.Machine.execFundamentalReset s
  | .mgmtReset => Sys2Proof.Machine.execMgmtReset s
  | .bootSequence => Sys2Proof.Machine.execBootSequence s
  | .chardBootTimeout => Sys2Proof.Machine.execChardBootTimeout s
  | .stage => Sys2Proof.Machine.execStage s
  | .activate => Sys2Proof.Machine.execActivate s
  | .commit => Sys2Proof.Machine.execCommit s
  | .select => Sys2Proof.Machine.execSelect s
  | .status => Sys2Proof.Machine.execStatus s
  | .liveUpdateTakeover => Sys2Proof.Machine.execLiveUpdateTakeover s
  | .liveUpdateTimeout => Sys2Proof.Machine.execLiveUpdateTimeout s
  | .complexLastingError => Sys2Proof.Machine.execComplexLastingError s
  | .spdmGetVersion => Sys2Proof.Machine.execSpdmGetVersion s
  | .spdmGetCapabilities => Sys2Proof.Machine.execSpdmGetCapabilities s
  | .spdmNegotiateAlgorithms => Sys2Proof.Machine.execSpdmNegotiateAlgorithms s
  | .spdmGetDigests => Sys2Proof.Machine.execSpdmGetDigests s
  | .spdmGetCertificate => Sys2Proof.Machine.execSpdmGetCertificate s
  | .spdmChallenge => Sys2Proof.Machine.execSpdmChallenge s
  | .spdmGetMeasurements => Sys2Proof.Machine.execSpdmGetMeasurements s
  | .spdmUnsupportedRequest => Sys2Proof.Machine.execSpdmUnsupportedRequest s
  | .thermalSample => Sys2Proof.Machine.execThermalSample s
  | .lastingError => Sys2Proof.Machine.execLastingError s
  | .transientThreshold => Sys2Proof.Machine.execTransientThreshold s
  | .coreRetirement => Sys2Proof.Machine.execCoreRetirement s
  | .sliceRetirement => Sys2Proof.Machine.execSliceRetirement s
  | .frameRemap => Sys2Proof.Machine.execFrameRemap s
  | .patrolScrub => Sys2Proof.Machine.execPatrolScrub s
  | .bar4Access => Sys2Proof.Machine.execBar4Access s
  | .hostCompletionTimeout => Sys2Proof.Machine.execHostCompletionTimeout s
  | .ucieModuleFailure => Sys2Proof.Machine.execUcieModuleFailure s
  | .modcfg => Sys2Proof.Machine.execModcfg s
  | .flitReceive => Sys2Proof.Machine.execFlitReceive s
  | .flitTransmit => Sys2Proof.Machine.execFlitTransmit s
  | .nakReplay => Sys2Proof.Machine.execNakReplay s
  | .linkRetrain => Sys2Proof.Machine.execLinkRetrain s
  | .remoteRequest => Sys2Proof.Machine.execRemoteRequest s
  | .remoteResponse => Sys2Proof.Machine.execRemoteResponse s
  | .migreq => Sys2Proof.Machine.execMigreq s
  | .migrationPolicyProposal => Sys2Proof.Machine.execMigrationPolicyProposal s
  | .pageMigrationDone => Sys2Proof.Machine.execPageMigrationDone s
  | .ctCtlGo => Sys2Proof.Machine.execCtCtlGo s
  | .contractValidated => Sys2Proof.Machine.execContractValidated s
  | .ftCtlGo => Sys2Proof.Machine.execFtCtlGo s
  | .frameTableValidated => Sys2Proof.Machine.execFrameTableValidated s
  | .frameBoundary => Sys2Proof.Machine.execFrameBoundary s
  | .regulatorTick => Sys2Proof.Machine.execRegulatorTick s
  | .powerGrant => Sys2Proof.Machine.execPowerGrant s
  | .vlStep => Sys2Proof.Machine.execVlStep s
  | .tlbInvalidationDone => Sys2Proof.Machine.execTlbInvalidationDone s
  | .faultRecordPost => Sys2Proof.Machine.execFaultRecordPost s
  | .lexit => Sys2Proof.Machine.execLexit s
  | .hcallEnd => Sys2Proof.Machine.execHcallEnd s
  | .hcallQuota => Sys2Proof.Machine.execHcallQuota s
  | .hcallLevel => Sys2Proof.Machine.execHcallLevel s
  | .eret => Sys2Proof.Machine.execEret s
  | .wfe => Sys2Proof.Machine.execWfe s
  | .brk => Sys2Proof.Machine.execBrk s
  | .halt => Sys2Proof.Machine.execHalt s
  | .malformedMailboxCommand => Sys2Proof.Machine.execMalformedMailboxCommand s
  | .mailboxAnswer => Sys2Proof.Machine.execMailboxAnswer s
  | .linkTrainingComplete => Sys2Proof.Machine.execLinkTrainingComplete s

end Sys2Proof.Machine
end

