-- ==== Sys2Proof/Machine/Turns.lean ====
section
/-!
DEFINITION. What a turn of the rota does (log 1): the instruction a sequencer or the lanes fetch, a unit's next command or completion, a context's next
access, flit or event, and the time base. An event that the machine itself causes is posted or run here; each one's effect is its own meaning.
-/
namespace Sys2Proof.Machine

/-- The instruction of context c that runs now. -/
def runFor (s : State) (c : Nat) (i : Instr) : State × Option Instr := ({ s with run := { s.run with cur := c, arg := noArg } }, some i)

/-- An event that runs now. -/
def eventNow (s : State) (i : Instr) : State × Option Instr := ({ s with run := { s.run with arg := noArg } }, some i)

/-! ## Sequencers -/

/-- R195: the team of context c is in the executing bank; R210: its core is not frozen, but for a drain stub. -/
def executing (s : State) (c : Nat) : Bool :=
  let k := coreAt s (coreOf c)
  k.bank == bankOf c && !(k.frozen && (ctxAt s c).drain == .off)

/-- The sequencer of context c goes on: running, not ended, not waiting for the answer to a fault (R203). -/
def seqReady (s : State) (c : Nat) : Bool :=
  let x := ctxAt s c
  x.phase == .running && x.wait != .ended && !faulted x && !x.loadDue && (!isTeam c || executing s c)

/-- A fetch that has to wait leaves the step to be taken back; else it has failed as `f` says. -/
def fetchEnds (s1 : State) (f : State) : State × Option Instr := if s1.run.stuck then (s1, none) else (f, none)

/-- The control instruction at the PC of context c (R358, R369, R484): an unaligned PC takes 0x17, a fetch its fault, before the instruction's own checks; so does the fetch of a
prologue's 4,097th instruction, before its budget is tested (DESIGN CHOICE, log 86). -/
def fetchControl (s : State) (c : Nat) : State × Option Instr :=
  let pc := (ctxAt s c).pc
  if pc.toNat % 4 ≠ 0 then (takeTrap s c 0x17 pc, none)
  else
    match fetch4 s c false pc with
    | (s1, .ok (b0 :: b1 :: b2 :: b3 :: _)) => if s1.run.stuck then (s1, none) else runFor s1 c (decodeControl (word32 b0 b1 b2 b3))
    | (s1, .ok _) => (s1, none)
    | (s1, .absent m va) => fetchEnds s1 (takeNotPresent s c va 2 m)
    | (s1, .fault cause va) => fetchEnds s1 (takeTrap s c cause va)
    | (s1, .machine u num va) => fetchEnds s1 (if isTeam c then machineCheck s c u num pc va else takeTrap s c 0x25 va)

/-- A sequencer's turn: a notice that is due (R155, R163), else its next instruction. A waiting instruction runs again. -/
def seqTurn (s0 : State) (c : Nat) : State × Option Instr :=
  let s := if isTeam c then settleBank s0 (coreOf c) else s0
  let x := ctxAt s c
  if !seqReady s c then (s, none)
  else if x.pend27 && x.drain == .off then (modCtx (notice s c 0x27 0) c fun y => { y with pend27 := false }, none)
  else if x.pend26 && x.drain == .off then (modCtx (notice s c 0x26 0) c fun y => { y with pend26 := false }, none)
  else fetchControl (if x.fault.isSome then setCtx s c { x with fault := none } else s) c

/-! ## Lanes -/

/-- A cycle in which the lanes of context c issue nothing. -/
def idleLanes (s : State) (c : Nat) : State := modCtx s c fun x => { x with lanes := laneTick x.lanes }

/-- R193: the lanes of context c may issue. -/
def lanesReady (s : State) (c : Nat) : Bool :=
  let x := ctxAt s c
  x.phase == .running && !x.loadDue && !x.lanes.ended && !openFault x.laneFault && executing s c

/-- R173, R472: in a cycle of the half-issue window no lane word issues after a cycle in which one did. -/
def halfIssue (s : State) (c : Nat) : Bool :=
  let p := clusterAt s (clusterOf (coreOf c))
  decide (0 < p.throttle) && !p.slow && (coreAt s (coreOf c)).issued == p.cycle

/-- A section header, which takes no issue cycle (R413). -/
def isSectionHeader : Instr → Bool
  | .sectionHeader _ => true
  | _ => false

/-- R223: a fetch of the lane stream meets 0x10; in drain mode the team is killed (R142). -/
def laneAbsent (s : State) (c : Nat) (va : Word) (malf : Bool) : State :=
  if (ctxAt s c).drain != .off then laneFault s c 0x10 va
  else
    modCtx (postFault s c 0 va 2 malf false true) c fun x =>
      { x with laneFault := some { id := s.xlate.nextId.toNat, va, answered := false, switched := false } }

/-- A fetch of the lane stream that does not succeed. -/
def laneFetchEnds (s s1 : State) (c : Nat) : Fetched → State × Option Instr
  | .ok _ => (s1, none)
  | .absent m va => fetchEnds s1 (laneAbsent s c va m)
  | .fault cause va => fetchEnds s1 (laneFault s c cause va)
  | .machine u num va => fetchEnds s1 (laneMachine s c u num va)

/-- The item at the lane position of context c (R349): a header, or a lane word. -/
def fetchItem (s : State) (c : Nat) : State × Option Instr :=
  let x := ctxAt s c
  let va := x.image + BitVec.ofNat 64 (x.hdr.lane + x.lanes.pos)
  if x.lanes.pos % 4 ≠ 0 then (laneFault s c 0x23 0, none)
  else
    match fetchWords s c true va 2 with
    | (s1, .ok (b0 :: b1 :: b2 :: b3 :: b4 :: b5 :: b6 :: b7 :: _)) =>
      let w := word64 b0 b1 b2 b3 b4 b5 b6 b7
      if s1.run.stuck then (s1, none)
      else if isHeader w then runFor s1 c (.sectionHeader (headerFieldsOf w))
      else
        match fetch4 s1 c true (va + 8) with
        | (s2, .ok (c0 :: c1 :: c2 :: c3 :: _)) =>
          if s2.run.stuck then (s2, none) else runFor s2 c (decodeLane (w ++ word32 c0 c1 c2 c3))
        | (s2, f) => laneFetchEnds s s2 c f
    | (s1, f) => laneFetchEnds s s1 c f

/-- The lanes' turn. -/
def laneTurn (s : State) (c : Nat) : State × Option Instr :=
  let x := ctxAt s c
  if x.phase == .empty then (s, none)
  else if !lanesReady s c then (idleLanes s c, none)
  else
    match fetchItem (if x.laneFault.isSome then setCtx s c { x with laneFault := none } else s) c with
    | (s1, some i) => if halfIssue s c && !isSectionHeader i then (idleLanes s c, none) else (s1, some i)
    | r => r

/-! ## Engines -/

/-- The units of an engine. -/
def unitsOf (eng : Nat) : List Nat := if eng = 0 then [0, 1, 2, 3] else if eng = 1 then [4] else []

/-- R444: the completions that are due on a core: a unit's command that has nothing left to do, a collective whose outputs are written. -/
def completions (s : State) (core : Nat) : List Instr :=
  (([0, 1].flatMap unitsOf).filter fun u => match unitOf s core u with | some x => commandDone s u x | none => false).map (.engineCommandComplete core ·) ++
    (s.collectives.filter fun w => w.done && coreOf w.ctx == core).map fun _ => .engineCommandComplete core 5

/-- R211, R475: what a core's engines have completed takes effect before its sequencer's instruction of the cycle. -/
def endsTurn (s : State) (core : Nat) : State := (completions s core).foldl post s

/-- The next rows of the epilogue: its unit's, or those of a restored epilogue (R277). -/
def epilogueTurn (s : State) (core : Nat) : Option State :=
  let go := fun (u : RunCmd) (t : State) => match u.cmd.cmd with | .mep e => some (epilogueGo e (turnPieces t) u t) | _ => none
  match unitOf s core 2 with
  | some u => if u.paused.isNone && goesOn s u.ctx && !matrixDone u then go u s else none
  | none =>
    match [0, 1].findSome? fun b => (unitOf s core (32 + b)).bind fun u => if u.paused.isNone && goesOn s u.ctx then some (32 + b, u) else none with
    | some e => go e.2 (modCore s core fun k => { k with units := mput (mdel k.units e.1) 2 e.2 })
    | none => none

/-- The work of a matrix unit that has a command with something left to do. -/
def unitWork (core unit : Nat) (todo : RunCmd → Bool) (go : RunCmd → State → State) (o : Option State) (s : State) : Option State :=
  let t := o.getD s
  match unitOf t core unit with
  | some u => if u.paused.isNone && goesOn t u.ctx && todo u then some (go u t) else o
  | none => o

/-- The next rows of a stream, of an epilogue's reads and of the accumulator port. -/
def rowsTurn (s : State) (core : Nat) : Option State :=
  let a := unitWork core 1 (fun u => !matrixDone u) (fun u t => match u.cmd.cmd with | .mst e => streamGo u e t | _ => t) none s
  let b := unitWork core 2 (fun u => !u.released && decide (u.rows.length < 64) && !releaseDue s core) (fun u t => match u.cmd.cmd with | .mep e => epilogueReads e u t | _ => t) a s
  unitWork core 3 (fun u => !matrixDone u) portGo b s

/-- A copy that goes on: the unit's, or one that a fault had paused (R226). -/
def copyTurn (s : State) (core : Nat) : Option State :=
  match unitOf s core 4 with
  | some u => if u.paused.isNone && !commandDone s 4 u && copyGoesOn s u then some (resumeCopy s u) else none
  | none =>
    ((coreAt s core).units.find? fun e => decide (64 ≤ e.1) && e.2.paused.isNone && copyGoesOn s e.2).map fun e =>
      resumeCopy (modCore s core fun k => { k with units := mput (mdel k.units e.1) 4 e.2 }) e.2

/-- R139, R143, R459: a started copy whose team has stopped stands between two steps and does not go on: it is saved at the head of its queue, and its unit is free. -/
def parkCopy (s : State) (core : Nat) : State :=
  match mfind (coreAt s core).units 4 with
  | some u =>
    if u.paused.isNone && goesOn s u.ctx && !copyGoesOn s u && !commandDone s 4 u then
      let s1 := modCtx s u.ctx fun x => { x with cmdq := mput x.cmdq 1 (leftCopy s u :: mget x.cmdq 1 []) }
      modCore { s1 with run := { s1.run with ledger := s1.run.ledger.filter fun e => e != (.turn (.engine core 1), .trap u.ctx) } } core fun k => { k with units := mdel k.units 4 }
    else s
  | none => s

/-- R188: the bank whose queue an engine takes from next. -/
def takeBank (s : State) (core eng : Nat) : Option Nat :=
  let b := mget (coreAt s core).nextBank eng 0
  [2 * core + b, 2 * core + (1 - b)].find? fun c => (ctxAt s c).phase == .running && (ctxAt s c).drain == .off && !(mget (ctxAt s c).cmdq eng []).isEmpty

/-- The next command of an engine's queues. -/
def nextCommand (s : State) (core eng : Nat) : State × Option Instr :=
  let s1 := if (coreAt s core).refills.isEmpty then s else modCore s core fun k => refillTiles (refillTiles k 0) 1
  match takeBank s1 core eng with
  | none => (s1, none)
  | some c =>
    match mget (ctxAt s1 c).cmdq eng [] with
    | q :: _ => runFor s1 c q.cmd
    | [] => (s1, none)

/-- An engine's turn (log 1): a release, work that goes on, or the next command of its queues; the matrix engine, whose units work beside each other,
takes commands in odd cycles. Number 3 stands for the epilogue's stores, 4 for what the engines have completed. -/
def engineTurn (s : State) (core eng : Nat) : State × Option Instr :=
  match eng with
  | 3 => ((epilogueTurn (inUnit s 2) core).getD s, none)
  | 4 => (endsTurn s core, none)
  | 0 =>
    if releaseDue s core then eventNow s (.epilogueRelease core)
    else
      match rowsTurn s core with
      | some t => if (clusterAt s (clusterOf core)).cycle.getLsbD 0 && (takeBank s core 0).isSome then nextCommand (inUnit s 99) core 0 else (t, none)
      | none => nextCommand (inUnit s 99) core 0
  | 1 =>
    let s1 := parkCopy s core
    match copyTurn (inUnit s1 4) core with
    | some t => (t, none)
    | none => nextCommand (inUnit s1 4) core 1
  | _ => nextCommand (inUnit s 99) core eng

/-! ## Accesses, flits and events of a team -/

/-- The first pending access that can be served, or has been served and can land. -/
def pendStep (s : State) (c : Nat) : Option (Nat × Pend) :=
  let x := ctxAt s c
  (x.mem.zipIdx.find? fun e =>
    (e.1.place == .done && !(returnsKind e.1.kind && portFull s c e.1.dst)) || (e.1.place == .atSlice && !olderSameLine x e.2 e.1)).map fun e => (e.2, e.1)

/-- An access that was not present after it had left, once the fault is answered (R46, R223, R226). -/
def heldPage (x : Ctx) : Option (Nat × Pend) :=
  if openFault x.fault then none else (x.mem.zipIdx.find? fun e => e.1.place == .pageHeld).map fun e => (e.2, e.1)

/-- R223, R226: the access is made again: it is walked, and arrives at its bucket (R153). -/
def walkAgain (s : State) (c i : Nat) (p : Pend) : State :=
  match reach s c (chkOf p.kind) p.va with
  | (_, .absent m) => refusePend s c i m
  | (_, .fault cause) => accessFault s c cause p.pc p.va
  | (s1, .ok mt home pa rc sy) =>
    if pageMoving s1 mt pa then s1
    else
      let b := bucketArrive s1 (dieOfCtx c) (coreOf c % 48) (ctxAt s1 c).v (.access c) c (initCharge p.bytes (isAtomicKind p.kind))
      setPend b.1 c i { p with mt, home, pa, rc := rc && mt == 0, sy := sy && mt == 0, place := if b.2 then .atSlice else .held }

/-- The send port with a flit that moves now (R199). -/
def flitPort (s : State) (c : Nat) : Option Nat := [0, 1, 2, 3].find? fun n => (flitMover s s.relay [] (portQueue s c n)).isSome

/-- R202: the waiting instruction of context c would no longer wait: its wait's condition holds. -/
def waitOver (s : State) (c : Nat) : Bool :=
  match fetchControl { s with run := { s.run with cur := c } } c with
  | (s1, some i) =>
    match exec i s1 with
    | .next s2 => (ctxAt s2 c).wait != (ctxAt s c).wait && !s2.run.stuck
    | _ => true
  | (s1, none) => !s1.run.stuck

/-- A team's turn for what is outstanding of it: a load of its image (R123), an access (R284), a flit (R199), the end of a wait (R202), its end (R208), its
eviction (R141). -/
def memTurn (s : State) (c : Nat) : State × Option Instr :=
  let x := ctxAt s c
  if x.phase == .empty then (s, none)
  else if x.loadDue && x.phase == .running && !openFault x.fault then eventNow s (.overlayLoad c)
  else
    match pendStep s c, heldPage x, flitPort s c with
    | some (i, p), _, _ =>
      eventNow s (if p.place == .done then .memoryReply c i else if isAtomicKind p.kind then .atomicExecute c i else .sliceAccess c i)
    | none, some (i, p), _ => (walkAgain s c i p, none)
    | none, none, some n => eventNow s (.flitDeliver c n)
    | none, none, none =>
      if blockingWait x.wait && x.phase == .running && !executing s c && waitOver s c then eventNow s (.blockedWaitEnd c)
      else if retireReady s c || endedAtPop x then eventNow s (.teamRetire c)
      else if x.phase == .stopped && x.evict && x.drain == .off && evictReady s c then eventNow s (.eviction c)
      else (s, none)

/-! ## The time base -/

/-- R475: the static charge of an even cycle of a core that is over, unless it has been made. It goes by the states that the cycle leaves (DESIGN CHOICE, log 107). -/
def staticDue (s : State) (core : Nat) : State :=
  let k := coreAt s core
  if k.absent then s else if k.charged then modCore s core fun x => { x with charged := false } else post s (.staticCharge core)

/-- R170, R472, R475: the current cycle of a cluster is over and the next begins: the static charges of an even cycle, which go by the states it leaves; the droop
response, which begins with the cycle after the alarm, whose stretched cycles take two periods and whose last half-issue cycle ends it; every 20 cycles a due step of the clock. -/
def nextCycle (s : State) (k : Nat) : State :=
  let p := clusterAt s k
  let st := if p.slow then p.stretch - 1 else p.stretch
  let window := p.stretch == 0 && decide (0 < p.throttle)
  let s1 := modCluster s k fun q =>
    { q with cycle := q.cycle + 1, clocked := true, stretch := st, slow := decide (0 < st), held := decide (0 < st),
             throttle := if 0 < st ∧ p.slow = false then 64 else if window ∧ 1 < q.throttle then q.throttle - 1 else q.throttle }
  let s2 := if p.cycle.getLsbD 0 then s1 else (coresOfCluster k).foldl staticDue s1
  let s3 := if window && decide (p.throttle ≤ 1) then post s2 (.droopResponseEnd k) else s2
  let step := match rampOf s p with
    | .freqUp | .freqDown => p.cycle.toNat % 20 == 0
    | _ => false
  if step then post s3 (.levelRampStep k) else s3

/-- One period of 1,600 MHz, the fastest clock (R165), of a cluster whose clock is `freq` × 25 MHz: a period of its own clock is over or not, and with the last of a
cycle the next begins. -/
def clusterPeriod (s : State) (k : Nat) : State :=
  let p := clusterAt s k
  let sum := p.part + p.freq
  if sum < 64 then modCluster s k fun q => { q with part := sum, clocked := false }
  else if p.held then modCluster s k fun q => { q with part := sum - 64, held := false, clocked := false }
  else nextCycle (modCluster s k fun q => { q with part := sum - 64 }) k

/-- R170, R178: at a tick, 5 mV of VC per µs, and what a cluster's gate goes on with. -/
def clusterTick (s : State) (k : Nat) : State :=
  let p := clusterAt s k
  let step := match rampOf s p with
    | .vcUp | .vcDown => s.tick.toNat % 100 == 0
    | _ => false
  let s1 := if step then post s (.levelRampStep k) else s
  if p.gstate = 1 ∨ p.gstate = 2 ∨ p.gstate = 4 then post s1 (.gatingStateChange k) else s1

/-- Free values for a sample of the power and temperature sensors (log 22). -/
def sensed (s : State) (base n bound : Nat) : List Nat := (List.range n).map fun i => (freeAt s (base + i)).toNat % bound

/-- R20, R166: the grants and the thermal sample of a tick that is a multiple of 1,000 regulator ticks. The active complex reads the sensors: nobody does before
boot has ended, in recovery, or without firmware (R76). -/
def grantBeat (s : State) : State :=
  let s1 := if s.fw.mode == .running then postArg s .thermalSample { noArg with nums := sensed s 0 12 256, nums2 := sensed s 16 48 256 } else s
  useFree (postArg s1 .powerGrant { noArg with nums := sensed s 64 12 1024, n := (sensed s 80 1 1024).headD 0, nums2 := sensed s 96 12 64 })

/-- R91, R130, R139, R146: the frame's instants at the new tick: boundary, ends, starts, stops 4,000 ticks ahead. -/
def frameBeat (s : State) : State :=
  if !s.frame.started then s
  else
    let t := s.frame.tick.toNat
    let s1 := if t = frameTicks s then post s .frameBoundary else s
    let views := s.frame.view.zipIdx
    let ends := views.filter fun e => e.1.valid && decide (e.1.start + e.1.len = t)
    let s2 := ends.foldl (fun u e => postArg u (.windowEnd e.2) { noArg with nums := windowCores e.1 }) s1
    let coming := comingTables s
    let at' := if t = frameTicks s then 0 else t
    let ruled := if t = frameTicks s then coming else s
    let now := ruled.frame.view.zipIdx
    let s3 := (now.filter fun e => e.1.valid && decide (e.1.start = at')).foldl (fun u e => post u (.windowStart e.2)) s2
    let s4 := (now.filter fun e => classAWindow ruled e.2 e.1 && decide (4000 ≤ e.1.start ∧ e.1.start - 4000 = at')).foldl (fun u e => post u (.classAStop e.2)) s3
    (coming.frame.view.zipIdx.filter fun e => classAWindow coming e.2 e.1 && decide (e.1.start < 4000 ∧ frameTicks s + e.1.start - 4000 = t)).foldl
      (fun u e => postArg u (.classAStop e.2) { noArg with flag := true }) s4

/-- R111: the WAIT packets whose poll is due; a poll that waits is not made twice. -/
def pollBeat (s : State) : State :=
  s.vnpus.foldl (fun t v => v.2.queues.foldl (fun u q =>
    if q.2.head == .waiting && decide (q.2.nextPoll ≤ s.tick.toNat) && !(s.run.later.any fun e => e.i == .waitPoll v.1 q.1) then post u (.waitPoll v.1 q.1) else u) t) s

/-- R110, R111: COPY packets that have bytes left to move go on. -/
def copyBeat (s : State) : State :=
  s.vnpus.foldl (fun t v => v.2.queues.foldl (fun u q => if q.2.copies.isEmpty then u else postArg u (.copy v.1 q.1) { noArg with flag3 := true }) t) s

/-- What the machine has begun and goes on with as time passes: retirements, invalidations, page moves, a takeover, flits without a sender, copies, events that had
to wait (log 56); how much an engine does in a turn is drawn anew (log 57). -/
def workBeat (s : State) : State :=
  let s1 := s.cores.foldl (fun t e => if e.2.frozen then postArg t .coreRetirement { noArg with n := e.1, flag3 := true } else t) s
  let s2 := if s1.xlate.tiBusy then post s1 .tlbInvalidationDone else s1
  let s3 := match s2.mgmt.moving with
    | _ :: _ => useFree (postArg s2 .pageMigrationDone { noArg with m := (freeAt s2 0).toNat % 2 ^ 32 })
    | [] => s2
  let s4 := if s3.fw.upd = 2 ∨ s3.fw.upd = 3 ∨ s3.fw.failover ≠ .none then post s3 .liveUpdateTakeover else s3
  let s5 := if s4.fw.quiesced ∧ s4.fw.quiesceStart + 500000 ≤ s4.tick.toNat then post s4 .liveUpdateTimeout else s4
  let s6 := copyBeat (if s5.relay.isEmpty then s5 else postArg s5 (.flitDeliver 0 0) { noArg with flag := true })
  let s7 := useFree { s6 with run := { s6.run with pace := (freeAt s6 0).toNat % 2 ^ 16 } }
  { s7 with run := { s7.run with inputs := s7.run.inputs ++ s7.run.later, later := [] } }

/-- One tick of the time base. -/
def tickBeat (s : State) : State :=
  let s1 := { s with tick := s.tick + 1, frame := if s.frame.started then { s.frame with tick := s.frame.tick + 1 } else s.frame }
  let s2 := frameBeat s1
  let s3 := if s1.tick.toNat % 10 = 0 then post s2 .regulatorTick else s2
  let s4 := if s1.tick.toNat % 10000 = 0 then grantBeat s3 else s3
  let s5 := if s1.tick.toNat % 50 = 0 then post s4 .vlStep else s4
  workBeat (pollBeat ((List.range 12).foldl clusterTick s5))

/-- One period of 1,600 MHz: every cluster's clock, and with the sixteenth a tick (R36, log 11). -/
def beat (s : State) : State :=
  let s1 := (List.range 12).foldl clusterPeriod s
  let n := s1.run.period + 1
  if n < 16 then { s1 with run := { s1.run with period := n } } else tickBeat { s1 with run := { s1.run with period := 0 } }

/-! ## A turn -/

/-- R16, R20: what VC feeds: the sequencers, lanes, accesses and engines of the cores. -/
def onCore : Turn → Bool
  | .seq c | .lanes c | .mem c => isTeam c
  | .engine _ _ => true
  | .beat => false

/-- The cluster whose clock a turn takes. -/
def clusterOfTurn : Turn → Nat
  | .seq c | .lanes c | .mem c => clusterOf (coreOf c)
  | .engine core _ => clusterOf core
  | .beat => 0

/-- What a turn does: its own change of the state, and the instruction that runs in this step. A core does something once in each cycle of its cluster's clock, and
nothing with the rails off (R20). -/
def turnOf (t : Turn) (s : State) : State × Option Instr :=
  if onCore t && (s.railsOff || !(clusterAt s (clusterOfTurn t)).clocked) then (s, none)
  else match t with
    | .seq c => seqTurn s c
    | .lanes c => laneTurn s c
    | .engine core eng => engineTurn s core eng
    | .mem c => memTurn s c
    | .beat => (beat s, none)

/-! ## A step that has to wait (log 56) -/

/-- A budget trap met by a step that is taken back (R155): counted at once; the notice of a team's sequencer or lanes is due, that of an engine's command comes with
the command, unless one is pending already. -/
def keepTrap (a : Agent) (s : State) (e : Nat × Nat × Bool) : State :=
  let s1 := trapCount s e.1
  if !e.2.2 then trapNotice s1 e.1 e.2.1 false
  else if holds26 s1 e.2.1 then s1
  else { s1 with run := { s1.run with ledger := s1.run.ledger ++ [(a, .trap e.2.1)] } }

/-- The packet whose start is event e is in progress from now on, and goes on with EN 0 (R107). -/
def packetBegun (s : State) (e : Event) : State :=
  let go := fun (v q : Nat) =>
    let x := queueAt s v q
    if x.head == .idle && ((x.packets.take 1).any fun p => packetEvent v q p.ty == some e.i) && !e.arg.flag3 then modQueue s v q fun y => { y with head := .begun } else s
  match e.i with
  | .launch v q | .launchIndirect v q | .wait v q | .signal v q | .timestamp v q | .copy v q => go v q
  | _ => s

/-- The agent has been given something that `p` holds for. -/
def hasGiven (s : State) (a : Agent) (p : Given → Bool) : Bool := s.run.ledger.any fun e => e.1 == a && p e.2

/-- What agent `a`, whose step cannot be made yet at this tick, has been given in it, and when it was first due and a store of it has left (R111, R114). -/
def givenIn (a : Agent) (s t : State) : List (Agent × Given) :=
  (t.run.spent.map fun g => (a, g)) ++ (if hasGiven s a (fun g => match g with | .began _ => true | _ => false) then [] else [(a, .began s.tick.toNat)]) ++
    (if (t.run.asked.any fun e => e.1 == a && e.2.kind == .store) && !hasGiven s a (fun g => match g with | .sent _ => true | _ => false) then [(a, .sent s.tick.toNat)] else [])

/-- What a request is made for: whether it writes, its VNPU, context, memory type, home and address. -/
def requestKey : Given → Option (Bool × List Nat)
  | .read v c mt home pa _ _ _ => some (false, [v, c, mt, home, pa])
  | .write v c mt home pa _ _ _ => some (true, [v, c, mt, home, pa])
  | _ => none

/-- The requests that a step has issued take the place of those that an earlier try of it had issued for the same. -/
def replaced (new : List Given) (g : Given) : Bool := new.any fun h => (h == g && (issuedFor g).isSome) || ((requestKey g).isSome && requestKey h == requestKey g)

/-- The step of agent `a` that led from s to t cannot be made yet: of it there stay the requests made, admitted or held, sent to other modules, and their budget
traps; an event is made again at the next tick, and for lanes that wait for a fetch the cycle passes. -/
def takenBack (a : Agent) (s t : State) : State :=
  let later := match a with
    | .event e => if s.run.later.contains e then s.run.later else s.run.later ++ [e]
    | _ => s.run.later
  let s0 := match a with
    | .event e => packetBegun s e
    | .turn (.lanes c) => idleLanes s c
    | _ => s
  let s1 := { s0 with
    buckets := t.buckets
    out := { s.out with remote := t.out.remote }
    run := { s.run with later := later, asked := t.run.asked, nextTag := t.run.nextTag,
                        ledger := (s.run.ledger.filter fun e => !(e.1 == a && replaced t.run.spent e.2)) ++ givenIn a s t } }
  t.run.traps.foldl (keepTrap a) s1

/-- R482: a step of an agent that has neither used nor made a request is not the one that the agent waits to make: a cycle without its clock, or one in which its work
does not go on. An event's is. -/
def stillWaits (a : Agent) (s t : State) : Bool :=
  match a with
  | .event _ => false
  | _ => t.run.spent.isEmpty && (t.run.ledger.filter fun e => e.1 == a) == (s.run.ledger.filter fun e => e.1 == a)

/-- R456: the copy engine is within a step, whose lines behind those moved may have been asked for too (R156). -/
def midStep (a : Agent) (t : State) : Bool :=
  match a with
  | .turn (.engine core 1) => match mfind (coreAt t core).units 4 with | some u => !atStep u.cmd | none => false
  | _ => false

/-- A budget trap of a command of context c. -/
def isTrap (g : Given) : Bool := match g with | .trap _ => true | _ => false

/-- The step of agent `a` has been made: the budget traps it had met are due, and what it had been given is used up, but for what a copy within a step has been given for
the rest of it. -/
def made (a : Agent) (s t : State) : State :=
  if stillWaits a s t then t
  else
    let due := t.run.ledger.filterMap fun e => match e with | (w, .trap c) => if w = a then some c else none | _ => none
    due.foldl (fun u c => trapNotice u (ctxAt u c).v c true)
      { t with run := { t.run with ledger := t.run.ledger.filter fun e => e.1 != a || (midStep a t && !isTrap e.2) } }

/-- The end of a step of agent `a` from s that led to t. -/
def settled (a : Agent) (s t : State) : State :=
  let u := if t.run.stuck then takenBack a s t else made a s t
  began .nobody u

/-- What a step of agent `a` from s comes to. -/
def settle (a : Agent) (s : State) : Host.Outcome State Fault Refusal → Host.Outcome State Fault Refusal
  | .next t => .next (settled a s t)
  | .fault f => .fault f
  | .refused r => .refused r

end Sys2Proof.Machine
end

