-- ==== Sys2Proof/Machine/Step.lean ====
section
/-!
DEFINITION. One step of the module (log 1): the oldest input, else the turn at the head of the rota; and where the host's check stores an instruction (log 2).
-/
namespace Sys2Proof.Machine

/-- An input runs: it is taken, its operands stand in `run.arg`, and its instruction has its meaning. One that names no unit of the module stops the machine. -/
def runInput (s : State) (e : Event) (rest : List Event) : Host.Outcome State Fault Refusal :=
  let s1 := began (.event e) { s with run := { s.run with inputs := rest, arg := e.arg } }
  if e.i.wf && EventArg.fits e.i e.arg then settle (.event e) s1 (exec e.i s1) else .fault .inputIllFormed

/-- The head of the rota has its turn and goes to the end. -/
def runTurn (s : State) (t : Turn) (rest : List Turn) : Host.Outcome State Fault Refusal :=
  let s1 := began (.turn t) { s with run := { s.run with rota := rest ++ [t] } }
  match turnOf t s1 with
  | (s2, some i) => settle (.turn t) s1 (exec i s2)
  | (s2, none) => settle (.turn t) s1 (.next s2)

/-- One step. -/
def step (s : State) : Host.Outcome State Fault Refusal :=
  match s.run.inputs with
  | e :: rest => runInput s e rest
  | [] =>
    match s.run.rota with
    | t :: rest => runTurn s t rest
    | [] => .next s

/-! ## The host's check -/

/-- A page at virtual address 0, readable, writable, executable, in frame 1. -/
def probePage : TlbEntry := { v := 0, size := 0, vpn := 0, leaf := 0x10001F, set := 0, locked := false }

/-- The team that runs the probe: of VNPU 0, its image at address 0, with an open lane section for a lane word. -/
def probeCtx (lane header : Bool) : Ctx :=
  { freshCtx with
    phase := .running
    lanes := if lane && !header then
        { freshLanes with sects := [{ num := 1, hdr := 0, first := 0, stop := 4096, trips := 1, full := false, last := false, landed := 0 }] }
      else freshLanes }

/-- s with the instruction of the table's bits `w` at the address that context 0 of core 0 fetches from next: at its PC, or, for more than 32 bits, at
its lane position. No input waits and context 0 has the next turn. -/
def State.withFetchWord (s : State) (nbits w : Nat) : State :=
  let lane := decide (32 < nbits)
  let s1 := setCtx { s with dev := writeBytes s.dev 0x4000 (leBytes 12 w), railsOff := false } 0 (probeCtx lane (decide (nbits ≤ 64)))
  let s2 := modCore s1 0 fun k => { k with bank := 0, frozen := false, leaving := false, tlb := [probePage], icache := [], lcache := [] }
  { s2 with run := { s2.run with inputs := [], rota := [if lane then .lanes 0 else .seq 0] } }

end Sys2Proof.Machine
end

