-- ==== Sys2Proof/Safety.lean ====
section
/-!
DEFINITION. What a safe run is, and the terms claims use: canonical memories, a run that goes on, an instruction whose operands are at hand.
-/
namespace Sys2Proof

open Machine

/-- A context's byte memory, the record of its prologue (R117), is in its canonical form. -/
def recordWf (x : Ctx) : Bool := Memory.wf x.record

/-- The firmware's byte memories: the flash, each complex's SRAM, the mailbox. -/
def firmwareWf (f : Firmware) : Bool := Memory.wf f.flash && (f.sram.all fun e => Memory.wf e.2) && Memory.wf f.mailbox

/-- The byte memories of the management function: the frame table and contract record, as they stand and as they were submitted, and the MSI-X tables. -/
def tablesWf (s : State) : Bool :=
  Memory.wf s.frame.table && Memory.wf s.frame.submitted.2 && Memory.wf s.contracts.record && s.msix.all fun e => Memory.wf e.2

/-- Every byte memory of the state is in its canonical form: device and host memory, the scratchpads, the save areas, the records of prologues, the firmware's memories, the
tables of function 0. -/
def memoriesCanonical (s : State) : Bool :=
  Memory.wf s.dev && Memory.wf s.host && (s.cores.all fun e => Memory.wf e.2.scratch) && firmwareWf s.fw && tablesWf s &&
    (s.ctxs.all fun e => recordWf e.2) && (s.stubs.all fun e => recordWf e.2) && s.saves.all fun e => recordWf e.2.ctx && Memory.wf e.2.bytes

/-- The step from s does not stop: it answers a next state. -/
def goesOnFrom (s : State) : Prop := ∃ t, step s = .next t

/-- Instruction i of the current bank has its operands at hand (R118, R197, R333, R358, R376): outside drain mode; in a prologue, one of the
allowed instructions within the budget; `srcs` read as `vs`, taking the flits `tk` counts; the written field d is a register, or a send port
that is open and has room; no register named awaits a load. -/
structure Reads (i : Instr) (s : State) (srcs : List Reg) (d : Option Reg) (vs : List Word) (tk : SMap Nat) : Prop where
  drain : (curCtx s).drain = .off
  prologue : isPrologue s.run.cur = true → (curCtx s).count < 4096 ∧ prologueAllows i = true
  noSend : ∀ r ∈ srcs, r.toNat < 60
  dest : ∀ r, d = some r → r.toNat < 56 ∨ (60 ≤ r.toNat ∧ portOpen (curCtx s) r.toNat = true ∧ portFull s s.run.cur r.toNat = false)
  landed : ∀ r ∈ srcs ++ d.toList, mfind (curCtx s).busy r.toNat = none
  values : sources s.run.cur (curCtx s) (srcs.map (·.toNat)) = some (vs, tk)

/-- The state after an instruction that writes v to d and goes on at `next`: the flits it read are gone, d is written, it has retired. -/
def wrote (s : State) (tk : SMap Nat) (d : Reg) (v next : Word) : State :=
  retire s (writeReg (modCtx s s.run.cur fun x => takeFlits x tk) s.run.cur d.toNat v) s.run.cur next

/-- The state t after an instruction that writes no register and goes on at `next`. -/
def went (s t : State) (tk : SMap Nat) (next : Word) : State :=
  retire s (modCtx t s.run.cur fun x => takeFlits x tk) s.run.cur next

/-- The address of the instruction that follows. -/
def nextPc (s : State) : Word := (curCtx s).pc + 4

/-- Instruction i reads a and b, and writes what f gives to d. -/
def computes2 (i : Instr) (d a b : Reg) (f : Word → Word → Word) : Prop :=
  ∀ s x y tk, Reads i s [a, b] (some d) [x, y] tk → Machine.exec i s = .next (wrote s tk d (f x y) (nextPc s))

/-- Instruction i reads a, and writes what f gives to d. -/
def computes1 (i : Instr) (d a : Reg) (f : Word → Word) : Prop :=
  ∀ s x tk, Reads i s [a] (some d) [x] tk → Machine.exec i s = .next (wrote s tk d (f x) (nextPc s))

/-- Instruction i reads `srcs`, and writes to d a value related to what it read. -/
def writesSome (i : Instr) (d : Reg) (srcs : List Reg) (p : List Word → Word → Prop) : Prop :=
  ∀ s vs tk, Reads i s srcs (some d) vs tk → ∃ r, p vs r ∧ Machine.exec i s = .next (wrote s tk d r (nextPc s))

/-- Branch i compares a and b, and goes to PC + off × 4 where p holds, else to the next instruction. -/
def branches (i : Instr) (a b : Reg) (off : BitVec 14) (p : Word → Word → Prop) : Prop :=
  ∀ s x y tk, Reads i s [a, b] none [x, y] tk →
    (p x y → Machine.exec i s = .next (went s s tk ((curCtx s).pc + off.signExtend 64 * 4))) ∧
    (¬ p x y → Machine.exec i s = .next (went s s tk (nextPc s)))

/-- Instruction i ends in `yes` where p holds, and in `no` where it does not. -/
def turnsOn (i : Instr) (s : State) (p : Prop) (yes no : State) : Prop :=
  (p → Machine.exec i s = .next yes) ∧ (¬ p → Machine.exec i s = .next no)

/-- Nothing holds back an access of kind k to a plain page at ea (R48, R282, R380). -/
structure MayIssue (s : State) (k : AccKind) (ea : Word) (n : Nat) (ord : MemOrd) (mt home pa : Nat) : Prop where
  team : isTeam s.run.cur = true
  aligned : ea.toNat % n = 0
  acquired : ∀ p ∈ (curCtx s).mem, acquires p.ord = false
  released : releases ord = true → (curCtx s).mem = []
  slot : isWriteKind k = true ∨ loadsOut (curCtx s) < 16
  page : (reach s s.run.cur (chkOf k) ea).2 = .ok mt home pa false false
  still : ∀ m ∈ s.mgmt.moving, mt ≠ 0 ∨ pa < m.pa ∨ m.pa + 2 ^ pageBits m.size ≤ pa

/-- Instruction i issues an access whose address, size, operands and register are given: it stands last in the list of pending accesses, and
beside that, the register it awaits, the PC and the loop stack, nothing of the team that software sees changes; no byte of memory does. -/
def issuesAccess (i : Instr) (srcs : List Reg) (d : Option Reg) (k : AccKind) (ea : List Word → Word) (n : Nat) (value compare : List Word → Word)
    (dst : Nat) (ord : MemOrd) : Prop :=
  ∀ s vs tk mt home pa, Reads i s srcs d vs tk → MayIssue s k (ea vs) n ord mt home pa →
    ∃ t q, Machine.exec i s = .next t ∧
      (ctxAt t s.run.cur).mem = (curCtx s).mem ++ [q] ∧
      q.kind = k ∧ q.va = ea vs ∧ q.pa = pa ∧ q.mt = mt ∧ q.home = home ∧ q.bytes = n ∧ q.value = value vs ∧ q.compare = compare vs ∧
      q.dst = dst ∧ q.ord = ord ∧ q.pc = (curCtx s).pc ∧
      (∀ r, mget (ctxAt t s.run.cur).busy r 0 = if returnsKind k = true ∧ r = dst ∧ dst ≠ 0 then mget (curCtx s).busy r 0 + 1 else mget (curCtx s).busy r 0) ∧
      (ctxAt t s.run.cur).regs = (curCtx s).regs ∧ (ctxAt t s.run.cur).k = (curCtx s).k ∧ (ctxAt t s.run.cur).ctb = (curCtx s).ctb ∧
      (ctxAt t s.run.cur).lanes = (curCtx s).lanes ∧ (ctxAt t s.run.cur).accs = (curCtx s).accs ∧
      (ctxAt t s.run.cur).pc = (endCheck (curCtx s).loops (nextPc s)).2 ∧
      (∀ m, readByte t.dev m = readByte s.dev m) ∧ (∀ m, readByte t.host m = readByte s.host m)

/-! ## Lane words -/

/-- Register r of lane i. -/
def laneValue (l : Lanes) (i r : Nat) : Lane := mget l.regs (256 * i + r) 0

/-- The register a field names in lane i (R419). -/
def laneIndex (l : Lanes) (indirect : Bool) (field : BitVec 8) (i : Nat) : Nat :=
  if indirect then (laneValue l i field.toNat).toNat % 256 else field.toNat

/-- What lane i of a context reads through the a, b and c fields. -/
def laneA (x : Ctx) (f : LaneFields) (i : Nat) : Lane := laneValue x.lanes i (laneIndex x.lanes f.ia f.a i)
def laneB (x : Ctx) (f : LaneFields) (i : Nat) : Lane := laneValue x.lanes i (laneIndex x.lanes f.ib f.b i)
def laneC (x : Ctx) (f : LaneFields) (i : Nat) : Lane := laneValue x.lanes i f.c.toNat

/-- R418: lane i takes part: every lane under predicate 15, else those of the top mask, and of the predicate register that is named. -/
def laneActive (l : Lanes) (pred i : Nat) : Bool :=
  pred == 15 || ((l.masks.headD (BitVec.allOnes 64)).getLsbD i && (pred == 0 || (mget l.q (pred - 1) 0).getLsbD i))

def activeList (l : Lanes) (f : LaneFields) : List Nat := (List.range 64).filter (laneActive l f.pred.toNat)

/-- How lane i rounds (R245, R249). -/
def laneRnd (x : Ctx) (f : LaneFields) (i : Nat) : Rnd :=
  { mode := f.rnd.toNat, u := genDraw (genStep (genOf x i)), full := laneMode x.lanes, ovt := x.ovt }

/-- A lane word of op `op` may issue: it stands inside an open section, is legal, its bound is at least the minimum (R347, R350, R440); with nothing
in flight, so that every operand has landed (R414). -/
structure LaneReady (s : State) (op : Nat) (f : LaneFields) : Prop where
  inside : ∃ t r, (curCtx s).lanes.sects = t :: r ∧ (curCtx s).lanes.pos + 12 ≤ t.stop ∧ laneMinBound op t.full f ≤ f.lat.toNat + 1
  legal : laneLegal op f = true
  landed : anyOpen (curCtx s).lanes = false

/-- A section without the bound up to which its words have not landed (R393). -/
def unbound (t : Sect) : Sect := { t with landed := 0 }

/-- The cores are as they were, but for the cycle in which a lane word last issued (R472). -/
def coresStay (s t : State) : Prop := ∀ k, { coreAt t k with issued := (coreAt s k).issued } = coreAt s k

/-- What a lane word leaves alone: beside the lane state `l'`, the flags in flight included, the words of the queue it popped, and the charge. -/
def laneFrame (s t : State) (pops : Nat) : Prop :=
  let x := curCtx s
  let y := ctxAt t s.run.cur
  y.lanes.clock = x.lanes.clock + 1 ∧
  y.lanes.pos = (moveTo x.lanes (x.lanes.pos + 12)).pos ∧
  y.lanes.sects.map unbound = (moveTo x.lanes (x.lanes.pos + 12)).sects.map unbound ∧
  y.ctlq = x.ctlq.drop pops ∧
  { y with lanes := x.lanes, ecnt := x.ecnt, ctlq := x.ctlq } = x ∧
  { t with run := s.run, ctxs := s.ctxs, vnpus := s.vnpus, overhead := s.overhead, cores := s.cores } = s

/-- A word that gives each active lane a value for its d register, with flags that land with it; `rounds` says that it draws from the generators. -/
def laneGives (op : Nat) (mk : LaneFields → Instr) (rounds : Bool) (g : State → Ctx → LaneFields → Nat → Lane × LFlags) : Prop :=
  ∀ s f, LaneReady s op f → ∃ t, Machine.exec (mk f) s = .next t ∧
    let x := curCtx s
    let l := x.lanes
    let m := (ctxAt t s.run.cur).lanes
    let d := fun i => laneIndex l f.id f.d i
    (∀ i < 64, ∀ j < 256, laneValue m i j = if laneActive l f.pred.toNat i = true ∧ j = d i then (g s x f i).1 else laneValue l i j) ∧
    m.flying = ((activeList l f).filter fun i => (g s x f i).2 != 0).map (fun i => (l.clock + f.lat.toNat + 1, i, (g s x f i).2)) ∧
    (∀ i < 64, mget m.gen i (BitVec.ofNat 32 (i + 1)) =
      if rounds = true ∧ f.rnd.toNat = 5 ∧ laneActive l f.pred.toNat i = true then genStep (genOf x i) else genOf x i) ∧
    m.q = l.q ∧ m.masks = l.masks ∧ m.lst = l.lst ∧ coresStay s t ∧ laneFrame s t 0

/-- A word that writes bit i of predicate register qd in each active lane. -/
def laneTests (op : Nat) (mk : LaneFields → Instr) (p : Ctx → LaneFields → Nat → Bool) : Prop :=
  ∀ s f, LaneReady s op f → ∃ t, Machine.exec (mk f) s = .next t ∧
    let x := curCtx s
    let l := x.lanes
    let m := (ctxAt t s.run.cur).lanes
    (∀ r i, i < 64 → (mget m.q r 0).getLsbD i =
      if r = f.d.toNat ∧ laneActive l f.pred.toNat i = true then p x f i else (mget l.q r 0).getLsbD i) ∧
    m.regs = l.regs ∧ m.gen = l.gen ∧ m.masks = l.masks ∧ m.lst = l.lst ∧ m.flying = [] ∧ coresStay s t ∧ laneFrame s t 0

/-- 2 to the power e. -/
def pow2 (e : Int) : Rat := if 0 ≤ e then ((2 ^ e.toNat : Nat) : Rat) else 1 / ((2 ^ (-e).toNat : Nat) : Rat)

/-- (−1)^neg × m × 2^e. -/
def dyadic (neg : Bool) (m : Nat) (e : Int) : Rat := (if neg then (-1 : Rat) else 1) * (m : Rat) * pow2 e

/-- A number truncated towards zero. -/
def truncR (x : Rat) : Int := if x < 0 then -(-x).floor else x.floor

/-- R243, R244: z is x rounded to a multiple of `h` in a mode, and NX says whether they differ; `even` holds of the neighbour that a tie of RNE takes. -/
def gridRounded (mode : Nat) (h x z : Rat) (even : Prop) (fl : LFlags) : Prop :=
  (z - x).abs < h ∧ (fl &&& flNX = 0 ↔ z = x) ∧ (mode = 0 ∨ mode = 4 → 2 * (z - x).abs ≤ h) ∧ (mode = 0 → 2 * (z - x).abs = h → even) ∧
  (mode = 1 → z.abs ≤ x.abs) ∧ (mode = 2 → z ≤ x) ∧ (mode = 3 → x ≤ z) ∧ (mode = 4 → 2 * (z - x).abs = h → x.abs ≤ z.abs)

/-- R253: y is x rounded once to the integers of w bits, and clamped to them with SAT. -/
def intRounded (w mode : Nat) (x : Rat) (y : Lane × LFlags) : Prop :=
  let z : Rat := (y.1.toInt : Rat)
  let hi : Rat := pow2 ((w : Int) - 1) - 1
  let lo : Rat := -pow2 ((w : Int) - 1)
  lo ≤ z ∧ z ≤ hi ∧ (y.2 &&& flSAT = 0 → gridRounded mode 1 x z (y.1.toInt % 2 = 0) y.2) ∧
  (y.2 &&& flSAT ≠ 0 → y.2 = flSAT ||| flNX ∧ ((z = hi ∧ hi < x) ∨ (z = lo ∧ x < lo)))

/-- The value of a legal block scale (R241). -/
def scaleR (sc : Nat) : Rat := dyadic false (scaleVal sc).1 (scaleVal sc).2

/-- R255: sc is the least legal scale that is at least v. -/
def leastScale (v : Rat) (sc : Nat) : Prop :=
  sc < 2 ^ 16 ∧ legalScale sc = true ∧ v ≤ scaleR sc ∧ ∀ k < 2 ^ 16, legalScale k = true → v ≤ scaleR k → sc ≤ k

/-- R256, R431: the magnitude of an FP32 value in a block: that of the largest finite value for an infinity, 0 for a NaN. -/
def blockMag (full : Bool) (x : Nat) : Rat :=
  match inputF 0 full x with
  | .nan => 0
  | .inf _ => dyadic false 0xFFFFFF 104
  | .fin _ m e => dyadic false m e

/-! ## Engine commands -/

/-- A matrix command may start on its unit (R183, R293, R356, R444, R446). -/
structure MatrixReady (s : State) (i : Instr) (unit : Nat) (useA useB : Bool) : Prop where
  words : wordBad 0 (partsOf i).2.2 0 useA useB = false
  fresh : (headCmd s s.run.cur 0 i).steps = 0
  may : mayStart s s.run.cur = true
  waits : matrixWaits s s.run.cur unit i = false
  locks : lockFree s (runOf s s.run.cur (headCmd s s.run.cur 0 i)) = true
  owners : ownersOk s s.run.cur 0 (partsOf i).2.2 useA useB = true
  spilled : ∀ a, namedSet i = some a → heldByEvicted s s.run.cur (physSet (curCtx s) a) = false

/-- The command i of context c stands started in a unit. -/
def startedIn (t : State) (c unit : Nat) (i : Instr) : Prop :=
  ∃ u, unitOf t (coreOf c) unit = some u ∧ u.ctx = c ∧ u.cmd.cmd = i

/-- The command i of context c stands started in a unit with its first n rows done. -/
def rowsDone (t : State) (c unit : Nat) (i : Instr) (n : Nat) : Prop :=
  ∃ u, unitOf t (coreOf c) unit = some u ∧ u.ctx = c ∧ u.cmd.cmd = i ∧ u.cmd.steps = n

/-- What the start of a matrix command leaves alone: memories but the scratchpad, registers, counters, the granules' owners. -/
def engineFrame (s t : State) : Prop :=
  let c := s.run.cur
  let x := curCtx s
  t.dev = s.dev ∧ t.host = s.host ∧ (∀ k, k ≠ coreOf c → coreAt t k = coreAt s k) ∧ (coreAt t (coreOf c)).owner = (coreAt s (coreOf c)).owner ∧
  (ctxAt t c).regs = x.regs ∧ (ctxAt t c).k = x.k ∧ (ctxAt t c).ctb = x.ctb ∧ (ctxAt t c).pc = x.pc ∧ (ctxAt t c).lanes = x.lanes ∧
  (∀ e, e ≠ 0 → mget (ctxAt t c).cmdq e [] = mget x.cmdq e [])

/-- A copy command of code op may start (R444, R455 to R458): its words and its records are good, its unit and its granules are free and owned. -/
structure CopyReady (s : State) (i : Instr) (e : EngineFields) (op : Nat) (mem : Bool) (q : QCmd) : Prop where
  words : wordBad 1 e (if op = 0x15 then 1 else 0) (copyUses op mem).1 (copyUses op mem).2 = false
  wordA : op = 0x14 ∨ op = 0x16 ∨ wbits e.wa 23 0 = 0
  fresh : (headCmd s s.run.cur 1 i).walk = []
  taken : takeCopy s s.run.cur op mem e (headCmd s s.run.cur 1 i) = .ok q
  may : mayStart s s.run.cur = true
  unit : unitOf s (coreOf s.run.cur) 4 = none
  peer : peerFrozen s s.run.cur op e = false
  locks : lockFree s (runOf s s.run.cur q) = true
  owners : copyOwners s s.run.cur op mem e q = true
  apart : overlapFault op (copyWalks op q) = false

/-! ## Events -/

/-- Instruction i at s answers a next state of which P holds. -/
def gives (i : Instr) (s : State) (P : State → Prop) : Prop := ∃ t, Machine.exec i s = .next t ∧ P t

/-- Event i stands among the inputs of t. -/
def asks (t : State) (i : Instr) : Prop := ({ i := i, arg := noArg } : Event) ∈ t.run.inputs

/-- Device and host memory are unchanged. -/
def memoriesStay (s t : State) : Prop := t.dev = s.dev ∧ t.host = s.host

/-- Teams, cores and memories are unchanged. -/
def teamsStay (s t : State) : Prop := t.ctxs = s.ctxs ∧ coresStay s t ∧ memoriesStay s t

/-- A queue's head packet is gone, and nothing else of the queue has changed. -/
def headGone (s t : State) (v q : Nat) : Prop :=
  queueAt t v q = { queueAt s v q with packets := (queueAt s v q).packets.drop 1, head := .idle }

/-- MSI-X vectors l (function, vector) have been raised since s, and nothing else: the unmasked ones are sent, the masked ones pend in the PBA (R30, R32). -/
def raised (s t : State) (l : List (Nat × Nat)) : Prop :=
  t.out.vectors = s.out.vectors ++ l.filter (fun e => !masked s e.1 e.2) ∧
  ∀ fn, mget t.pba fn 0 = (l.filter fun e => e.1 == fn && masked s e.1 e.2).foldl (fun m e => m ||| (1#64 <<< e.2)) (mget s.pba fn 0)

/-- Vector vec of function fn has been raised: it is sent, or pends where it is masked. -/
def signalled (s t : State) (fn vec : Nat) : Prop :=
  if masked s fn vec then mget t.pba fn 0 &&& (1#64 <<< vec) ≠ 0 else (fn, vec) ∈ t.out.vectors

end Sys2Proof
end

