-- ==== Sys2Proof/Certificates/Slice0/Obligations.lean ====
section
/-!
DEFINITION. The statements about the machine: one definition per obligation.
-/
open Sys2Proof Sys2Proof.Machine

/-- R360: the integer group, each function's result. -/
def Claims.IntegerGroupResults : Prop := ∀ d a b : Reg,
  computes2 (.add d a b) d a b (fun x y => x + y) ∧
  computes2 (.sub d a b) d a b (fun x y => x - y) ∧
  computes2 (.mul d a b) d a b (fun x y => x * y) ∧
  computes2 (.mulh d a b) d a b (fun x y => (x.signExtend 128 * y.signExtend 128).extractLsb' 64 64) ∧
  computes2 (.mulhu d a b) d a b (fun x y => (x.setWidth 128 * y.setWidth 128).extractLsb' 64 64) ∧
  computes2 (.and d a b) d a b (fun x y => x &&& y) ∧
  computes2 (.or d a b) d a b (fun x y => x ||| y) ∧
  computes2 (.xor d a b) d a b (fun x y => x ^^^ y) ∧
  computes2 (.andn d a b) d a b (fun x y => x &&& ~~~y) ∧
  computes2 (.orn d a b) d a b (fun x y => x ||| ~~~y) ∧
  computes2 (.sll d a b) d a b (fun x y => x <<< (y.toNat % 64)) ∧
  computes2 (.srl d a b) d a b (fun x y => x >>> (y.toNat % 64)) ∧
  computes2 (.sra d a b) d a b (fun x y => x.sshiftRight (y.toNat % 64)) ∧
  computes2 (.ror d a b) d a b (fun x y => x.rotateRight (y.toNat % 64)) ∧
  computes2 (.min d a b) d a b (fun x y => if x.toInt < y.toInt then x else y) ∧
  computes2 (.max d a b) d a b (fun x y => if y.toInt < x.toInt then x else y) ∧
  computes2 (.minu d a b) d a b (fun x y => if x.toNat < y.toNat then x else y) ∧
  computes2 (.maxu d a b) d a b (fun x y => if y.toNat < x.toNat then x else y) ∧
  computes2 (.slt d a b) d a b (fun x y => if x.toInt < y.toInt then 1 else 0) ∧
  computes2 (.sltu d a b) d a b (fun x y => if x.toNat < y.toNat then 1 else 0) ∧
  computes2 (.seq d a b) d a b (fun x y => if x = y then 1 else 0) ∧
  (∀ sh, computes2 (.shadd d a b sh) d a b (fun x y => (x <<< sh.toNat) + y)) ∧
  (∀ s x y old tk, Reads (.sel d a b) s [a, b, d] (some d) [x, y, old] tk →
    Machine.exec (.sel d a b) s = .next (wrote s tk d (if old = 0 then y else x) (nextPc s)))

/-- R361: the quotient rounds towards zero, the remainder takes the dividend's sign and dividend = quotient × divisor + remainder; the two
fixed cases. -/
def Obligations.DivisionResults : Prop := ∀ d a b : Reg,
  writesSome (.div d a b) d [a, b] (fun vs q => ∀ x y, vs = [x, y] →
    (y = 0 → q = BitVec.allOnes 64) ∧
    (x.toInt = -2 ^ 63 ∧ y.toInt = -1 → q.toNat = 2 ^ 63) ∧
    (y ≠ 0 ∧ ¬ (x.toInt = -2 ^ 63 ∧ y.toInt = -1) →
      ∃ r : Int, x.toInt = q.toInt * y.toInt + r ∧ r.natAbs < y.toInt.natAbs ∧ (r ≠ 0 → (r < 0 ↔ x.toInt < 0)))) ∧
  writesSome (.rem d a b) d [a, b] (fun vs r => ∀ x y, vs = [x, y] →
    (y = 0 → r = x) ∧
    (x.toInt = -2 ^ 63 ∧ y.toInt = -1 → r = 0) ∧
    (y ≠ 0 → ∃ q : Int, x.toInt = q * y.toInt + r.toInt ∧ r.toInt.natAbs < y.toInt.natAbs ∧ (r ≠ 0 → (r.toInt < 0 ↔ x.toInt < 0)))) ∧
  writesSome (.divu d a b) d [a, b] (fun vs q => ∀ x y, vs = [x, y] →
    (y = 0 → q = BitVec.allOnes 64) ∧ (y ≠ 0 → ∃ r, x.toNat = q.toNat * y.toNat + r ∧ r < y.toNat)) ∧
  writesSome (.remu d a b) d [a, b] (fun vs r => ∀ x y, vs = [x, y] →
    (y = 0 → r = x) ∧ (y ≠ 0 → r.toNat < y.toNat ∧ ∃ q, x.toNat = q * y.toNat + r.toNat))

/-- R362, R363: the bit group and the bit fields, bit by bit. -/
def Claims.BitInstructionResults : Prop := ∀ d a b : Reg,
  writesSome (.clz d a) d [a] (fun vs r => ∀ x, vs = [x] →
    (x = 0 → r = 64) ∧ (x ≠ 0 → r.toNat < 64 ∧ x.getMsbD r.toNat = true ∧ ∀ j < r.toNat, x.getMsbD j = false)) ∧
  writesSome (.ctz d a) d [a] (fun vs r => ∀ x, vs = [x] →
    (x = 0 → r = 64) ∧ (x ≠ 0 → r.toNat < 64 ∧ x.getLsbD r.toNat = true ∧ ∀ j < r.toNat, x.getLsbD j = false)) ∧
  writesSome (.popc d a) d [a] (fun vs r => ∀ x, vs = [x] → r.toNat = ((List.range 64).filter fun j => x.getLsbD j).length) ∧
  writesSome (.brev d a) d [a] (fun vs r => ∀ x, vs = [x] → ∀ j < 64, r.getLsbD j = x.getLsbD (63 - j)) ∧
  writesSome (.bswap d a) d [a] (fun vs r => ∀ x, vs = [x] → ∀ j < 8, r.extractLsb' (8 * j) 8 = x.extractLsb' (8 * (7 - j)) 8) ∧
  writesSome (.sext d a b) d [a, b] (fun vs r => ∀ x y, vs = [x, y] → ∀ w, w = y.toNat % 128 →
    (w = 0 → r = 0) ∧ (64 ≤ w → r = x) ∧ (0 < w ∧ w < 64 → r = (x.setWidth w).signExtend 64)) ∧
  writesSome (.zext d a b) d [a, b] (fun vs r => ∀ x y, vs = [x, y] → ∀ w, w = y.toNat % 128 →
    (64 ≤ w → r = x) ∧ (w < 64 → r = (x.setWidth w).setWidth 64)) ∧
  (∀ pos wid : BitVec 6, pos.toNat + wid.toNat + 1 ≤ 64 →
    writesSome (.extr d a pos wid) d [a] (fun vs r => ∀ x, vs = [x] →
      ∀ j < 64, r.getLsbD j = (decide (j < wid.toNat + 1) && x.getLsbD (pos.toNat + j))) ∧
    writesSome (.insr d a pos wid) d [a, d] (fun vs r => ∀ x old, vs = [x, old] →
      ∀ j < 64, r.getLsbD j = if pos.toNat ≤ j ∧ j < pos.toNat + wid.toNat + 1 then x.getLsbD (j - pos.toNat) else old.getLsbD j))

/-- R364, R365: the immediates. -/
def Claims.ImmediateResults : Prop := ∀ (d a : Reg) (imm : BitVec 14) (sh : BitVec 6) (u : BitVec 20),
  computes1 (.addi d a imm) d a (fun x => x + imm.signExtend 64) ∧
  computes1 (.andi d a imm) d a (fun x => x &&& imm.signExtend 64) ∧
  computes1 (.ori d a imm) d a (fun x => x ||| imm.signExtend 64) ∧
  computes1 (.xori d a imm) d a (fun x => x ^^^ imm.signExtend 64) ∧
  computes1 (.slti d a imm) d a (fun x => if x.toInt < imm.toInt then 1 else 0) ∧
  computes1 (.sltiu d a imm) d a (fun x => if x.toNat < (imm.signExtend 64).toNat then 1 else 0) ∧
  computes1 (.slli d a sh) d a (fun x => x <<< sh.toNat) ∧
  computes1 (.srli d a sh) d a (fun x => x >>> sh.toNat) ∧
  computes1 (.srai d a sh) d a (fun x => x.sshiftRight sh.toNat) ∧
  (∀ s tk, Reads (.lui d u) s [] (some d) [] tk → Machine.exec (.lui d u) s = .next (wrote s tk d (u.signExtend 64 * 2 ^ 14) (nextPc s))) ∧
  (∀ s tk, Reads (.pcadd d u) s [] (some d) [] tk →
    Machine.exec (.pcadd d u) s = .next (wrote s tk d ((curCtx s).pc + u.signExtend 64 * 2 ^ 14) (nextPc s)))

/-- R366: the branches. -/
def Claims.BranchTargets : Prop := ∀ (a b : Reg) (off : BitVec 14),
  branches (.beq a b off) a b off (fun x y => x = y) ∧
  branches (.bne a b off) a b off (fun x y => x ≠ y) ∧
  branches (.blt a b off) a b off (fun x y => x.toInt < y.toInt) ∧
  branches (.bge a b off) a b off (fun x y => y.toInt ≤ x.toInt) ∧
  branches (.bltu a b off) a b off (fun x y => x.toNat < y.toNat) ∧
  branches (.bgeu a b off) a b off (fun x y => y.toNat ≤ x.toNat)

/-- R367, R368: the jumps; a misaligned target of JR traps with 0x17. -/
def Claims.JumpTargets : Prop :=
  (∀ (off : BitVec 26) s tk, Reads (.j off) s [] none [] tk →
    Machine.exec (.j off) s = .next (went s s tk ((curCtx s).pc + off.signExtend 64 * 4))) ∧
  (∀ (off : BitVec 26) s tk, Reads (.jal off) s [] (some 55) [] tk →
    Machine.exec (.jal off) s = .next (wrote s tk 55 (nextPc s) ((curCtx s).pc + off.signExtend 64 * 4))) ∧
  (∀ (d a : Reg) (imm : BitVec 14) s x tk, Reads (.jr d a imm) s [a] (some d) [x] tk →
    ((x + imm.signExtend 64 * 4).toNat % 4 = 0 →
      Machine.exec (.jr d a imm) s = .next (wrote s tk d (nextPc s) (x + imm.signExtend 64 * 4))) ∧
    ((x + imm.signExtend 64 * 4).toNat % 4 ≠ 0 →
      Machine.exec (.jr d a imm) s = .next (takeTrap s s.run.cur 0x17 (x + imm.signExtend 64 * 4))))

/-- R372, R374: LOOP and LEXIT on the loop stack, and where they trap. -/
def Claims.LoopInstructions : Prop :=
  (∀ (a : Reg) (off : BitVec 14) s n tk, Reads (.loop a off) s [a] none [n] tk →
    let x := curCtx s
    let e := x.pc + 4 + 4 * off.setWidth 64
    let l := match x.loops with | t :: r => if t.la = x.pc then r else x.loops | [] => []
    let bad := match l with | t :: _ => decide (t.b.toNat ≤ x.pc.toNat ∧ x.pc.toNat < t.e.toNat ∧ t.e.toNat < e.toNat) | [] => false
    (bad = true → Machine.exec (.loop a off) s = .next (takeTrap s s.run.cur 0x01 0)) ∧
    (bad = false → n = 0 → Machine.exec (.loop a off) s = .next (went s (setCtx s s.run.cur { x with loops := l }) tk e)) ∧
    (bad = false → n ≠ 0 → 8 ≤ l.length → Machine.exec (.loop a off) s = .next (takeTrap s s.run.cur 0x01 0)) ∧
    (bad = false → n ≠ 0 → l.length < 8 → Machine.exec (.loop a off) s =
      .next (went s (setCtx s s.run.cur { x with loops := { la := x.pc, b := x.pc + 4, e := e, rem := n } :: l }) tk (x.pc + 4)))) ∧
  (∀ s tk, Reads .lexit s [] none [] tk →
    ((curCtx s).loops = [] → Machine.exec .lexit s = .next (takeTrap s s.run.cur 0x01 0)) ∧
    (∀ t r, (curCtx s).loops = t :: r →
      Machine.exec .lexit s = .next (went s (setCtx s s.run.cur { curCtx s with loops := r }) tk t.e)))

/-- R373: the end check compares addresses only, ends or repeats loops from the innermost on, and is made of every instruction that retires; a loop-back retires
nothing more and is not charged. -/
def Claims.EndCheckFollowsR373 : Prop :=
  (∀ next, endCheck [] next = ([], next)) ∧
  (∀ (t : LoopEntry) r next,
    (next ≠ t.e → endCheck (t :: r) next = (t :: r, next)) ∧
    (next = t.e → 1 < t.rem.toNat → endCheck (t :: r) next = ({ t with rem := t.rem - 1 } :: r, t.b)) ∧
    (next = t.e → t.rem.toNat ≤ 1 → endCheck (t :: r) next = endCheck r next)) ∧
  (∀ s0 s c next, (ctxAt s c).drain = .off →
    (ctxAt (retire s0 s c next) c).pc = (endCheck (ctxAt s c).loops next).2 ∧
    (ctxAt (retire s0 s c next) c).loops = (endCheck (ctxAt s c).loops next).1 ∧
    (ctxAt (retire s0 s c next) c).count = (ctxAt s c).count + 1 ∧
    ∀ other, (ctxAt (retire s0 s c other) c).ecnt = (ctxAt (retire s0 s c next) c).ecnt)

/-- The frame of the instructions that write one register or none (R7, R333, R360 to R368): beside the register, the flits read and sent,
the PC with the loop stack, the charge and the count of instructions, nothing of the state changes. -/
def Obligations.RegisterInstructionFrame : Prop := ∀ (s : State) (tk : SMap Nat) (d : Reg) (v next : Word),
  (curCtx s).drain = .off → d.toNat < 56 ∨ 60 ≤ d.toNat →
    let t := wrote s tk d v next
    let x := curCtx s
    let y := ctxAt t s.run.cur
    (∀ r, r ≠ d.toNat → mget y.regs r 0 = mget x.regs r 0) ∧
    (d.toNat = 0 ∨ 60 ≤ d.toNat → y.regs = x.regs) ∧
    (0 < d.toNat ∧ d.toNat < 56 → mget y.regs d.toNat 0 = v) ∧
    (d.toNat < 60 → y.tx = x.tx) ∧
    (∀ n, d.toNat ≠ 60 + n → mget y.tx n [] = mget x.tx n []) ∧
    (∀ n, d.toNat = 60 + n → (mget y.tx n []).map (·.value) = (mget x.tx n []).map (·.value) ++ [v]) ∧
    { y with regs := x.regs, rx := x.rx, tx := x.tx, pc := x.pc, loops := x.loops, wait := x.wait, leftWait := x.leftWait, count := x.count, ecnt := x.ecnt } = x ∧
    (∀ c, c ≠ s.run.cur → ctxAt t c = ctxAt s c) ∧
    (∀ w, w ≠ x.v → vnpuAt t w = vnpuAt s w) ∧
    { vnpuAt t x.v with eused := (vnpuAt s x.v).eused, exhausted := (vnpuAt s x.v).exhausted } = vnpuAt s x.v ∧
    (∃ l, t.run = { s.run with inputs := s.run.inputs ++ l }) ∧
    (∀ a, readByte t.dev a = readByte s.dev a) ∧ (∀ a, readByte t.host a = readByte s.host a) ∧
    { t with run := s.run, ctxs := s.ctxs, vnpus := s.vnpus, overhead := s.overhead } = s

/-- R380 to R382, R387, R388, R390: an aligned access of a team that nothing holds back, to a plain page, is issued: it stands last in the
team's list with its address and operands, its register awaits the reply, and the instruction retires. -/
def Claims.MemoryInstructionsIssue : Prop := ∀ (d a b : Reg) (size : MemSize) (off : BitVec 12) (op : AmoOp) (wide : Bool) (ord : MemOrd),
  issuesAccess (.ld d a size off) [a] (some d) .load (fun v => val0 v + off.signExtend 64 * BitVec.ofNat 64 (sizeBytes size)) (sizeBytes size)
    (fun _ => 0) (fun _ => 0) d.toNat .plain ∧
  issuesAccess (.st b a size off) [a, b] none .store (fun v => val0 v + off.signExtend 64 * BitVec.ofNat 64 (sizeBytes size)) (sizeBytes size)
    (fun v => val1 v) (fun _ => 0) 0 .plain ∧
  issuesAccess (.pref a off) [a] none .pref (fun v => val0 v + off.signExtend 64 * 8) 1 (fun _ => 0) (fun _ => 0) 0 .plain ∧
  issuesAccess (.amo d a b op wide ord) [a, b] (some d) (.amo op) (fun v => val0 v) (if wide then 8 else 4) (fun v => val1 v) (fun _ => 0)
    d.toNat ord ∧
  issuesAccess (.cas d a b wide ord) [a, b, d] (some d) .cas (fun v => val0 v) (if wide then 8 else 4) (fun v => val1 v) (fun v => val2 v)
    d.toNat ord ∧
  issuesAccess (.ldacq d a size ord) [a] (some d) .ldacq (fun v => val0 v) (sizeBytes size) (fun _ => 0) (fun _ => 0) d.toNat ord ∧
  issuesAccess (.strel a b size ord) [a, b] none .strel (fun v => val0 v) (sizeBytes size) (fun v => val1 v) (fun _ => 0) 0 ord

/-- R380, R203, R118: an access that is not aligned to its size traps with 0x17 at its address, whatever context runs it; but a prologue's store outside its
record window cancels it with 0x0A, aligned or not. -/
def Claims.MisalignedAccessTraps : Prop := ∀ (d a b : Reg) (size : MemSize) (off : BitVec 12) (op : AmoOp) (wide : Bool) (ord : MemOrd)
    (s : State) (x y z : Word) (tk : SMap Nat),
  let ea := x + off.signExtend 64 * BitVec.ofNat 64 (sizeBytes size)
  (Reads (.ld d a size off) s [a] (some d) [x] tk → ea.toNat % sizeBytes size ≠ 0 →
    Machine.exec (.ld d a size off) s = .next (takeTrap s s.run.cur 0x17 ea)) ∧
  (Reads (.st b a size off) s [a, b] none [x, y] tk → ea.toNat % sizeBytes size ≠ 0 →
    isPrologue s.run.cur = false ∨ inWindow ea.toNat (sizeBytes size) = true → Machine.exec (.st b a size off) s = .next (takeTrap s s.run.cur 0x17 ea)) ∧
  (Reads (.st b a size off) s [a, b] none [x, y] tk → isPrologue s.run.cur = true → inWindow ea.toNat (sizeBytes size) = false →
    Machine.exec (.st b a size off) s = .next (cancelPrologue s s.run.cur 0x0A)) ∧
  (Reads (.amo d a b op wide ord) s [a, b] (some d) [x, y] tk → x.toNat % (if wide then 8 else 4) ≠ 0 →
    Machine.exec (.amo d a b op wide ord) s = .next (takeTrap s s.run.cur 0x17 x)) ∧
  (Reads (.cas d a b wide ord) s [a, b, d] (some d) [x, y, z] tk → x.toNat % (if wide then 8 else 4) ≠ 0 →
    Machine.exec (.cas d a b wide ord) s = .next (takeTrap s s.run.cur 0x17 x)) ∧
  (Reads (.ldacq d a size ord) s [a] (some d) [x] tk → x.toNat % sizeBytes size ≠ 0 →
    Machine.exec (.ldacq d a size ord) s = .next (takeTrap s s.run.cur 0x17 x)) ∧
  (Reads (.strel a b size ord) s [a, b] none [x, y] tk → x.toNat % sizeBytes size ≠ 0 →
    Machine.exec (.strel a b size ord) s = .next (takeTrap s s.run.cur 0x17 x))

/-- R24, R48, R55, R56, R61, R121, R379 and log 16: a firmware core's LD reads, and its ST writes, the bytes of its complex's SRAM where the address lies in it (with the
mailbox, and the standby's state table), else of a boot mailbox, which ST leaves, else of device memory (a remapped frame's in its spare, R234), and nothing else of any; a LOST line
traps with 0x25, and a page that is being moved makes the core wait. Where the SRAM and the mailboxes lie and the direct addressing are the model's readings. -/
def Claims.FirmwareCoreAccesses : Prop := ∀ (d a b : Reg) (size : MemSize) (off : BitVec 12) (s : State) (x y : Word) (tk : SMap Nat),
  let c := s.run.cur
  let ea := x + off.signExtend 64 * BitVec.ofNat 64 (sizeBytes size)
  let n := sizeBytes size
  let pa := ea.toNat % 2 ^ 46
  let at' := servedAddr s pa
  let ram := sramView s (dieOfCtx c)
  let waits := modCtx s c fun x => { x with wait := .held }
  isFw c = true → ea.toNat % n = 0 →
  (Reads (.ld d a size off) s [a] (some d) [x] tk → d.toNat < 56 →
    (∀ o, sramOff ea = some o → ∃ t, Machine.exec (.ld d a size off) s = .next t ∧
      (∀ r, mget (ctxAt t c).regs r 0 = if r = d.toNat ∧ r ≠ 0 then BitVec.ofNat 64 (readLe ram o n) else mget (curCtx s).regs r 0) ∧
      t.fw = s.fw ∧ memoriesStay s t) ∧
    (∀ e o, sramOff ea = none → bootMailOff ea = some (e, o) → ∃ t, Machine.exec (.ld d a size off) s = .next t ∧
      (∀ r, mget (ctxAt t c).regs r 0 = if r = d.toNat ∧ r ≠ 0 then BitVec.ofNat 64 (leNat (((wordsToBytes (ctxAt s e).bootMail).drop o).take n))
        else mget (curCtx s).regs r 0) ∧
      t.fw = s.fw ∧ memoriesStay s t) ∧
    (sramOff ea = none → bootMailOff ea = none → pageMoving s 0 pa = true → Machine.exec (.ld d a size off) s = .next waits) ∧
    (sramOff ea = none → bootMailOff ea = none → pageMoving s 0 pa = false → lostLine s pa = false → ∃ t, Machine.exec (.ld d a size off) s = .next t ∧
      (∀ r, mget (ctxAt t c).regs r 0 = if r = d.toNat ∧ r ≠ 0 then BitVec.ofNat 64 (readLe s.dev at' n) else mget (curCtx s).regs r 0) ∧
      t.fw = s.fw ∧ memoriesStay s t) ∧
    (sramOff ea = none → bootMailOff ea = none → pageMoving s 0 pa = false → lostLine s pa = true →
      Machine.exec (.ld d a size off) s = .next (takeTrap s c 0x25 ea))) ∧
  (Reads (.st b a size off) s [a, b] none [x, y] tk →
    (∀ o, sramOff ea = some o → Memory.wf ram = true → ∃ t, Machine.exec (.st b a size off) s = .next t ∧
      (let m := mget t.fw.sram (dieOfCtx c) []
       readLe m o n = y.toNat % 2 ^ (8 * n) ∧ (∀ i, i < o ∨ o + n ≤ i → readByte m i = readByte ram i) ∧
       (dieOfCtx c = activeDie s → ∀ i < 512, readByte t.fw.mailbox i = readByte m (mailOff + i))) ∧
      (ctxAt t c).regs = (curCtx s).regs ∧ memoriesStay s t) ∧
    (∀ e o, sramOff ea = none → bootMailOff ea = some (e, o) → Machine.exec (.st b a size off) s = .next (went s s tk (nextPc s))) ∧
    (sramOff ea = none → bootMailOff ea = none → pageMoving s 0 pa = true → Machine.exec (.st b a size off) s = .next waits) ∧
    (sramOff ea = none → bootMailOff ea = none → pageMoving s 0 pa = false → lostLine s pa = false → Memory.wf s.dev = true → ∃ t, Machine.exec (.st b a size off) s = .next t ∧
      readLe t.dev at' n = y.toNat % 2 ^ (8 * n) ∧
      (∀ m, m < at' ∨ at' + n ≤ m → readByte t.dev m = readByte s.dev m) ∧
      (ctxAt t c).regs = (curCtx s).regs ∧ t.host = s.host ∧ t.fw = s.fw) ∧
    (sramOff ea = none → bootMailOff ea = none → pageMoving s 0 pa = false → lostLine s pa = true →
      Machine.exec (.st b a size off) s = .next (takeTrap s c 0x25 ea)))

/-- R391: a FENCE that has nothing to wait for retires and does nothing else; one that must wait leaves the instruction to run again. -/
def Claims.FenceWaitsForEarlierAccesses : Prop := ∀ (ord : MemOrd) (s : State) (tk : SMap Nat), Reads (.fence ord) s [] none [] tk →
  ((curCtx s).mem = [] → Machine.exec (.fence ord) s = .next (went s s tk (nextPc s))) ∧
  (∀ p ∈ (curCtx s).mem, fenceCore ord = false → (releases ord = true ∨ returnsKind p.kind = true) →
    Machine.exec (.fence ord) s = .next (modCtx s s.run.cur fun x => { x with wait := .loads }))

/-- R286, R381: LDSP and STSP in the team's granules that the thread owns. A byte with no lane store in flight to it reads as it stands. -/
def Claims.ScratchpadInstructions : Prop := ∀ (d a b : Reg) (size : MemSize) (off : BitVec 12) (s : State) (x y : Word) (tk : SMap Nat),
  let c := s.run.cur
  let n := sizeBytes size
  let ea := x + off.signExtend 64 * BitVec.ofNat 64 n
  isTeam c = true → ea.toNat % n = 0 → ea.toNat < 4096 * (curCtx s).gran.length → granuleOwner s c (ea.toNat / 4096) = 0 →
  (Reads (.ldsp d a size off) s [a] (some d) [x] tk → (∀ i < n, laneStoreOpen (curCtx s) (ea.toNat + i) = false) →
    Machine.exec (.ldsp d a size off) s = .next (wrote s tk d (BitVec.ofNat 64 (leNat (scratchBytes s c ea.toNat n))) (nextPc s))) ∧
  (Reads (.ldsp d a size off) s [a] (some d) [x] tk → ∃ (v : Word) (u : State), { u with run := s.run } = s ∧ v.toNat < 2 ^ (8 * n) ∧
    (∀ i < n, laneStoreOpen (curCtx s) (ea.toNat + i) = false → v.extractLsb' (8 * i) 8 = scratchByte s c (ea.toNat + i)) ∧
    Machine.exec (.ldsp d a size off) s =
      .next (retire s (writeReg (modCtx u c fun y => takeFlits y tk) c d.toNat v) c (nextPc s))) ∧
  (Reads (.stsp b a size off) s [a, b] none [x, y] tk → Memory.wf (coreAt s (coreOf c)).scratch = true →
    ∃ t, Machine.exec (.stsp b a size off) s = .next t ∧
      scratchBytes t c ea.toNat n = natLe n y.toNat ∧
      (∀ m, (∀ i < n, m ≠ physByte (curCtx s) (ea.toNat + i)) →
        readByte (coreAt t (coreOf c)).scratch m = readByte (coreAt s (coreOf c)).scratch m) ∧
      (∀ k, k ≠ coreOf c → coreAt t k = coreAt s k) ∧
      (∀ m, readByte t.dev m = readByte s.dev m) ∧ (∀ m, readByte t.host m = readByte s.host m) ∧
      (ctxAt t c).regs = (curCtx s).regs ∧ (ctxAt t c).k = (curCtx s).k ∧ (ctxAt t c).ctb = (curCtx s).ctb ∧
      (ctxAt t c).pc = (endCheck (curCtx s).loops (nextPc s)).2)

/-- R381: where LDSP and STSP trap: 0x17 for a misaligned address, then 0x20 outside the allotment or in a granule the thread does not own. -/
def Claims.ScratchpadTraps : Prop := ∀ (d a b : Reg) (size : MemSize) (off : BitVec 12) (s : State) (x y : Word) (tk : SMap Nat),
  let c := s.run.cur
  let n := sizeBytes size
  let ea := x + off.signExtend 64 * BitVec.ofNat 64 n
  let cause := if ea.toNat % n ≠ 0 then 0x17 else 0x20
  isTeam c = true → ea.toNat % n ≠ 0 ∨ 4096 * (curCtx s).gran.length ≤ ea.toNat ∨ granuleOwner s c (ea.toNat / 4096) ≠ 0 →
  (Reads (.ldsp d a size off) s [a] (some d) [x] tk → Machine.exec (.ldsp d a size off) s = .next (takeTrap s c cause ea)) ∧
  (Reads (.stsp b a size off) s [a, b] none [x, y] tk → Machine.exec (.stsp b a size off) s = .next (takeTrap s c cause ea))

/-- R383 to R386: the residency instructions retire, with no fault; beside the caches and what the reads cost (ECNT, a budget notice due), only SKIP and PINOV of the team
may rise. Of a range of at most 1 MiB, IUNPIN leaves no line pinned by the bank when SKIP does not stand after it (a line that fails the fetch check is skipped and keeps its
pin); IPIN, when neither flag stands after it, leaves every line pinned; IPREF of one line, when SKIP does not stand, leaves it cached. -/
def Claims.ResidencyInstructions : Prop := ∀ (d a : Reg) (s : State) (va len : Word) (tk : SMap Nat),
  let c := s.run.cur
  let x := curCtx s
  isTeam c = true →
  (∀ i ∈ ([.ipref d a 0, .ipin d a 0, .iunpin d a 0, .ipref d a 1, .ipin d a 1, .iunpin d a 1] : List Instr),
    Reads i s [a, d] none [va, len] tk → ∃ u, Machine.exec i s = .next (went s u tk (nextPc s)) ∧
      { ctxAt u c with skip := x.skip, pinov := x.pinov, ecnt := x.ecnt, pend26 := x.pend26 } = x ∧ (x.skip = true → (ctxAt u c).skip = true)) ∧
  (len.toNat ≤ 2 ^ 20 → Reads (.iunpin d a 0) s [a, d] none [va, len] tk → ∃ u, Machine.exec (.iunpin d a 0) s = .next (went s u tk (nextPc s)) ∧
    ((ctxAt u c).skip = false → ∀ line ∈ linesOf va.toNat len.toNat, ∀ lane, textOf x line = some lane →
      ∀ e ∈ cacheOf (coreAt u (coreOf c)) lane, e.addr = line → e.v = x.v → bankOf c ∉ e.pins)) ∧
  (len.toNat ≤ 2 ^ 20 → Reads (.ipin d a 0) s [a, d] none [va, len] tk → ∃ u, Machine.exec (.ipin d a 0) s = .next (went s u tk (nextPc s)) ∧
    ((ctxAt u c).skip = false ∧ (ctxAt u c).pinov = false →
      ∀ line ∈ linesOf va.toNat len.toNat, ∃ lane, textOf x line = some lane ∧
        ∃ e ∈ cacheOf (coreAt u (coreOf c)) lane, e.addr = line ∧ e.v = x.v ∧ bankOf c ∈ e.pins)) ∧
  (len.toNat ≤ 2 ^ 20 → Reads (.ipref d a 0) s [a, d] none [va, len] tk → ∀ line, linesOf va.toNat len.toNat = [line] →
    ∃ u, Machine.exec (.ipref d a 0) s = .next (went s u tk (nextPc s)) ∧
      ((ctxAt u c).skip = false → ∃ lane, textOf x line = some lane ∧
        ((cacheOf (coreAt u (coreOf c)) lane).any (fun e => e.addr == line && e.v == x.v) = true ∨
          cacheLines lane ≤ pinnedLines (cacheOf (coreAt u (coreOf c)) lane))))

/-- R392, R413: the token instructions append an entry to a control queue that takes one; the cycle is noted, in which the lanes do not see it yet. -/
def Claims.TokenInstructions : Prop := ∀ (a : Reg) (s : State) (v : Word) (tk : SMap Nat),
  let c := s.run.cur
  let now := some (clusterAt s (clusterOf (coreOf c))).cycle
  let put := fun (k : Nat) (p : Word) => went s (modCtx s c fun x => { x with ctlq := x.ctlq ++ [{ kind := k, payload := p }], appended := now }) tk (nextPc s)
  isTeam c = true → queueTakes s c 0 = true →
  (Reads (.tmask a) s [a] none [v] tk → Machine.exec (.tmask a) s = .next (put 0 v)) ∧
  (Reads (.ttrip a) s [a] none [v] tk → v.toNat < 2 ^ 32 → Machine.exec (.ttrip a) s = .next (put 1 v)) ∧
  (Reads (.ttrip a) s [a] none [v] tk → 2 ^ 32 ≤ v.toNat → Machine.exec (.ttrip a) s = .next (takeTrap s c 0x01 0)) ∧
  (Reads (.tout a) s [a] none [v] tk → Machine.exec (.tout a) s = .next (put 2 (if v = 0 then 0 else 1))) ∧
  (Reads (.tdata a) s [a] none [v] tk → Machine.exec (.tdata a) s = .next (put 3 v))

/-- R195, R286, R393, R396, R397: the waits that find what they wait for retire and change nothing else, but that LWAIT makes the lane stores up to the end of the section that has
retired last visible; one that has left its wait retires whatever has become of its condition; the others leave the bank waiting. -/
def Claims.WaitInstructions : Prop := ∀ (a b : Reg) (k : BitVec 4) (s : State) (v w : Word) (tk : SMap Nat),
  let c := s.run.cur
  let x := curCtx s
  let goes := went s s tk (nextPc s)
  let stays := fun (w : Wait) => modCtx s c fun x => { x with wait := w }
  isTeam c = true →
  (Reads (.lwait a) s [a] none [v] tk →
    let met := (x.lanes.any = true ∧ x.lanes.num = v.toNat % 65536) ∨ laneIdleBit x = true
    (met → Machine.exec (.lwait a) s =
      .next (went s (modCtx s c fun x => { x with lanes := { x.lanes with seen := x.lanes.numTo } }) tk (nextPc s))) ∧
    (¬ met → turnsOn (.lwait a) s (x.leftWait = .lwait) goes (stays .lwait))) ∧
  (Reads (.kwait k b) s [b] none [v] tk →
    turnsOn (.kwait k b) s ((mget x.k k.toNat 0 - v.extractLsb' 0 32).toNat < 2 ^ 31 ∨ x.leftWait = .kwait) goes (stays .kwait)) ∧
  (Reads (.tagwa a) s [a] none [v] tk →
    turnsOn (.tagwa a) s ((∀ i < 64, v.getLsbD i = true → x.ctb.getLsbD i = true) ∨ x.leftWait = .tag) goes (stays .tag)) ∧
  (Reads (.tagwl a) s [a] none [v] tk →
    turnsOn (.tagwl a) s (v = 0 ∨ (∃ i < 64, v.getLsbD i = true ∧ x.ctb.getLsbD i = true) ∨ x.leftWait = .tag) goes (stays .tag)) ∧
  (Reads (.ownw a b) s [a, b] none [v, w] tk →
    let f := wbits v 7 0
    let n := wbits v 15 8
    (n = 0 → Machine.exec (.ownw a b) s = .next goes) ∧
    (n ≠ 0 → x.gran.length < f + n → Machine.exec (.ownw a b) s = .next (takeTrap s c 0x20 0)) ∧
    (n ≠ 0 → f + n ≤ x.gran.length →
      turnsOn (.ownw a b) s ((∀ i < n, granuleOwner s c (f + i) = wbits w 1 0) ∨ x.leftWait = .ownw) goes (stays .ownw))) ∧
  (Reads .wfe s [] none [] tk →
    turnsOn .wfe s (x.ev = true) (went s (modCtx s c fun x => { x with ev := false }) tk (nextPc s)) (stays .wfe))

/-- R396, R397: counters, granule owners and tags. -/
def Claims.CounterOwnerAndTagInstructions : Prop := ∀ (d a b : Reg) (k : BitVec 4) (s : State) (v w : Word) (tk : SMap Nat),
  let c := s.run.cur
  let x := curCtx s
  isTeam c = true →
  (Reads (.ksig k b) s [b] none [v] tk → Machine.exec (.ksig k b) s =
    .next (went s (modCtx s c fun x => { x with k := mput x.k k.toNat (mget x.k k.toNat 0 + v.setWidth 32) }) tk (nextPc s))) ∧
  (Reads (.krd d k) s [] (some d) [] tk → Machine.exec (.krd d k) s = .next (wrote s tk d ((mget x.k k.toNat 0).setWidth 64) (nextPc s))) ∧
  (Reads (.tagclr a) s [a] none [v] tk → Machine.exec (.tagclr a) s =
    .next (went s (modCtx s c fun x => { x with ctb := x.ctb &&& ~~~v }) tk (nextPc s))) ∧
  (Reads (.tagff d a) s [a] (some d) [v] tk → ∃ r, Machine.exec (.tagff d a) s = .next (wrote s tk d r (nextPc s)) ∧
    (x.ctb &&& v = 0 → r = 64) ∧
    (x.ctb &&& v ≠ 0 → r.toNat < 64 ∧ (x.ctb &&& v).getLsbD r.toNat = true ∧ ∀ j < r.toNat, (x.ctb &&& v).getLsbD j = false)) ∧
  (Reads (.ownx a b) s [a, b] none [v, w] tk →
    let f := wbits v 7 0
    let n := wbits v 15 8
    let o := wbits w 1 0
    (o = 0 → Machine.exec (.ownx a b) s = .next (takeTrap s c 0x01 0)) ∧
    (o ≠ 0 → n = 0 → Machine.exec (.ownx a b) s = .next (went s s tk (nextPc s))) ∧
    (o ≠ 0 → n ≠ 0 → x.gran.length < f + n → Machine.exec (.ownx a b) s = .next (takeTrap s c 0x20 0)) ∧
    (o ≠ 0 → n ≠ 0 → f + n ≤ x.gran.length → (∃ i < n, granuleOwner s c (f + i) ≠ 0) →
      Machine.exec (.ownx a b) s = .next (takeTrap s c 0x20 0)) ∧
    (o ≠ 0 → n ≠ 0 → f + n ≤ x.gran.length → (∀ i < n, granuleOwner s c (f + i) = 0) → x.gran.Nodup →
      ∃ u, Machine.exec (.ownx a b) s = .next (went s u tk (nextPc s)) ∧ ctxAt u c = x ∧
        ∀ g < x.gran.length, granuleOwner u c g = if f ≤ g ∧ g < f + n then o else granuleOwner s c g))

/-- R189, R395: a CMD that its queue takes puts the decoded command, with the instruction's address, at the end of the queue of its engine; a
copy that names a tag raises the tag's count and clears its CTB bit. -/
def Claims.CmdQueuesTheCommand : Prop := ∀ (eng : BitVec 2) (a b : Reg) (op flags : BitVec 6) (s : State) (v w : Word) (tk : SMap Nat),
  let c := s.run.cur
  let x := curCtx s
  Reads (.cmd eng a b op flags) s [a, b] none [v, w] tk → isTeam c = true → eng.toNat < 3 →
  (∀ p ∈ x.mem, acquires p.ord = false) → queueTakes s c (1 + eng.toNat) = true →
  ∃ u, Machine.exec (.cmd eng a b op flags) s = .next (went s u tk (nextPc s)) ∧
    (∃ q, mget (ctxAt u c).cmdq eng.toNat [] = mget x.cmdq eng.toNat [] ++ [q] ∧
      q.cmd = decodeCommand eng op { flags := flags, wa := v, wb := w } ∧ q.pc = x.pc) ∧
    (∀ e, e ≠ eng.toNat → mget (ctxAt u c).cmdq e [] = mget x.cmdq e []) ∧
    (∀ t < 64, if eng = 1 ∧ w.getLsbD 22 = true ∧ t = wbits w 21 16 then
        mget (ctxAt u c).tags t 0 = mget x.tags t 0 + 1 ∧ (ctxAt u c).ctb.getLsbD t = false
      else mget (ctxAt u c).tags t 0 = mget x.tags t 0 ∧ (ctxAt u c).ctb.getLsbD t = x.ctb.getLsbD t) ∧
    { ctxAt u c with cmdq := x.cmdq, tags := x.tags, ctb := x.ctb } = x

/-- R200, R399: PHASE in a team of a linked launch with no access outstanding raises PH once; it retires when every neighbour is within the
lead, else the bank waits with PH raised. In a team that is not linked it traps. -/
def Claims.PhaseRaisesPhOnce : Prop := ∀ (glb : Bool) (s : State) (tk : SMap Nat),
  let c := s.run.cur
  let x := curCtx s
  Reads (.phase glb) s [] none [] tk → isTeam c = true →
  (x.linked = false → Machine.exec (.phase glb) s = .next (takeTrap s c 0x01 0)) ∧
  (x.linked = true → x.mem = [] → s.xlate.rsEn = false →
    let y := if x.phRaised then x else { x with ph := x.ph + 1, phRaised := true, phAll := glb }
    let s1 := setCtx s c y
    turnsOn (.phase glb) s (∀ n ∈ neighbours s1 y glb, withinLead s1 y n = true)
      (went s (setCtx s c { y with phRaised := false, phAll := false }) tk (nextPc s)) (setCtx s c { y with wait := .phase }))

/-- R400: GETS gives the register's value; an unknown number, or a firmware core's register read by a team, traps with 0x01. -/
def Claims.GetsReadsSystemRegisters : Prop := ∀ (d : Reg) (imm : BitVec 14) (s : State) (tk : SMap Nat),
  let c := s.run.cur
  let x := curCtx s
  Reads (.gets d imm) s [] (some d) [] tk → isTeam c = true →
  let gives := fun (v : Word) => Machine.exec (.gets d imm) s = .next (wrote s tk d v (nextPc s))
  (imm.toNat = 0 → gives 0x10000) ∧
  (imm.toNat = 1 → gives (clusterAt s (clusterOf (coreOf c))).cycle) ∧
  (imm.toNat = 2 → gives x.ecnt) ∧
  (imm.toNat = 3 → gives x.ovt) ∧
  (imm.toNat = 4 → gives (rcstat x)) ∧
  (imm.toNat = 9 → gives (irstat s c)) ∧
  (0x10 ≤ imm.toNat ∧ imm.toNat ≤ 0x13 → gives (acstOf s c (imm.toNat - 0x10))) ∧
  (imm.toNat = 5 → gives ((coreAt s (coreOf c)).errlo.setWidth 64)) ∧
  (imm.toNat = 6 → gives x.ctb) ∧
  (imm.toNat = 7 → gives (lsect x)) ∧
  (imm.toNat = 8 → gives (x.ph.setWidth 64)) ∧
  (0x18 ≤ imm.toNat ∧ imm.toNat ≤ 0x1B → gives (mget x.mdst (imm.toNat - 0x18) 0)) ∧
  (0x20 ≤ imm.toNat ∧ imm.toNat ≤ 0x27 →
    gives (BitVec.ofNat 64 (qLevel x (imm.toNat - 0x20) % 1024 * 2 ^ 32 + qCap x (imm.toNat - 0x20) * 65536 + qMin x (imm.toNat - 0x20)))) ∧
  ((9 < imm.toNat ∧ imm.toNat < 0x10) ∨ (0x13 < imm.toNat ∧ imm.toNat < 0x18) ∨ (0x1B < imm.toNat ∧ imm.toNat < 0x20) ∨ 0x27 < imm.toNat →
    Machine.exec (.gets d imm) s = .next (takeTrap s c 0x01 0))

/-- R400: SETS writes the registers a team may write; ECNT and the queue registers need privilege (0x02); the others trap with 0x01. -/
def Claims.SetsWritesSystemRegisters : Prop := ∀ (a : Reg) (imm : BitVec 14) (s : State) (v : Word) (tk : SMap Nat),
  let c := s.run.cur
  let x := curCtx s
  Reads (.sets a imm) s [a] none [v] tk → isTeam c = true →
  let puts := fun (y : Ctx) => Machine.exec (.sets a imm) s = .next (went s (setCtx s c y) tk (nextPc s))
  (imm.toNat = 2 → x.v = 0 → puts { x with ecnt := v &&& 0x8000FFFFFFFFFFFF#64 }) ∧
  (imm.toNat = 9 → puts { x with skip := x.skip && !v.getLsbD 1, pinov := x.pinov && !v.getLsbD 0 }) ∧
  (0x18 ≤ imm.toNat ∧ imm.toNat ≤ 0x1B → puts { x with mdst := mput x.mdst (imm.toNat - 0x18) (v &&& 0x83FFFFFF#64) }) ∧
  (0x20 ≤ imm.toNat ∧ imm.toNat ≤ 0x27 → x.v = 0 →
    let m := wbits v 9 0
    let k := wbits v 25 16
    if k = 0 ∨ k < m ∨ 1024 < minSum s c (imm.toNat - 0x20) m then Machine.exec (.sets a imm) s = .next (went s s tk (nextPc s))
    else puts { x with qmin := mput x.qmin (imm.toNat - 0x20) m, qcap := mput x.qcap (imm.toNat - 0x20) k }) ∧
  ((imm.toNat = 2 ∨ (0x20 ≤ imm.toNat ∧ imm.toNat ≤ 0x27)) → x.v ≠ 0 → Machine.exec (.sets a imm) s = .next (takeTrap s c 0x02 0)) ∧
  (imm.toNat < 2 ∨ (2 < imm.toNat ∧ imm.toNat < 9) ∨ (9 < imm.toNat ∧ imm.toNat < 0x18) ∨ (0x1B < imm.toNat ∧ imm.toNat < 0x20) ∨ 0x27 < imm.toNat →
    Machine.exec (.sets a imm) s = .next (takeTrap s c 0x01 0))

/-- R3, R9, R379, R400: on a firmware core GETS and SETS reach its registers 0x100 to 0x104: TVEC, whose bits 1:0 read 0, EPC, ECAUSE, EADDR and ESTAT; a number above them
traps. -/
def Claims.FirmwareCoreRegisters : Prop := ∀ (d a : Reg) (imm : BitVec 14) (s : State) (v : Word) (tk : SMap Nat),
  let c := s.run.cur
  let x := curCtx s
  isFw c = true →
  (Reads (.gets d imm) s [] (some d) [] tk →
    let gives := fun (v : Word) => Machine.exec (.gets d imm) s = .next (wrote s tk d v (nextPc s))
    (imm.toNat = 0 → gives 0x10000) ∧
    (imm.toNat = 0x100 → gives (x.tvec &&& ~~~3#64)) ∧
    (imm.toNat = 0x101 → gives x.epc) ∧
    (imm.toNat = 0x102 → gives (x.ecause.setWidth 64)) ∧
    (imm.toNat = 0x103 → gives x.eaddr) ∧
    (imm.toNat = 0x104 → gives ((if x.hc then 2 else 0) + (if x.inh then 1 else 0))) ∧
    (0x104 < imm.toNat → Machine.exec (.gets d imm) s = .next (takeTrap s c 0x01 0))) ∧
  (Reads (.sets a imm) s [a] none [v] tk →
    let puts := fun (y : Ctx) => Machine.exec (.sets a imm) s = .next (went s (setCtx s c y) tk (nextPc s))
    (imm.toNat = 0x100 → puts { x with tvec := v &&& ~~~3#64 }) ∧
    (imm.toNat = 0x101 → puts { x with epc := v }) ∧
    (imm.toNat = 0x102 → puts { x with ecause := v.setWidth 8 }) ∧
    (imm.toNat = 0x103 → puts { x with eaddr := v }) ∧
    (imm.toNat = 0x104 → puts { x with hc := v.getLsbD 1, inh := v.getLsbD 0 }) ∧
    (0x104 < imm.toNat → Machine.exec (.sets a imm) s = .next (takeTrap s c 0x01 0)))

/-- R401, R402: TRAP and BRK in a team: a notice with the cause, after which the team goes on; TRAP with bit 19 set kills the team. On a
firmware core both, and HCALL, enter the handler with EPC after the instruction (R379). -/
def Claims.TrapAndBrkInTeamsAndFirmwareCores : Prop := ∀ (imm : BitVec 20) (s : State) (tk : SMap Nat),
  let c := s.run.cur
  let x := curCtx s
  (Reads (.trap imm) s [] none [] tk → isTeam c = true →
    (imm.getLsbD 19 = false → Machine.exec (.trap imm) s = .next (went s (notice s c 0x03 (imm.setWidth 64)) tk (nextPc s))) ∧
    (imm.getLsbD 19 = true → Machine.exec (.trap imm) s = .next (takeTrap s c 0x03 (imm.setWidth 64)))) ∧
  (Reads .brk s [] none [] tk → isTeam c = true → Machine.exec .brk s = .next (went s (notice s c 0x04 0) tk (nextPc s))) ∧
  (Reads (.trap imm) s [] none [] tk → isFw c = true → Machine.exec (.trap imm) s = .next (setCtx s c
    { x with epc := nextPc s, ecause := 0x03, eaddr := imm.setWidth 64, hc := false, inh := true, pc := x.tvec, wait := .none })) ∧
  (Reads .brk s [] none [] tk → isFw c = true → Machine.exec .brk s = .next (setCtx s c
    { x with epc := nextPc s, ecause := 0x04, eaddr := 0, hc := false, inh := true, pc := x.tvec, wait := .none })) ∧
  (∀ i n, (i, n) ∈ ([(.hcallEnd, 0), (.hcallQuota, 1), (.hcallLevel, 2)] : List (Instr × Word)) → Reads i s [] none [] tk → isFw c = true →
    Machine.exec i s = .next (setCtx s c { x with epc := nextPc s, ecause := 0x03, eaddr := n, hc := true, inh := true, pc := x.tvec, wait := .none }))

/-- R203, R205, R206: a team that takes a fault is killed: one team fault record of kind 0 in the slot of the count modulo 8, its vector, the bank
empty but for its boot mailbox (R121), no engine command of its own left, its launch marked as faulted. -/
def Claims.FaultKillsTheTeam : Prop := ∀ (s : State) (c cause : Nat) (addr : Word),
  let x := ctxAt s c
  let t := takeTrap s c cause addr
  let y := vnpuAt s x.v
  isTeam c = true →
  mget (vnpuAt t x.v).tf (y.tfcnt % 8) [] =
    natLe 1 cause ++ natLe 1 0 ++ natLe 2 x.seq ++ natLe 4 x.team ++ natLe 8 (x.pc - (x.image + BitVec.ofNat 64 x.hdr.ctext)).toNat ++
      natLe 8 addr.toNat ++ natLe 8 s.tick.toNat ∧
  (vnpuAt t x.v).tfcnt = (y.tfcnt + 1) % 2 ^ 32 ∧
  (∀ k, k ≠ y.tfcnt % 8 → mget (vnpuAt t x.v).tf k [] = mget y.tf k []) ∧
  signalled s t x.v (if x.v = 0 then 48 else 35) ∧
  ctxAt t c = { freshCtx with bootMail := x.bootMail } ∧
  (∀ e ∈ (coreAt t (coreOf c)).units, e.2.ctx ≠ c) ∧
  (∀ l, launchAt s x.launch = some l → ∃ m, launchAt t x.launch = some m ∧ m.faulted = true ∧ m.retired = l.retired)

/-- R203, R205: a notice is one team fault record of kind 1 and its vector; the team and everything else stay as they are. -/
def Claims.NoticeLeavesTheTeamRunning : Prop := ∀ (s : State) (c cause : Nat) (addr : Word),
  let x := ctxAt s c
  let t := notice s c cause addr
  let y := vnpuAt s x.v
  mget (vnpuAt t x.v).tf (y.tfcnt % 8) [] =
    natLe 1 cause ++ natLe 1 1 ++ natLe 2 x.seq ++ natLe 4 x.team ++ natLe 8 (x.pc - (x.image + BitVec.ofNat 64 x.hdr.ctext)).toNat ++
      natLe 8 addr.toNat ++ natLe 8 s.tick.toNat ∧
  (vnpuAt t x.v).tfcnt = (y.tfcnt + 1) % 2 ^ 32 ∧
  raised s t [(x.v, if x.v = 0 then 48 else 35)] ∧
  (∀ w, w ≠ x.v → vnpuAt t w = vnpuAt s w) ∧
  { t with vnpus := s.vnpus, out := s.out, pba := s.pba } = s

/-- R379, R404: a fault on a firmware core saves the PC, the cause and the address, sets INH and goes to TVEC; with INH set it stops the core, and
the complex's lasting error follows. ERET is a jump to EPC that clears INH, and traps with 0x17 at an EPC that is no multiple of 4 (R352, R373). -/
def Claims.FirmwareFaultEntryAndReturn : Prop := ∀ (s : State) (c cause : Nat) (addr : Word),
  let x := ctxAt s c
  isFw c = true →
  (x.inh = false → takeTrap s c cause addr = setCtx s c
    { x with epc := x.pc, ecause := BitVec.ofNat 8 cause, eaddr := addr, hc := false, inh := true, pc := x.tvec, wait := .none }) ∧
  (x.inh = true → (ctxAt (takeTrap s c cause addr) c).phase = .halted ∧
    ∃ a, (takeTrap s c cause addr).run.inputs = s.run.inputs ++ [{ i := .complexLastingError, arg := a }]) ∧
  (∀ tk, s.run.cur = c → Reads .eret s [] none [] tk →
    turnsOn .eret s (x.epc.toNat % 4 = 0) (went s (setCtx s c { x with inh := false }) tk x.epc) (takeTrap s c 0x17 x.epc))

/-- R145, R404: outside drain mode a team's ERET traps with 0x01. In drain mode the first ERET ends the save half, the next gives s1 to s63 and the PC back as
they were saved when the stub began. The entries themselves are posted as EVICTION and RESTORE (R141, R145). -/
def Claims.EretInDrainStubs : Prop := ∀ (s : State) (n : Nat),
  let c := s.run.cur
  let x := curCtx s
  isTeam c = true → x.mem = [] →
  (∀ tk, Reads .eret s [] none [] tk → Machine.exec .eret s = .next (takeTrap s c 0x01 0)) ∧
  (x.drain = .save n → n < 1024 → ∃ t a, Machine.exec .eret s = .next t ∧
    ctxAt t c = { x with pc := x.pc + 4, drain := .off, phase := .stopped, wait := .none } ∧
    t.run.inputs = s.run.inputs ++ [{ i := .eviction c, arg := a }]) ∧
  (∀ y, x.drain = .restore n → n < 1024 → mfind s.stubs c = some y → ∃ t a, Machine.exec .eret s = .next t ∧
    ctxAt t c = { x with regs := y.regs, pc := y.pc, drain := .off, phase := .loading, wait := .none } ∧
    t.run.inputs = s.run.inputs ++ [{ i := .restore 0 c, arg := a }])

/-- R142, R352, R377: in drain mode, in the save half and in the restore half, these trap with 0x01: every instruction once the half has retired 1,024; one that can wait on
another party or the lanes; a branch, J or JAL whose offset is 0 or less, taken or not; a jump through a register whose target lies at or before it; a token that its queue does not take at
once; a port that is read or written, for the forms named. -/
def Claims.DrainModeTraps : Prop := ∀ (s : State) (n : Nat) (glb : Bool) (d a b : Reg) (eng : BitVec 2) (op fl : BitVec 6) (k : BitVec 4) (sw : BitVec 20)
    (off imm : BitVec 14) (far : BitVec 26) (mo : BitVec 12) (size : MemSize),
  let c := s.run.cur
  let x := curCtx s
  let traps := fun (i : Instr) => Machine.exec i s = .next (takeTrap s c 0x01 0)
  isTeam c = true → x.drain = .save n ∨ x.drain = .restore n →
  (∀ i w, 1024 ≤ n → encodeControl i = some w → traps i) ∧
  (∀ i ∈ ([.phase glb, .kwait k a, .lwait a, .ownw a b, .tagwa a, .tagwl a, .wfe, .swp sw, .cmd eng a b op fl] : List Instr), traps i) ∧
  (off.toInt ≤ 0 → ∀ i ∈ ([.beq a b off, .bne a b off, .blt a b off, .bge a b off, .bltu a b off, .bgeu a b off] : List Instr), traps i) ∧
  (far.toInt ≤ 0 → traps (.j far) ∧ traps (.jal far)) ∧
  (n < 1024 → a.toNat < 56 → d.toNat < 56 → mfind x.busy a.toNat = none → mfind x.busy d.toNat = none →
    let at' := (if a.toNat = 0 then 0 else mget x.regs a.toNat 0) + imm.signExtend 64 * 4
    at'.toNat % 4 = 0 → (endCheck x.loops at').2.toNat ≤ x.pc.toNat → traps (.jr d a imm)) ∧
  (n < 1024 → a.toNat < 56 → mfind x.busy a.toNat = none → queueTakes s c 0 = false → traps (.tmask a) ∧ traps (.tout a) ∧ traps (.tdata a)) ∧
  ((56 ≤ a.toNat ∧ a.toNat < 60) ∨ (56 ≤ b.toNat ∧ b.toNat < 60) ∨ 60 ≤ d.toNat → traps (.add d a b)) ∧
  ((56 ≤ a.toNat ∧ a.toNat < 60) ∨ 60 ≤ d.toNat → ∀ i ∈ ([.addi d a imm, .jr d a imm, .ld d a size mo, .ldsp d a size mo] : List Instr), traps i) ∧
  ((56 ≤ a.toNat ∧ a.toNat < 60) ∨ (56 ≤ b.toNat ∧ b.toNat < 60) → ∀ i ∈ ([.st b a size mo, .stsp b a size mo] : List Instr), traps i)

/-- R208, R403: HCALL in a team: the end call posts TEAM_RETIRE and fetches nothing more; with no load into the registers they write outstanding, the quota call gives
max(0, U) in s2 and the level call the granted level in s2 and SCHED in s3. -/
def Claims.TeamCalls : Prop := ∀ (s : State) (tk : SMap Nat),
  let c := s.run.cur
  let x := curCtx s
  isTeam c = true →
  (Reads .hcallEnd s [] none [] tk → ∃ t, Machine.exec .hcallEnd s = .next t ∧ (ctxAt t c).wait = .ended ∧ (ctxAt t c).regs = x.regs ∧
    (ctxAt t c).pc = x.pc ∧ ∃ e ∈ t.run.inputs, e.i = .teamRetire c) ∧
  (Reads .hcallQuota s [] none [] tk → loadsInto s [2] = false → ∃ u, Machine.exec .hcallQuota s = .next (went s u tk (nextPc s)) ∧
    (∀ r, r ≠ 2 → mget (ctxAt u c).regs r 0 = mget x.regs r 0) ∧
    (x.v = 0 → mget (ctxAt u c).regs 2 0 = 0) ∧
    (∀ q, x.v ≠ 0 → usableQuota s x.v = some q → mget (ctxAt u c).regs 2 0 = BitVec.ofNat 64 (q - (vnpuAt s x.v).eused)) ∧
    { ctxAt u c with regs := x.regs } = x) ∧
  (Reads .hcallLevel s [] none [] tk → loadsInto s [2, 3] = false → ∃ u, Machine.exec .hcallLevel s = .next (went s u tk (nextPc s)) ∧
    (∀ r, r ≠ 2 → r ≠ 3 → mget (ctxAt u c).regs r 0 = mget x.regs r 0) ∧
    mget (ctxAt u c).regs 2 0 = BitVec.ofNat 64 (clusterAt s (clusterOf (coreOf c))).level ∧
    mget (ctxAt u c).regs 3 0 = BitVec.ofNat 64 x.sched ∧
    { ctxAt u c with regs := x.regs } = x)

/-- R248, R406 to R409, R340, R221: TSTAMP; the privileged instructions in VNPU 0, and their trap 0x02 in a guest. That a
source that is a send port (R333) gives 0x01 before 0x02 is the model's choice (log 54). -/
def Claims.TimeAndPrivilegedInstructions : Prop := ∀ (d a b : Reg) (s : State) (v w : Word) (tk : SMap Nat),
  let c := s.run.cur
  let x := curCtx s
  (Reads (.tstamp d) s [] (some d) [] tk → Machine.exec (.tstamp d) s = .next (wrote s tk d s.tick (nextPc s))) ∧
  (isTeam c = true → x.v ≠ 0 →
    (∀ i ∈ ([.tlbinv a b, .tlblk a b] : List Instr), Reads i s [] none [] tk →
      Machine.exec i s = .next (takeTrap s c (if 60 ≤ a.toNat ∨ 60 ≤ b.toNat then 0x01 else 0x02) 0)) ∧
    (Reads (.ldovt a) s [] none [] tk → Machine.exec (.ldovt a) s = .next (takeTrap s c (if 60 ≤ a.toNat then 0x01 else 0x02) 0)) ∧
    (Reads .halt s [] none [] tk → Machine.exec .halt s = .next (takeTrap s c 0x02 0))) ∧
  (isTeam c = true → x.v = 0 →
    (Reads (.ldovt a) s [a] none [v] tk →
      (ovtLegal v = true → Machine.exec (.ldovt a) s = .next (went s (modCtx s c fun x => { x with ovt := v }) tk (nextPc s))) ∧
      (ovtLegal v = false → Machine.exec (.ldovt a) s = .next (takeTrap s c 0x01 0))) ∧
    (Reads .halt s [] none [] tk → ∃ t, Machine.exec .halt s = .next t ∧ (ctxAt t c).wait = .ended ∧ ∃ e ∈ t.run.inputs, e.i = .teamRetire c) ∧
    (Reads (.tlbinv a b) s [a, b] none [v, w] tk → w.toNat % 32 ≤ 16 → (∀ l, l = (coreAt s (coreOf c)).tlb.filter
        (tlbHit (wbits w 4 0) (wbits w 6 5) (w.getLsbD 7) (wbits v 47 14)) → accessThrough x l = false ∧ accessThrough (ctxAt s (otherBank c)) l = false ∧
          requestThrough s (agentOn (coreOf c)) l = false) →
      ∃ u, Machine.exec (.tlbinv a b) s = .next (went s u tk (nextPc s)) ∧
        (∀ e, e ∈ (coreAt u (coreOf c)).tlb ↔
          e ∈ (coreAt s (coreOf c)).tlb ∧ tlbHit (wbits w 4 0) (wbits w 6 5) (w.getLsbD 7) (wbits v 47 14) e = false)) ∧
    (Reads (.tlbinv a b) s [a, b] none [v, w] tk → 16 < w.toNat % 32 → Machine.exec (.tlbinv a b) s = .next (takeTrap s c 0x01 0)) ∧
    (Reads (.tlblk a b) s [a, b] none [v, w] tk → 16 < w.toNat % 32 → Machine.exec (.tlblk a b) s = .next (takeTrap s c 0x01 0)) ∧
    (∀ size leaf, Reads (.tlblk a b) s [a, b] none [v, w] tk → w.toNat % 32 ≤ 16 → walk s (w.toNat % 32) v = .ok size leaf →
      s.mgmt.moving = [] → lockedCount (coreAt s (coreOf c)).tlb < 192 →
      ∃ u, Machine.exec (.tlblk a b) s = .next (went s u tk (nextPc s)) ∧
        ∃ e ∈ (coreAt u (coreOf c)).tlb, e.locked = true ∧ e.v = w.toNat % 32 ∧ e.size = size ∧ e.vpn = vpnOf v.toNat size)) ∧
  (isFw c = true → Reads .halt s [] none [] tk → ∃ t, Machine.exec .halt s = .next t ∧ (ctxAt t c).phase = .halted ∧ (ctxAt t c).pc = x.pc)

/-- R340: an illegal instruction of a team or a firmware core traps with 0x01; an HCALL of another number enters a firmware core's handler (R379). -/
def Claims.IllegalInstructionTraps : Prop := ∀ (w : BitVec 32) (s : State) (tk : SMap Nat),
  Reads (.illegalInstruction w) s [] none [] tk →
  (isTeam s.run.cur = true → Machine.exec (.illegalInstruction w) s = .next (takeTrap s s.run.cur 0x01 0)) ∧
  (isFw s.run.cur = true → w.extractLsb' 20 12 ≠ 0xD40 → Machine.exec (.illegalInstruction w) s = .next (takeTrap s s.run.cur 0x01 0)) ∧
  (isFw s.run.cur = true → w.extractLsb' 20 12 = 0xD40 → Machine.exec (.illegalInstruction w) s = .next (setCtx s s.run.cur
    { curCtx s with epc := nextPc s, ecause := 0x03, eaddr := BitVec.ofNat 64 (w.toNat % 2 ^ 20), hc := true, inh := true, pc := (curCtx s).tvec, wait := .none }))

/-- R370: JTAB with an index at or above LEN goes on at PC + 4; below it, with nothing that holds the read back, it reads the 4-byte entry and goes to
the image base plus the entry, or traps with 0x17 at a misaligned entry. `readNow` names the read that gives e in state u. -/
def Claims.JumpTable : Prop := ∀ (d a : Reg) (len : BitVec 13) (s : State) (i b : Word) (tk : SMap Nat),
  let x := curCtx s
  let c := s.run.cur
  let ea := b + 4 * i
  Reads (.jtab d a len) s [a, d] none [i, b] tk →
  (len.toNat ≤ i.toNat → Machine.exec (.jtab d a len) s = .next (went s s tk (nextPc s))) ∧
  (i.toNat < len.toNat → ea.toNat % 4 ≠ 0 → Machine.exec (.jtab d a len) s = .next (takeTrap s c 0x17 ea)) ∧
  (∀ u e, i.toNat < len.toNat → ea.toNat % 4 = 0 → (∀ f, readNow s c ea 4 f = f u e) →
    (e % 4 = 0 → Machine.exec (.jtab d a len) s = .next (went s u tk (x.image + BitVec.ofNat 64 e))) ∧
    (e % 4 ≠ 0 → Machine.exec (.jtab d a len) s = .next (takeTrap s c 0x17 ea)))

/-- R169, R375: SWP in a team: an index at or above the entry count, or a schedule that is the current one, goes on at PC + 4 with the loop stack as
it was; on a firmware core it traps with 0x01 (log 16). -/
def Claims.SwitchPointNotTaken : Prop := ∀ (imm : BitVec 20) (s : State) (tk : SMap Nat),
  let c := s.run.cur
  let x := curCtx s
  Reads (.swp imm) s [] none [] tk →
  (isTeam c = true → x.swpLatch = none →
    x.hdr.nsw ≤ imm.toNat ∨ schedOf x.hdr (clusterAt s (clusterOf (coreOf c))).level = x.sched →
    Machine.exec (.swp imm) s = .next (went s s tk (nextPc s))) ∧
  (isTeam c = false → Machine.exec (.swp imm) s = .next (takeTrap s c 0x01 0))

/-- R169, R179, R375: SWP in a team, for an entry of the table and a schedule other than the current one. It decides once, as it issues. It then reads the entry, whose bytes 24 to 31 must
be 0 (0x23); while the control queue holds an entry or the lanes have work it waits with what it has read; else the entry's word of the schedule moves both positions, with the loop stack
empty, or traps with 0x17 where the position is no multiple of 4 (R352). `readNow` names the reads of the entry. -/
def Claims.SwitchPointTaken : Prop := ∀ (imm : BitVec 20) (s s1 s2 s3 s4 : State) (w : Nat → Nat) (sc pos : Nat) (tk : SMap Nat),
  let c := s.run.cur
  let x := curCtx s
  let ea := x.image + BitVec.ofNat 64 (x.hdr.swtab + 32 * imm.toNat)
  let idle := fun (t : State) => (ctxAt t c).ctlq = [] ∧ (ctxAt t c).lanes.sects = [] ∧ (ctxAt t c).lanes.retiring = []
  let latched := fun (t : State) (p : Nat) => waitAt (modCtx t c fun y => { y with swpLatch := some (sc + 4 * (p + 1)) }) c .swp
  let switched := fun (t : State) (p : Nat) => went s
    (modCtx t c fun y => { y with swpLatch := none, sched := sc, loops := [],
                                  lanes := { y.lanes with pos := p / 2 ^ 32, ended := false, atPop := false, sects := [] } })
    tk (x.image + BitVec.ofNat 64 x.hdr.ctext + BitVec.ofNat 64 (p % 2 ^ 32))
  Reads (.swp imm) s [] none [] tk → isTeam c = true → sc < 3 →
  (x.swpLatch = none → imm.toNat < x.hdr.nsw → sc = schedOf x.hdr (clusterAt s (clusterOf (coreOf c))).level → sc ≠ x.sched →
    Machine.exec (.swp imm) s = .next (waitAt (modCtx s c fun y => { y with swpLatch := some sc }) c .swp)) ∧
  (x.swpLatch = some sc → (∀ f, readNow s c ea 8 f = f s1 (w 0)) → (∀ f, readNow s1 c (ea + 8) 8 f = f s2 (w 1)) →
    (∀ f, readNow s2 c (ea + 16) 8 f = f s3 (w 2)) → (∀ f, readNow s3 c (ea + 24) 8 f = f s4 (w 3)) → s4.run.cur = c →
    (w 3 ≠ 0 → Machine.exec (.swp imm) s = .next (takeTrap s c 0x23 ea)) ∧
    (w 3 = 0 → ¬ idle s4 → Machine.exec (.swp imm) s = .next (latched s4 (w sc))) ∧
    (w 3 = 0 → idle s4 → w sc % 4 ≠ 0 → Machine.exec (.swp imm) s = .next (takeTrap s c 0x17 ea)) ∧
    (w 3 = 0 → idle s4 → w sc % 4 = 0 → Machine.exec (.swp imm) s = .next (switched s4 (w sc)))) ∧
  (x.swpLatch = some (sc + 4 * (pos + 1)) →
    (¬ idle s → Machine.exec (.swp imm) s = .next (latched s pos)) ∧
    (idle s → pos % 4 ≠ 0 → Machine.exec (.swp imm) s = .next (takeTrap s c 0x17 ea)) ∧
    (idle s → pos % 4 = 0 → Machine.exec (.swp imm) s = .next (switched s pos)))

/-- R423: the integer lane words. -/
def Obligations.LaneIntegerWords : Prop :=
  let clamp := fun (sat : Bool) (n : Int) =>
    ((if sat then BitVec.ofInt 32 (max (-2 ^ 31) (min (2 ^ 31 - 1) n)) else BitVec.ofInt 32 n : Lane),
      if sat = true ∧ (n < -2 ^ 31 ∨ 2 ^ 31 - 1 < n) then flSAT else 0)
  let plain := fun (v : Lane) => (v, (0 : LFlags))
  laneGives 0x01 .vadd false (fun _ x f i => clamp f.sat ((laneA x f i).toInt + (laneB x f i).toInt)) ∧
  laneGives 0x02 .vsub false (fun _ x f i => clamp f.sat ((laneA x f i).toInt - (laneB x f i).toInt)) ∧
  laneGives 0x03 .vmul false (fun _ x f i => clamp f.sat ((laneA x f i).toInt * (laneB x f i).toInt)) ∧
  laneGives 0x04 .vmulh false (fun _ x f i => plain (((laneA x f i).signExtend 64 * (laneB x f i).signExtend 64).extractLsb' 32 32)) ∧
  laneGives 0x05 .vmad false (fun _ x f i => clamp f.sat ((laneA x f i).toInt * (laneB x f i).toInt + (laneC x f i).toInt)) ∧
  laneGives 0x06 .vand false (fun _ x f i => plain (laneA x f i &&& laneB x f i)) ∧
  laneGives 0x07 .vor false (fun _ x f i => plain (laneA x f i ||| laneB x f i)) ∧
  laneGives 0x08 .vxor false (fun _ x f i => plain (laneA x f i ^^^ laneB x f i)) ∧
  laneGives 0x09 .vshl false (fun _ x f i => plain (laneA x f i <<< ((laneB x f i).toNat % 32))) ∧
  laneGives 0x0A .vshr false (fun _ x f i => plain (laneA x f i >>> ((laneB x f i).toNat % 32))) ∧
  laneGives 0x0B .vsra false (fun _ x f i => plain ((laneA x f i).sshiftRight ((laneB x f i).toNat % 32))) ∧
  laneGives 0x0C .vmin false (fun _ x f i => plain (if (laneA x f i).toInt < (laneB x f i).toInt then laneA x f i else laneB x f i)) ∧
  laneGives 0x0D .vmax false (fun _ x f i => plain (if (laneB x f i).toInt < (laneA x f i).toInt then laneA x f i else laneB x f i)) ∧
  laneGives 0x0E .vabs false (fun _ x f i => plain (if (laneA x f i).toInt < 0 then 0 - laneA x f i else laneA x f i)) ∧
  laneGives 0x0F .vclz false (fun _ x f i => plain (BitVec.ofNat 32 (((List.range 32).takeWhile fun j => !(laneA x f i).getMsbD j).length))) ∧
  laneGives 0x10 .vpopc false (fun _ x f i => plain (BitVec.ofNat 32 ((List.range 32).filter fun j => (laneA x f i).getLsbD j).length))

/-- R413, R424, R425: the lane words that compare, select and move; a token can be popped from the cycle after the one in which it was appended. -/
def Obligations.LaneCompareSelectAndMove : Prop :=
  let plain := fun (v : Lane) => (v, (0 : LFlags))
  let val := fun (x : Ctx) (f : LaneFields) (v : Lane) => inputF f.f1.toNat (laneMode x.lanes) v.toNat
  laneTests 0x18 .vcmp (fun x f i =>
    let a := laneA x f i
    let b := laneB x f i
    [decide (a = b), decide (a ≠ b), decide (a.toInt < b.toInt), decide (a.toInt ≤ b.toInt), decide (b.toInt < a.toInt), decide (b.toInt ≤ a.toInt),
      decide (a.toNat < b.toNat), decide (b.toNat ≤ a.toNat)].getD (min f.imm.toNat 7) false) ∧
  laneTests 0x27 .fcmp (fun x f i =>
    let a := val x f (laneA x f i)
    let b := val x f (laneB x f i)
    let un := isNan a || isNan b
    [fEq a b, un || !fEq a b, fLt a b, !un && (fLt a b || fEq a b), fLt b a, !un && (fLt b a || fEq a b), un, !un].getD (min f.imm.toNat 7) false) ∧
  laneGives 0x19 .vsel false (fun _ x f i => plain (if (mget x.lanes.q f.c.toNat 0).getLsbD i then laneA x f i else laneB x f i)) ∧
  laneGives 0x1A .vmov false (fun _ x f i => plain (laneA x f i)) ∧
  laneGives 0x1B .vimm false (fun _ _ f _ => plain f.imm) ∧
  laneGives 0x1C .vlid false (fun _ _ _ i => plain (BitVec.ofNat 32 i)) ∧
  (∀ s f p rest, LaneReady s 0x1D f → poppable s s.run.cur = { kind := 3, payload := p } :: rest → ∃ t, Machine.exec (.vtok f) s = .next t ∧
    let l := (curCtx s).lanes
    let m := (ctxAt t s.run.cur).lanes
    (∀ i < 64, ∀ j < 256, laneValue m i j = if laneActive l f.pred.toNat i = true ∧ j = laneIndex l f.id f.d i then
      (if f.imm = 0 then p.setWidth 32 else p.extractLsb' 32 32) else laneValue l i j) ∧
    m.q = l.q ∧ m.masks = l.masks ∧ m.gen = l.gen ∧ m.flying = [] ∧ laneFrame s t 1)

/-- R243 to R250, R425 to R427: the floating-point lane words: each active lane receives the rounded result of its own operands, with its flags. The
formats' arithmetic is that of the model's functions addF to dot2F. -/
def Claims.LaneFloatWords : Prop :=
  let fmt := fun (f : LaneFields) => f.f1.toNat
  let val := fun (x : Ctx) (f : LaneFields) (v : Lane) => inputF f.f1.toNat (laneMode x.lanes) v.toNat
  let im := fun (y : Nat × LFlags) => (imageOfNat y.1, y.2)
  let plain := fun (n : Nat) => (imageOfNat n, (0 : LFlags))
  laneGives 0x20 .fadd true (fun _ x f i => im (addF (fmt f) (laneRnd x f i) (val x f (laneA x f i)) (val x f (laneB x f i)))) ∧
  laneGives 0x21 .fsub true (fun _ x f i => im (addF (fmt f) (laneRnd x f i) (val x f (laneA x f i)) (fNeg (val x f (laneB x f i))))) ∧
  laneGives 0x22 .fmul true (fun _ x f i => im (mulF (fmt f) (laneRnd x f i) (val x f (laneA x f i)) (val x f (laneB x f i)))) ∧
  laneGives 0x28 .fdiv true (fun _ x f i => im (divF (fmt f) (laneRnd x f i) (val x f (laneA x f i)) (val x f (laneB x f i)))) ∧
  laneGives 0x23 .ffma true (fun _ x f i =>
    im (fmaF (fmt f) (laneRnd x f i) (val x f (laneA x f i)) (val x f (laneB x f i)) (val x f (laneC x f i)))) ∧
  laneGives 0x29 .fsqrt true (fun _ x f i => im (sqrtF (fmt f) (laneRnd x f i) (val x f (laneA x f i)))) ∧
  laneGives 0x24 .fmin false (fun _ x f i => plain (minmaxF (fmt f) (laneMode x.lanes) false (laneA x f i).toNat (laneB x f i).toNat)) ∧
  laneGives 0x25 .fmax false (fun _ x f i => plain (minmaxF (fmt f) (laneMode x.lanes) true (laneA x f i).toNat (laneB x f i).toNat)) ∧
  laneGives 0x26 .fsgn false (fun _ x f i => plain (fsgnF (fmt f) (laneMode x.lanes) f.imm.toNat (laneA x f i) (laneB x f i))) ∧
  laneGives 0x2A .fspec false (fun _ x f i => im (fspec (fmt f) f.imm.toNat (laneMode x.lanes) x.ovt ((laneA x f i).toNat % 2 ^ fmtBits (fmt f)))) ∧
  laneGives 0x2B .fdot2 true (fun _ x f i =>
    let el := fun (v : Lane) (k : Nat) => inputF f.f2.toNat (laneMode x.lanes) (v.toNat / 2 ^ (16 * k) % 2 ^ 16)
    im (dot2F 0 (laneRnd x f i) (el (laneA x f i) 0) (el (laneB x f i) 0) (el (laneA x f i) 1) (el (laneB x f i) 1)
      (inputF 0 (laneMode x.lanes) (laneC x f i).toNat))) ∧
  laneGives 0x2C .fclass false (fun _ x f i => (1#32 <<< fclassBit (fmt f) ((laneA x f i).toNat % 2 ^ fmtBits (fmt f)), 0))

/-- R236, R427: FCLASS names exactly one class for every encoding of every format, by its sign, exponent and fraction. -/
def Claims.FclassNamesTheClass : Prop := ∀ (fmt bits : Nat),
  let k := fclassBit fmt bits
  k < 9 ∧ (k = 8 ↔ decodeF fmt bits = .nan) ∧ (k = 0 ↔ decodeF fmt bits = .inf true) ∧ (k = 7 ↔ decodeF fmt bits = .inf false) ∧
  (k = 3 ↔ ∃ e, decodeF fmt bits = .fin true 0 e) ∧ (k = 4 ↔ ∃ e, decodeF fmt bits = .fin false 0 e) ∧
  (k = 2 ↔ ∃ m e, decodeF fmt bits = .fin true m e ∧ 0 < m ∧ m < 2 ^ fracBits fmt) ∧
  (k = 5 ↔ ∃ m e, decodeF fmt bits = .fin false m e ∧ 0 < m ∧ m < 2 ^ fracBits fmt)

/-- R238, R243 to R247, R250 to R253, R425: what rounding gives, in exact rational arithmetic. An encoding's own value gives the encoding and no flag. In full mode a magnitude that does not overflow
gives a value less than one spacing away, at most half of one in RNE and RNA, on the side that RTZ, RDN and RUP name, and NX exactly when it differs; past the largest finite value OF and NX are set.
The integer grid, and conversions to INT8 and INT32, are the same with clamping (SAT). A sum is the exact sum rounded; its special cases. -/
def Claims.ArithmeticIsRounded : Prop :=
  (∀ f r bits neg m e, f ≤ 4 → bits < 2 ^ fmtBits f → decodeF f bits = .fin neg m e → r.full = true ∨ 2 ^ fracBits f ≤ m ∨ m = 0 →
    roundVal f r (.fin neg m e) = (bits, 0)) ∧
  (∀ (f : Nat) (r : Rnd) (neg : Bool) (num den : Nat) (e : Int), f ≤ 4 → r.full = true → 0 < num → 0 < den →
    let x : Rat := (num : Rat) / (den : Rat) * pow2 e
    let y := roundMag f r neg num den e
    if y.2 &&& flOF = 0 then ∃ m q, decodeF f y.1 = .fin neg m q ∧
      let v : Rat := (m : Rat) * pow2 q
      (v - x).abs < pow2 q ∧ (y.2 &&& flNX = 0 ↔ v = x) ∧
      (r.mode = 0 ∨ r.mode = 4 → 2 * (v - x).abs ≤ pow2 q) ∧
      (r.mode = 1 ∨ (r.mode = 2 ∧ neg = false) ∨ (r.mode = 3 ∧ neg = true) → v ≤ x) ∧
      ((r.mode = 2 ∧ neg = true) ∨ (r.mode = 3 ∧ neg = false) → x ≤ v)
    else y.2 = flOF ||| flNX ∧ y.1 = overflowResult f (ovtChoice r.ovt f) r.mode neg) ∧
  (∀ (mode u : Nat) (neg : Bool) (num den : Nat), 0 < den →
    let a := num / den
    let r := num % den
    let k := roundInt mode u neg num den
    (r = 0 → k = a) ∧ (k = a ∨ k = a + 1) ∧
    (mode = 0 → (2 * r < den → k = a) ∧ (den < 2 * r → k = a + 1) ∧ (2 * r = den → k % 2 = 0)) ∧
    (mode = 5 → r ≠ 0 → (k = a + 1 ↔ u < r * 2 ^ 24 / den))) ∧
  (∀ (f w : Nat) (r : Rnd) (neg : Bool) (m : Nat) (e : Int), (f = fmtI8 ∧ w = 8) ∨ (f = fmtI32 ∧ w = 32) →
    convert f r .nan = (0, flNV) ∧ convert f r (.inf false) = (BitVec.ofNat 32 (2 ^ (w - 1) - 1), flNV) ∧
    convert f r (.inf true) = (BitVec.ofInt 32 (-2 ^ (w - 1)), flNV) ∧ intRounded w r.mode (dyadic neg m e) (convert f r (.fin neg m e))) ∧
  (∀ (f : Nat) (r : Rnd) (na nb : Bool) (ma mb : Nat) (ea eb : Int), ∃ neg m e,
    dyadic neg m e = dyadic na ma ea + dyadic nb mb eb ∧ (m = 0 → neg = if ma = 0 ∧ mb = 0 ∧ na = nb then na else decide (r.mode = 2)) ∧
    addF f r (.fin na ma ea) (.fin nb mb eb) = roundVal f r (.fin neg m e)) ∧
  (∀ (f : Nat) (r : Rnd) (v : FVal) (a : Bool), addF f r .nan v = (nanEnc f, 0) ∧ addF f r v .nan = (nanEnc f, 0) ∧
    addF f r (.inf a) (.inf (!a)) = (nanEnc f, flNV) ∧ (f ≠ fmtE4M3 → addF f r (.inf a) (.inf a) = (withSign f a (infEnc f), 0)))

/-- R238, R425, R427: a product, a quotient, a product with an addend, a sum of two products with an addend is the exact result rounded once, with the sign of an exact zero; a root is correctly
rounded; the special cases. -/
def Claims.ProductsQuotientsAndRoots : Prop :=
  (∀ (f : Nat) (r : Rnd) (na nb nc nd ng : Bool) (ma mb mc md mg : Nat) (ea eb ec ed eg : Int),
    let a : FVal := .fin na ma ea
    let b : FVal := .fin nb mb eb
    let c : FVal := .fin nc mc ec
    let d : FVal := .fin nd md ed
    let g : FVal := .fin ng mg eg
    (∃ m e, dyadic (na != nb) m e = dyadic na ma ea * dyadic nb mb eb ∧ mulF f r a b = roundVal f r (.fin (na != nb) m e)) ∧
    (ma ≠ 0 → mb ≠ 0 → ∃ (num den : Nat) (e : Int), 0 < num ∧ 0 < den ∧ (num : Rat) / (den : Rat) * pow2 e = dyadic false ma ea / dyadic false mb eb ∧
      divF f r a b = roundMag f r (na != nb) num den e) ∧
    (∃ neg m e, dyadic neg m e = dyadic na ma ea * dyadic nb mb eb + dyadic nc mc ec ∧
      (m = 0 → neg = if ma * mb = 0 ∧ mc = 0 ∧ (na != nb) = nc then nc else decide (r.mode = 2)) ∧ fmaF f r a b c = roundVal f r (.fin neg m e)) ∧
    (∃ neg m e, dyadic neg m e = dyadic na ma ea * dyadic nb mb eb + dyadic nc mc ec * dyadic nd md ed + dyadic ng mg eg ∧
      (m = 0 → r.mode ≠ 2 → neg = (decide (ma * mb = 0 ∧ mc * md = 0 ∧ mg = 0) && (na != nb) && (nc != nd) && ng)) ∧ dot2F f r a b c d g = roundVal f r (.fin neg m e))) ∧
  (∀ (f : Nat) (r : Rnd) (m : Nat) (e : Int), f ≤ 2 → r.full = true → 0 < m →
    let x := dyadic false m e
    let y := sqrtF f r (.fin false m e)
    y.2 &&& flOF = 0 → ∃ k q, decodeF f y.1 = .fin false k q ∧
      let v := dyadic false k q
      let u := pow2 q
      x < (v + u) ^ 2 ∧ (v ≤ u ∨ (v - u) ^ 2 < x) ∧ (y.2 &&& flNX = 0 ↔ v ^ 2 = x) ∧
      (r.mode = 0 ∨ r.mode = 4 → x ≤ (v + u / 2) ^ 2 ∧ (v ≤ u / 2 ∨ (v - u / 2) ^ 2 ≤ x)) ∧
      (r.mode = 1 ∨ r.mode = 2 → v ^ 2 ≤ x) ∧ (r.mode = 3 → x ≤ v ^ 2)) ∧
  (∀ (f : Nat) (r : Rnd) (v w z : FVal) (a b : Bool) (m : Nat) (e k : Int),
    let nan := (nanEnc f, (0 : LFlags))
    let bad := (nanEnc f, flNV)
    let inf := (withSign f (a != b) (infEnc f), (0 : LFlags))
    mulF f r .nan v = nan ∧ mulF f r v .nan = nan ∧ mulF f r (.inf a) (.fin b 0 e) = bad ∧ mulF f r (.fin b 0 e) (.inf a) = bad ∧
    divF f r .nan v = nan ∧ divF f r v .nan = nan ∧ divF f r (.inf a) (.inf b) = bad ∧ divF f r (.fin a 0 e) (.fin b 0 k) = bad ∧
    fmaF f r (.inf a) (.fin b 0 e) v = bad ∧ fmaF f r (.fin b 0 e) (.inf a) v = bad ∧ fmaF f r (.fin a m e) (.fin b m k) .nan = nan ∧
    dot2F f r (.inf a) (.fin b 0 e) v w z = bad ∧ dot2F f r v w (.fin b 0 e) (.inf a) z = bad ∧ dot2F f r (.fin a m e) (.fin b m k) (.fin a m e) .nan z = nan ∧
    sqrtF f r .nan = nan ∧ sqrtF f r (.inf false) = (infEnc f, 0) ∧ sqrtF f r (.inf true) = bad ∧ sqrtF f r (.fin a 0 e) = (withSign f a 0, 0) ∧
    (m ≠ 0 → divF f r (.fin a m e) (.fin b 0 k) = (withSign f (a != b) (infEnc f), flDZ) ∧ divF f r (.fin a 0 e) (.fin b m k) = (withSign f (a != b) 0, 0) ∧
      divF f r (.fin a m e) (.inf b) = (withSign f (a != b) 0, 0) ∧ fmaF f r (.inf a) (.fin b m e) (.inf !(a != b)) = bad ∧ sqrtF f r (.fin true m e) = bad) ∧
    (f ≠ fmtE4M3 → m ≠ 0 → mulF f r (.inf a) (.inf b) = inf ∧ mulF f r (.inf a) (.fin b m e) = inf ∧ mulF f r (.fin a m e) (.inf b) = inf ∧
      divF f r (.inf a) (.fin b m e) = inf))

/-- R241, R254 to R257, R428 to R432: conversions, quantising and the block words. What they deliver, in exact rational arithmetic: VRND an integral value; VQNT the quotient rounded once, to an integer with SAT;
the scales of a block the least legal ones above the 24th smallest and the greatest magnitude divided by 63 (DB8) or 4 (DB4); an element its magnitude over its scale rounded on the grid of its
format and clamped with SAT. -/
def Obligations.LaneConversionAndBlockWords : Prop :=
  let elem := fun (x : Ctx) (f : LaneFields) (j : Nat) (g : BitVec 32) =>
    packElem f.f1.toNat f.rnd.toNat (genDraw g) (laneMode x.lanes) (laneA x f j).toNat (laneB x f j).toNat
  laneGives 0x30 .vcvt true (fun _ x f i =>
    convert f.f1.toNat (satRnd f.sat (laneRnd x f i)) (readImage f.f2.toNat (laneMode x.lanes) (laneA x f i))) ∧
  laneGives 0x36 .vrnd true (fun _ x f i =>
    let y := roundIntegral f.f1.toNat (laneRnd x f i) (inputF f.f1.toNat (laneMode x.lanes) (laneA x f i).toNat)
    (imageOfNat y.1, y.2)) ∧
  laneGives 0x31 .vqnt true (fun _ x f i => vqnt f.f1.toNat (laneRnd x f i) (laneA x f i).toNat (laneB x f i).toNat) ∧
  laneGives 0x32 .vdqnt false (fun _ x f i =>
    let y := mulF 0 { mode := 0, u := 0, full := laneMode x.lanes, ovt := x.ovt } (readImage f.f1.toNat (laneMode x.lanes) (laneA x f i))
      (inputF 0 (laneMode x.lanes) (laneB x f i).toNat)
    (imageOfNat y.1, y.2)) ∧
  laneGives 0x33 .vbscale false (fun _ x f i =>
    let b := blockScales f.f1.toNat (laneMode x.lanes) ((List.range 32).map fun j => (laneA x f (i / 32 * 32 + j)).toNat)
    (imageOfNat b.1, nvIf b.2)) ∧
  laneGives 0x35 .vbunpk false (fun _ x f i =>
    let el := if f.f1.toNat = fmtDB8 then (laneA x f i).toNat % 256 else (laneA x f (i / 2)).toNat / (if i % 2 = 0 then 1 else 16) % 16
    match elemValue f.f1.toNat el ((laneB x f i).toNat % 65536) ((laneB x f i).toNat / 65536) with
    | some v => (imageOfNat (roundVal 0 (rneFull x.ovt) v).1, (roundVal 0 (rneFull x.ovt) v).2)
    | none => (imageOfNat (nanEnc 0), flNV)) ∧
  (∀ s f, LaneReady s 0x34 f → ∃ t, Machine.exec (.vbpack f) s = .next t ∧
    let x := curCtx s
    let l := x.lanes
    let m := (ctxAt t s.run.cur).lanes
    (∀ i < 64, ∀ j < 256, laneValue m i j = if laneActive l f.pred.toNat i = true ∧ j = laneIndex l f.id f.d i then (packOut (viewOf s x f) i).1
      else laneValue l i j) ∧
    (∀ i < 64, laneActive l f.pred.toNat i = true → ((packOut (viewOf s x f) i).1.extractLsb' 8 24 = (laneC x f i).extractLsb' 8 24)) ∧
    (f.f1.toNat = fmtDB8 → ∀ i < 64, (packOut (viewOf s x f) i).1.extractLsb' 0 8 = BitVec.ofNat 8 (elem x f i (genStep (genOf x i))).1) ∧
    (f.f1.toNat = fmtDB4 → ∀ i < 64, if i < 32 then (packOut (viewOf s x f) i).1.extractLsb' 0 8 =
        BitVec.ofNat 8 ((elem x f (2 * i + 1) (genStep (genStep (genOf x i)))).1 * 16 + (elem x f (2 * i) (genStep (genOf x i))).1)
      else (packOut (viewOf s x f) i).1 = laneC x f i) ∧
    m.q = l.q ∧ m.masks = l.masks ∧ laneFrame s t 0) ∧
  (∀ (f bits : Nat) (r : Rnd) (neg : Bool) (m : Nat) (e : Int), f ≤ 2 → decodeF f bits = .fin neg m e →
    let y := roundIntegral f r (.fin neg m e)
    ∃ k q z, decodeF f y.1 = .fin neg k q ∧ dyadic neg k q = ((z : Int) : Rat) ∧ gridRounded r.mode 1 (dyadic neg m e) (dyadic neg k q) (z % 2 = 0) y.2) ∧
  (∀ (f : Nat) (r : Rnd) (x sc : Nat), f ≤ fmtI32 →
    let xv := inputF 0 r.full x
    let sv := inputF 0 r.full sc
    let y := vqnt f r x sc
    let isInt := f = fmtI8 ∨ f = fmtI32
    (xv = .nan → y = if isInt then (0, flNV) else (imageOfNat (nanEnc f), 0)) ∧
    (xv ≠ .nan → (∀ m e, sv = .fin false m e → m = 0) → y = if isInt then (0, flNV) else (imageOfNat (nanEnc f), flNV)) ∧
    (∀ m e neg, sv = .fin false m e → 0 < m → xv = .inf neg → y = convert f r (.inf neg)) ∧
    (∀ m e neg k q, sv = .fin false m e → 0 < m → xv = .fin neg k q →
      let quot := dyadic neg k q / dyadic false m e
      (f = fmtI8 → intRounded 8 r.mode quot y) ∧ (f = fmtI32 → intRounded 32 r.mode quot y) ∧
      (f < fmtI8 → k = 0 → y = (imageOfNat (withSign f neg 0), 0)) ∧
      (f < fmtI8 → k ≠ 0 → ∃ (num den : Nat) (p : Int), 0 < num ∧ 0 < den ∧ (num : Rat) / (den : Rat) * pow2 p = quot.abs ∧
        y = (imageOfNat (roundMag f r neg num den p).1, (roundMag f r neg num den p).2)))) ∧
  (∀ (f : Nat) (full : Bool) (xs : List Nat), f = fmtDB8 ∨ f = fmtDB4 → xs.length = 32 → (∀ x ∈ xs, x < 2 ^ 32) →
    let d : Rat := if f = fmtDB8 then 63 else 4
    let b := blockScales f full xs
    (b.2 = true ↔ ∃ x ∈ xs, ∀ neg m e, decodeF 0 x ≠ .fin neg m e) ∧
    ∃ l : List Rat, l.Perm (xs.map (blockMag full)) ∧ l.Pairwise (· ≤ ·) ∧ leastScale (l.getD 31 0 / d) (b.1 / 65536) ∧ leastScale (l.getD 23 0 / d) (b.1 % 65536)) ∧
  (∀ (f mode u x sw : Nat) (full : Bool), f = fmtDB8 ∨ f = fmtDB4 → x < 2 ^ 32 → mode ≤ 5 →
    let s0 := sw % 65536
    let s1 := sw / 65536
    let v := inputF 0 full x
    let y := packElem f mode u full x sw
    let mag := blockMag full x
    let sel := if mag * (if f = fmtDB8 then 2 else 1) < scaleR s0 * (if f = fmtDB8 then 127 else 4) ∨ (f = fmtDB4 ∧ mag = 4 * scaleR s0) then 0 else 1
    let q := mag / scaleR (if sel = 0 then s0 else s1)
    let h : Rat := if f = fmtDB4 ∧ 2 ≤ q then 2 else 1
    let top := if f = fmtDB8 then 63 else 4
    let e := elemParts f y.1
    (legalScale s0 = false ∨ legalScale s1 = false ∨ v = .nan → y = (0, flNV)) ∧
    (s1 < 65536 → legalScale s0 = true → legalScale s1 = true → v ≠ .nan → ∃ k : Nat, (h = 2 → k % 2 = 0) ∧ e.2.2 = min k top ∧
      (e.2.2 = 0 → y.1 = 0) ∧ (e.2.2 ≠ 0 → e.1 = sel ∧ e.2.1 = fSign v) ∧ y.1 < (if f = fmtDB8 then 256 else 16) ∧
      (y.2 &&& flSAT ≠ 0 ↔ top < k ∨ ∃ n, v = .inf n) ∧ y.2 &&& flNV = 0 ∧ (top < k → y.2 &&& flNX ≠ 0) ∧
      gridRounded mode h q (k : Rat) (if f = fmtDB4 ∧ q = 3 then k = 2 else if h = 2 then k % 4 = 0 else k % 2 = 0) (if top < k ∧ (k : Rat) = q then 0 else y.2)))

/-- R433 to R435: the cross-lane words. A lane's operand is read whatever that lane's mask; the integer reductions take the active lanes. -/
def Obligations.LaneCrossWords : Prop :=
  let plain := fun (v : Lane) => (v, (0 : LFlags))
  let fold := fun (x : Ctx) (f : LaneFields) (l : List Nat) =>
    let vs := l.map (laneA x f)
    match f.imm.toNat with
    | 0 => vs.foldl (· + ·) 0
    | 1 => vs.foldl (fun a b => if a.toInt ≤ b.toInt then a else b) (BitVec.intMax 32)
    | 2 => vs.foldl (fun a b => if b.toInt ≤ a.toInt then a else b) (BitVec.intMin 32)
    | 3 => vs.foldl (· &&& ·) (BitVec.allOnes 32)
    | 4 => vs.foldl (· ||| ·) 0
    | _ => vs.foldl (· ^^^ ·) 0
  laneGives 0x40 .vperm false (fun _ x f i => plain (laneA x f ((laneB x f i).toNat % 64))) ∧
  laneGives 0x41 .vrot false (fun _ x f i => plain (laneA x f ((i + f.imm.toNat) % 64))) ∧
  laneGives 0x42 .vshuf false (fun _ x f i => plain (laneA x f ((i ^^^ f.imm.toNat) % 64))) ∧
  laneGives 0x43 .vbcast false (fun _ x f _ => plain (laneA x f (f.imm.toNat % 64))) ∧
  laneGives 0x46 .vidxr false (fun _ x f i => plain (laneValue x.lanes ((laneA x f i).toNat % 64) ((laneB x f i).toNat % 256))) ∧
  (laneGives 0x44 .vred false (fun s x f _ => if f.f1 = 0 then
      ((pairTree (viewOf s x f) 6 (redInputs (viewOf s x f))).1.headD 0, (pairTree (viewOf s x f) 6 (redInputs (viewOf s x f))).2)
    else plain (fold x f (activeList x.lanes f)))) ∧
  (laneGives 0x45 .vscan false (fun s x f i => if f.f1 = 0 then
      ((scanAll (viewOf s x f) 6 1 (redInputs (viewOf s x f))).1.getD i 0, (scanAll (viewOf s x f) 6 1 (redInputs (viewOf s x f))).2)
    else plain (fold x f ((activeList x.lanes f).filter fun j => decide (j ≤ i))))) ∧
  (∀ s f, LaneReady s 0x47 f → ∃ t, Machine.exec (.vidxw f) s = .next t ∧
    let x := curCtx s
    let l := x.lanes
    let m := (ctxAt t s.run.cur).lanes
    (∀ i < 64, ∀ j < 256, laneValue m i j =
      match (activeList l f).reverse.find? fun k => decide ((laneA x f k).toNat % 64 = i ∧ (laneB x f k).toNat % 256 = j) with
      | some k => laneValue l k (laneIndex l f.id f.d k)
      | none => laneValue l i j) ∧
    m.q = l.q ∧ m.masks = l.masks ∧ m.gen = l.gen ∧ m.flying = [] ∧ laneFrame s t 0)

/-- R436 to R439: the lane loads: with every active lane's bytes aligned, inside the allotment and owned by the thread, each active lane receives them. -/
def Claims.LaneLoads : Prop := ∀ (s : State) (f : LaneFields),
  let c := s.run.cur
  let x := curCtx s
  let l := x.lanes
  let n := if (f.imm.extractLsb' 20 2).toNat = 0 then 4 else if (f.imm.extractLsb' 20 2).toNat = 1 then 2 else 1
  let base := ((laneA x f 0).toNat + f.imm.toNat % 2 ^ 20) % 2 ^ 20
  let good := fun (i n : Nat) (addr rep : Nat) => laneActive l f.pred.toNat i = true →
    rep % n = 0 ∧ addr + n ≤ 4096 * x.gran.length ∧ granuleOwner s c (addr / 4096) = 0
  let gives := fun (i : Instr) (g : Nat → Lane) => ∃ t, Machine.exec i s = .next t ∧
    let m := (ctxAt t c).lanes
    (∀ i < 64, ∀ j < 256, laneValue m i j = if laneActive l f.pred.toNat i = true ∧ j = laneIndex l f.id f.d i then g i else laneValue l i j) ∧
    m.q = l.q ∧ m.masks = l.masks ∧ m.gen = l.gen ∧ m.flying = [] ∧ coresStay s t ∧ laneFrame s t 0
  let ext := fun (bs : List Byte) => if f.imm.getLsbD 22 = true ∧ n < 4 then (BitVec.ofNat (8 * n) (leNat bs)).signExtend 32 else BitVec.ofNat 32 (leNat bs)
  (LaneReady s 0x50 f → (∀ i < 64, good i n (base + n * i) (base + n * i)) → gives (.vld f) (fun i => ext (scratchBytes s c (base + n * i) n))) ∧
  (LaneReady s 0x54 f → (∀ i < 64, good i n base base) → gives (.vldbc f) (fun _ => ext (scratchBytes s c base n))) ∧
  (LaneReady s 0x52 f → (∀ i < 64, good i 4 (columnAddr i (laneA x f i).toNat) (laneA x f i).toNat) →
    gives (.vldg f) (fun i => BitVec.ofNat 32 (leNat (scratchBytes s c (columnAddr i (laneA x f i).toNat) 4))))

/-- R436 to R439: the lane stores: each active lane's low bytes of b stand at its place, VSTP packing the active lanes; no other byte changes. -/
def Claims.LaneStores : Prop := ∀ (s : State) (f : LaneFields),
  let c := s.run.cur
  let x := curCtx s
  let l := x.lanes
  let n := if (f.imm.extractLsb' 20 2).toNat = 0 then 4 else if (f.imm.extractLsb' 20 2).toNat = 1 then 2 else 1
  let base := ((laneA x f 0).toNat + f.imm.toNat % 2 ^ 20) % 2 ^ 20
  let rank := fun (i : Nat) => ((activeList l f).filter fun j => decide (j < i)).length
  let good := fun (i n : Nat) (addr rep : Nat) => laneActive l f.pred.toNat i = true →
    rep % n = 0 ∧ addr + n ≤ 4096 * x.gran.length ∧ granuleOwner s c (addr / 4096) = 0
  let stores := fun (i : Instr) (n : Nat) (addr : Nat → Nat) => ∃ t, Machine.exec i s = .next t ∧
    (∀ i < 64, laneActive l f.pred.toNat i = true → scratchBytes t c (addr i) n = natLe n (laneB x f i).toNat) ∧
    (∀ p, (∀ i < 64, laneActive l f.pred.toNat i = true → ∀ k < n, p ≠ physByte x (addr i + k)) →
      readByte (coreAt t (coreOf c)).scratch p = readByte (coreAt s (coreOf c)).scratch p) ∧
    (∀ k, k ≠ coreOf c → coreAt t k = coreAt s k) ∧
    (∀ i j, laneValue (ctxAt t c).lanes i j = laneValue l i j) ∧ (ctxAt t c).lanes.q = l.q ∧ (ctxAt t c).lanes.masks = l.masks ∧ laneFrame s t 0
  x.gran.Nodup → Memory.wf (coreAt s (coreOf c)).scratch = true →
  (LaneReady s 0x51 f → (∀ i < 64, good i n (base + n * i) (base + n * i)) → stores (.vst f) n (fun i => base + n * i)) ∧
  (LaneReady s 0x55 f → (∀ i < 64, good i n (base + n * rank i) (base + n * rank i)) → stores (.vstp f) n (fun i => base + n * rank i)) ∧
  (LaneReady s 0x53 f → (∀ i < 64, good i 4 (columnAddr i (laneA x f i).toNat) (laneA x f i).toNat) →
    stores (.vstx f) 4 (fun i => columnAddr i (laneA x f i).toNat))

/-- R440: the mask stack; a push on a full stack of eight, and MINV or MPOP with the lowest entry alone, fault with 0x22. -/
def Claims.MaskStackWords : Prop := ∀ (s : State) (f : LaneFields),
  let c := s.run.cur
  let x := curCtx s
  let l := x.lanes
  let top := l.masks.headD (BitVec.allOnes 64)
  let sets := fun (i : Instr) (ms : List (BitVec 64)) (pops : Nat) => ∃ t, Machine.exec i s = .next t ∧
    (ctxAt t c).lanes.masks = ms ∧ (ctxAt t c).lanes.regs = l.regs ∧ (ctxAt t c).lanes.q = l.q ∧ (ctxAt t c).lanes.gen = l.gen ∧
    coresStay s t ∧ laneFrame s t pops
  let bad := fun (i : Instr) => Machine.exec i s = .next (laneFault s c 0x22 0)
  (∀ p rest, LaneReady s 0x60 f → poppable s c = { kind := 0, payload := p } :: rest →
    (l.masks.length < 8 → sets (.mpush f) ((top &&& p) :: l.masks) 1) ∧ (8 ≤ l.masks.length → bad (.mpush f))) ∧
  (LaneReady s 0x61 f →
    (l.masks.length < 8 → ∃ m, sets (.mpushq f) (m :: l.masks) 0 ∧
      ∀ i < 64, m.getLsbD i = (top.getLsbD i && (mget l.q f.a.toNat 0).getLsbD i)) ∧ (8 ≤ l.masks.length → bad (.mpushq f))) ∧
  (LaneReady s 0x62 f → (∀ t u r, l.masks = t :: u :: r → sets (.minv f) ((u &&& ~~~t) :: u :: r) 0) ∧ (l.masks.length < 2 → bad (.minv f))) ∧
  (LaneReady s 0x63 f → (∀ t u r, l.masks = t :: u :: r → sets (.mpop f) (u :: r) 0) ∧ (l.masks.length < 2 → bad (.mpop f))) ∧
  (LaneReady s 0x65 f → ∀ r b, l.masks = r ++ [b] → sets (.mclr f) [b] 0) ∧
  (LaneReady s 0x64 f → ∃ t, Machine.exec (.mtoq f) s = .next t ∧ (∀ i < 64, (mget (ctxAt t c).lanes.q f.d.toNat 0).getLsbD i = top.getLsbD i) ∧
    (∀ r, r ≠ f.d.toNat → mget (ctxAt t c).lanes.q r 0 = mget l.q r 0) ∧ (ctxAt t c).lanes.regs = l.regs ∧ (ctxAt t c).lanes.masks = l.masks ∧
    laneFrame s t 0)

/-- R245, R441: VNOP passes a cycle; VSEED seeds the active lanes' generators, 1 for 0; VSTAT reads LST or the generator, and imm 1 clears LST. -/
def Claims.LaneSystemWords : Prop := ∀ (s : State) (f : LaneFields),
  let c := s.run.cur
  let x := curCtx s
  let l := x.lanes
  let act := laneActive l f.pred.toNat
  (LaneReady s 0x70 f → ∃ t, Machine.exec (.vnop f) s = .next t ∧ (ctxAt t c).lanes.regs = l.regs ∧ (ctxAt t c).lanes.q = l.q ∧
    (ctxAt t c).lanes.gen = l.gen ∧ (ctxAt t c).lanes.lst = l.lst ∧ (ctxAt t c).lanes.masks = l.masks ∧ coresStay s t ∧ laneFrame s t 0) ∧
  (LaneReady s 0x71 f → ∃ t, Machine.exec (.vseed f) s = .next t ∧
    (∀ i < 64, genOf (ctxAt t c) i = if act i then (if laneA x f i = 0 then 1 else laneA x f i) else genOf x i) ∧
    (ctxAt t c).lanes.regs = l.regs ∧ (ctxAt t c).lanes.q = l.q ∧ coresStay s t ∧ laneFrame s t 0) ∧
  (LaneReady s 0x72 f → ∃ t, Machine.exec (.vstat f) s = .next t ∧
    (∀ i < 64, ∀ j < 256, laneValue (ctxAt t c).lanes i j = if act i ∧ j = laneIndex l f.id f.d i then
      (if f.imm = 2 then genOf x i else (mget l.lst i 0).setWidth 32) else laneValue l i j) ∧
    (∀ i < 64, msorted 0 l.lst = true → mget (ctxAt t c).lanes.lst i 0 = if f.imm = 1 ∧ act i = true then 0 else mget l.lst i 0) ∧
    (ctxAt t c).lanes.q = l.q ∧ laneFrame s t 0)

/-- R193, R347, R350, R439, R440, R442: where a lane word faults: every word with 0x23 outside a section or past its end, and with 0x22 when it is illegal or its bound is below the minimum; a
popping word with 0x21 when the control queue's oldest entry is of another kind, and with the queue empty the lanes wait; a scratchpad word by the first check of R439 that an active lane fails,
at the lowest such lane: 0x17 for its alignment, 0x20 outside the allotment, 0x20 for a granule that the thread does not own. An illegal word's own effect is its fault (R347): in every
state it ends the team of its lanes with a fault record of its cause, 0x23 where it lies beyond its section, else 0x22. That an MPUSH on eight entries faults with 0x21 where the
oldest token is of another kind, and with 0x22 on an empty queue, and that the record names the address of the lowest lane that fails the check, are the model's choices (log 105). -/
def Obligations.LaneWordFaults : Prop := ∀ (s : State) (f : LaneFields) (w : BitVec 96),
  let c := s.run.cur
  let x := curCtx s
  let l := x.lanes
  let act := fun (i : Nat) => laneActive l f.pred.toNat i = true
  let n := if (f.imm.extractLsb' 20 2).toNat = 0 then 4 else if (f.imm.extractLsb' 20 2).toNat = 1 then 2 else 1
  let base := ((laneA x f 0).toNat + f.imm.toNat % 2 ^ 20) % 2 ^ 20
  let rank := fun (i : Nat) => ((activeList l f).filter fun j => decide (j < i)).length
  let first := fun (i : Instr) (cause : Nat) (rep : Nat → Nat) (p : Nat → Prop) => (∃ j < 64, act j ∧ p j) →
    ∃ j < 64, act j ∧ p j ∧ (∀ k < j, act k → ¬ p k) ∧ Machine.exec i s = .next (laneFault s c cause (BitVec.ofNat 64 (rep j)))
  let checks := fun (i : Instr) (n : Nat) (addr rep : Nat → Nat) =>
    let mis := fun (j : Nat) => rep j % n ≠ 0
    let out := fun (j : Nat) => 4096 * x.gran.length < addr j + n
    let foreign := fun (j : Nat) => granuleOwner s c (addr j / 4096) ≠ 0
    first i 0x17 rep mis ∧ ((∀ j < 64, act j → ¬ mis j) → first i 0x20 rep out) ∧
      ((∀ j < 64, act j → ¬ mis j ∧ ¬ out j) → first i 0x20 rep foreign)
  (∀ i op g, laneParts i = some (op, g) →
    (l.sects = [] → Machine.exec i s = .next (laneFault s c 0x23 0)) ∧
    (∀ t r, l.sects = t :: r → t.stop < l.pos + 12 → Machine.exec i s = .next (laneFault s c 0x23 0)) ∧
    (∀ t r, l.sects = t :: r → l.pos + 12 ≤ t.stop → laneLegal op.toNat g = false ∨ g.lat.toNat + 1 < laneMinBound op.toNat t.full g →
      Machine.exec i s = .next (laneFault s c 0x22 0))) ∧
  (l.sects = [] → Machine.exec (.illegalLaneWord w) s = .next (laneFault s c 0x23 0)) ∧
  (∀ t r, l.sects = t :: r → t.stop < l.pos + 12 → Machine.exec (.illegalLaneWord w) s = .next (laneFault s c 0x23 0)) ∧
  (∀ t r, l.sects = t :: r → l.pos + 12 ≤ t.stop → Machine.exec (.illegalLaneWord w) s = .next (laneFault s c 0x22 0)) ∧
  (let inside := ∃ t r, l.sects = t :: r ∧ l.pos + 12 ≤ t.stop
   let n := (vnpuAt s x.v).tfcnt % 8
   ∃ t, Machine.exec (.illegalLaneWord w) s = .next t ∧ (ctxAt t c).phase = .empty ∧ (vnpuAt t x.v).tfcnt = ((vnpuAt s x.v).tfcnt + 1) % 2 ^ 32 ∧
    (inside → (mget (vnpuAt t x.v).tf n []).take 2 = [0x22, 0x00]) ∧ (¬ inside → (mget (vnpuAt t x.v).tf n []).take 2 = [0x23, 0x00])) ∧
  (LaneReady s 0x50 f → checks (.vld f) n (fun j => base + n * j) (fun j => base + n * j)) ∧
  (LaneReady s 0x51 f → checks (.vst f) n (fun j => base + n * j) (fun j => base + n * j)) ∧
  (LaneReady s 0x54 f → checks (.vldbc f) n (fun _ => base) (fun _ => base)) ∧
  (LaneReady s 0x55 f → checks (.vstp f) n (fun j => base + n * rank j) (fun j => base + n * rank j)) ∧
  (LaneReady s 0x52 f → checks (.vldg f) 4 (fun j => columnAddr j (laneA x f j).toNat) (fun j => (laneA x f j).toNat)) ∧
  (LaneReady s 0x53 f → checks (.vstx f) 4 (fun j => columnAddr j (laneA x f j).toNat) (fun j => (laneA x f j).toNat)) ∧
  (∀ t r, LaneReady s 0x1D f → poppable s c = t :: r → t.kind ≠ 3 → Machine.exec (.vtok f) s = .next (laneFault s c 0x21 0)) ∧
  (LaneReady s 0x1D f → poppable s c = [] → Machine.exec (.vtok f) s = .next (laneWait s c)) ∧
  (∀ t r, LaneReady s 0x60 f → poppable s c = t :: r → t.kind ≠ 0 → Machine.exec (.mpush f) s = .next (laneFault s c 0x21 0)) ∧
  (LaneReady s 0x60 f → poppable s c = [] → l.masks.length < 8 → Machine.exec (.mpush f) s = .next (laneWait s c)) ∧
  (LaneReady s 0x60 f → poppable s c = [] → 8 ≤ l.masks.length → Machine.exec (.mpush f) s = .next (laneFault s c 0x22 0))

/-- R349, R350, R413, R420: a well-formed section header of kind 1 or 2 pops its token (R193); with an empty top mask, an outcome of 0 or a trip count of 0 the section is skipped, and counts
as retired (R393); else it is entered, a loop for TRIP passes; an entered section of two units closes at once. No cycle passes, and nothing else of the state changes. A malformed header faults
with 0x23, a token of another kind with 0x21; with no token the lanes wait. -/
def Obligations.SectionHeaders : Prop := ∀ (h : HeaderFields) (s : State),
  let c := s.run.cur
  let x := curCtx s
  let l := x.lanes
  let top := l.masks.headD (BitVec.allOnes 64)
  let stop := l.pos + 4 * h.length.toNat
  let open' := fun (n : Nat) => { num := h.num.toNat, hdr := l.pos, first := l.pos + 8, stop := stop, trips := n, full := h.full, last := h.last, landed := 0 : Sect }
  let kept := fun (t : State) (pops : Nat) =>
    let m := (ctxAt t c).lanes
    { ctxAt t c with lanes := l, ctlq := x.ctlq } = x ∧ (ctxAt t c).ctlq = x.ctlq.drop pops ∧ m.clock = l.clock ∧ m.regs = l.regs ∧ m.q = l.q ∧ m.masks = l.masks ∧
      m.gen = l.gen ∧ m.lst = l.lst ∧ (∀ d, d ≠ c → ctxAt t d = ctxAt s d) ∧ t.run.rota = againFirst (.lanes c) s.run.rota ∧
      { t with ctxs := s.ctxs, run := { t.run with rota := s.run.rota } } = s
  let enters := fun (pops n : Nat) => gives (.sectionHeader h) s fun t => kept t pops ∧
    let m := (ctxAt t c).lanes
    (2 < h.length.toNat → m.sects = open' n :: l.sects ∧ m.pos = l.pos + 8) ∧
    (h.length.toNat = 2 → m.sects = (moveTo l stop).sects ∧ m.pos = (moveTo l stop).pos ∧ (∃ more, m.retiring = l.retiring ++ (h.num.toNat, 0, l.clock) :: more) ∧
      (h.last = true → m.ended = true))
  let skips := fun (pops : Nat) => gives (.sectionHeader h) s fun t => kept t pops ∧
    let m := (ctxAt t c).lanes
    m.sects = (moveTo l stop).sects ∧ m.pos = (moveTo l stop).pos ∧ m.num = h.num.toNat ∧ m.any = true ∧ (h.last = true → m.ended = true)
  (headerBad l h = true → Machine.exec (.sectionHeader h) s = .next (laneFault s c 0x23 0)) ∧
  (headerBad l h = false →
    (h.kind.toNat = 0 → (top ≠ 0 → enters 0 1) ∧ (top = 0 → skips 0)) ∧
    (∀ p rest, h.kind.toNat = 1 → poppable s c = { kind := 2, payload := p } :: rest →
      (top ≠ 0 → p.getLsbD 0 = true → enters 1 1) ∧ (top = 0 ∨ p.getLsbD 0 = false → skips 1)) ∧
    (∀ p rest, h.kind.toNat = 2 → poppable s c = { kind := 1, payload := p } :: rest →
      (top ≠ 0 → p.setWidth 32 ≠ 0#32 → enters 1 (p.setWidth 32).toNat) ∧ (top = 0 ∨ p.setWidth 32 = 0#32 → skips 1)) ∧
    (h.kind.toNat ≠ 0 → poppable s c = [] → Machine.exec (.sectionHeader h) s = .next (laneWait s c)) ∧
    (∀ t rest, h.kind.toNat ≠ 0 → poppable s c = t :: rest → t.kind ≠ (if h.kind.toNat = 1 then 2 else 1) →
      Machine.exec (.sectionHeader h) s = .next (killTeam s c 0x21 l.pos 0)))

/-- R265, R451: the accumulator port. MACL clears the set it names and gives it the KIND of bit 57; MASV writes rows of 128 32-bit entries to
range A; MARS reads them back; each leaves the other sets alone. The rows of a turn are done as MASV and MARS start (log 57), the rest by `portGo` from the row
where the unit stands. -/
def Claims.AccumulatorPortCommands : Prop := ∀ (s : State) (e : EngineFields),
  let c := s.run.cur
  let x := curCtx s
  let core := coreOf c
  let p := physSet x (wbits e.wa 59 58)
  let base := 4096 * gaf e + wbits e.wa 43 28 * 64
  let row0 := wbits e.wa 57 51
  let rows := wbits e.wa 50 44 + 1
  let upTo := fun (n : Nat) => min rows (n + turnPieces s)
  let saved := fun (t : State) (n m : Nat) =>
    (∀ i, n ≤ i → i < m → ∀ k < 128, leNat (scratchBytes t c (base + 512 * i + 4 * k) 4) = (mget (setAt s core p).ent (128 * (row0 + i) + k) 0).toNat) ∧
    (∀ a, a < 4096 * x.gran.length → a < base + 512 * n ∨ base + 512 * m ≤ a → scratchByte t c a = scratchByte s c a) ∧
    (∀ q, q ≠ p → setAt t core q = setAt s core q) ∧ (setAt t core p).ent = (setAt s core p).ent
  let restored := fun (t : State) (n m : Nat) =>
    (∀ i, n ≤ i → i < m → ∀ k < 128, (mget (setAt t core p).ent (128 * (row0 + i) + k) 0).toNat = leNat (scratchBytes s c (base + 512 * i + 4 * k) 4)) ∧
    (∀ j, j < 128 * (row0 + n) ∨ 128 * (row0 + m) ≤ j → mget (setAt t core p).ent j 0 = mget (setAt s core p).ent j 0) ∧
    (setAt t core p).kindInt = (setAt s core p).kindInt ∧
    (∀ q, q ≠ p → setAt t core q = setAt s core q) ∧ (coreAt t core).scratch = (coreAt s core).scratch
  (MatrixReady s (.macl e) 3 false false → maclCheck e x = none → ∃ t, Machine.exec (.macl e) s = .next t ∧
    (∀ j, j < 128 * 128 → mget (setAt t core p).ent j 0 = 0) ∧ (setAt t core p).kindInt = e.wa.getLsbD 57 ∧ (setAt t core p).sat = false ∧
    (setAt t core p).nv = false ∧ (setAt t core p).ovf = false ∧ (setAt t core p).owner = some (ownTag c x) ∧
    (∀ q, q ≠ p → setAt t core q = setAt s core q) ∧ (coreAt t core).scratch = (coreAt s core).scratch ∧ startedIn t c 3 (.macl e) ∧ engineFrame s t) ∧
  (portCheck e x = none → gaf e + gan e ≤ x.gran.length → x.gran.Nodup → Memory.wf (coreAt s core).scratch = true →
    (MatrixReady s (.masv e) 3 true false → ∃ t, Machine.exec (.masv e) s = .next t ∧
      saved t 0 (upTo 0) ∧ rowsDone t c 3 (.masv e) (upTo 0) ∧ engineFrame s t) ∧
    (∀ u : RunCmd, u.ctx = c → u.cmd.cmd = .masv e → u.cmd.steps ≤ rows →
      saved (portGo u s) u.cmd.steps (upTo u.cmd.steps) ∧ rowsDone (portGo u s) c 3 (.masv e) (upTo u.cmd.steps))) ∧
  (portCheck e x = none →
    (MatrixReady s (.mars e) 3 true false → ∃ t, Machine.exec (.mars e) s = .next t ∧
      restored t 0 (upTo 0) ∧ rowsDone t c 3 (.mars e) (upTo 0) ∧ engineFrame s t) ∧
    (∀ u : RunCmd, u.ctx = c → u.cmd.cmd = .mars e → u.cmd.steps ≤ rows →
      restored (portGo u s) u.cmd.steps (upTo u.cmd.steps) ∧ rowsDone (portGo u s) c 3 (.mars e) (upTo u.cmd.steps)))

/-- R447, R448: a weight load puts a tile of its bank last, not current: MWL's bytes as they stand in range A, MWA's taken by rows, with the scales of
range B for a block format. That the whole tile stands in the buffer as the command starts, in one turn, is the model's choice (log 14). -/
def Claims.WeightLoads : Prop := ∀ (s : State) (e : EngineFields),
  let c := s.run.cur
  let k := coreAt s (coreOf c)
  let fmt := wbits e.wa 63 60
  let blk := decide (planeBytes fmt ≠ 0)
  let src := scratchBytes s c (4096 * gaf e + wbits e.wa 59 44 * 64) 16384
  let scales := scratchBytes s c (4096 * gbf e + wbits e.wa 43 28 * 64) (planeBytes fmt)
  let room := (placeTile k (bankOf c) { bank := bankOf c, cur := false, fmt := fmt, data := [], scales := [] }).isSome = true
  let loads := fun (i : Instr) (data : List Byte) => ∃ t, Machine.exec i s = .next t ∧
    lastTile (coreAt t (coreOf c)) (bankOf c) = some { bank := bankOf c, cur := false, fmt := fmt, data := data, scales := scales } ∧
    (∀ d ∈ (coreAt t (coreOf c)).tiles, d.bank ≠ bankOf c → d ∈ k.tiles) ∧
    (coreAt t (coreOf c)).scratch = k.scratch ∧ (coreAt t (coreOf c)).accs = k.accs ∧ startedIn t c 0 i ∧ engineFrame s t
  loadCheck e = none → room →
  (MatrixReady s (.mwl e) 0 true blk → loads (.mwl e) src) ∧
  (MatrixReady s (.mwa e) 0 true blk → loads (.mwa e) (fromRows fmt src)) ∧
  (fmtWidth fmt = 8 → ∀ col < 128, ∀ b < 128, (fromRows fmt src).getD (128 * col + b) 0 = src.getD (128 * b + col) 0) ∧
  (fmtWidth fmt = 16 → ∀ col < 128, ∀ r < 64, ∀ h < 2, (fromRows fmt src).getD (128 * col + 2 * r + h) 0 = src.getD (256 * r + 2 * col + h) 0)

/-- R449: a stream makes the bank's last-loaded tile current, and the rows of its first turn (log 57) go through it into the set it names: row i of the set as
pass i makes it from the set and range A as they stood, with the free values of its pass; the other rows and sets stay. -/
def Claims.StreamCommand : Prop := ∀ (s : State) (e : EngineFields) (d : Tile),
  let c := s.run.cur
  let x := curCtx s
  let core := coreOf c
  let p := physSet x (wbits e.wa 59 58)
  let row0 := wbits e.wa 57 51
  let m := min (wbits e.wa 50 44 + 1) (turnPieces s)
  let cur := { d with cur := true }
  let before := fun (i : Nat) => if gBits d.fmt x.fid = 0 then s else { s with run := { s.run with free := s.run.free + i } }
  MatrixReady s (.mst e) 1 true (rowScales (wbits e.wa 63 60) != 0) → mstCheck s e x = none → lastTile (coreAt s core) (bankOf c) = some d →
  (∀ u, unitOf s core 0 = some u → u.ctx ≠ c) →
  ∃ t, Machine.exec (.mst e) s = .next t ∧
    (∀ i < m, ∀ k < 128, mget (setAt t core p).ent (128 * (row0 + i) + k) 0 =
      mget (passOf (before i) c e cur x.fid i (setAt s core p)).1.ent (128 * (row0 + i) + k) 0) ∧
    (∀ j, j < 128 * row0 ∨ 128 * (row0 + m) ≤ j → mget (setAt t core p).ent j 0 = mget (setAt s core p).ent j 0) ∧
    (∀ q, q ≠ p → setAt t core q = setAt s core q) ∧ lastTile (coreAt t core) (bankOf c) = some cur ∧
    (coreAt t core).scratch = (coreAt s core).scratch ∧ rowsDone t c 1 (.mst e) m ∧ engineFrame s t

/-- R260 to R262, R265 to R268: what a pass of a stream delivers, column by column. Each product is delivered with an error below 2^G, so exactly at F0: its
exact high columns with a field of G bits in place of the low ones. An INT8 pass adds the sum of the products to
the entry, clamped to 32 bits with SAT. A floating-point pass truncates each term to a multiple of 2^(E−50), E the exponent of the greatest one, and adds their sum with one rounding; a sum or terms of
0 leave the entry; a NaN, infinities of both signs, and infinities of one sign are as R261 says. -/
def Claims.PassArithmetic : Prop := ∀ (s : State) (c n fid : Nat) (e : EngineFields) (d : Tile) (a : AccSet),
  let fa := wbits e.wa 63 60
  let row := 128 * (wbits e.wa 57 51 + n)
  let base := 4096 * gaf e + wbits e.wa 43 28 * 64 + 128 * n
  let b := fmtWidth fa / 8
  let t := (passOf s c e d fid n a).1
  let act := fun (j : Nat) => leNat (scratchBytes s c (base + b * j) b)
  let wt := fun (k j : Nat) => leNat ((d.data.drop (128 * k + b * j)).take b)
  let old := fun (k : Nat) => mget a.ent (row + k) 0
  let new := fun (k : Nat) => mget t.ent (row + k) 0
  d.data.length = 16384 → t.kindInt = a.kindInt ∧ (∀ i, i < row ∨ row + 128 ≤ i → mget t.ent i 0 = mget a.ent i 0) ∧
  (fa = fmtI8 → d.fmt = fmtI8 → ∃ err : Nat → Nat → Int, (∀ k j, (err k j).natAbs < 2 ^ gBits fmtI8 fid ∧
      let x := (BitVec.ofNat 8 (act j)).toInt
      let y := (BitVec.ofNat 8 (wt k j)).toInt
      ∃ l < 2 ^ gBits fmtI8 fid, err k j = (if (x < 0 ↔ y < 0) then 1 else -1) * ((l : Int) - (lowColumns (lowWidth (gBits fmtI8 fid)) x.natAbs y.natAbs : Nat))) ∧
    let sum := fun (k : Nat) => (List.range 128).foldl (fun m j => m + ((BitVec.ofNat 8 (act j)).toInt * (BitVec.ofNat 8 (wt k j)).toInt + err k j)) (old k).toInt
    (∀ k < 128, (new k).toInt = max (-2 ^ 31) (min (2 ^ 31 - 1) (sum k))) ∧
    (t.sat = true ↔ a.sat = true ∨ ∃ k < 128, sum k < -2 ^ 31 ∨ 2 ^ 31 - 1 < sum k)) ∧
  ((fa = d.fmt ∧ (fa = fmtBF16 ∨ fa = fmtF16)) ∨ ((fa = fmtE4M3 ∨ fa = fmtE5M2) ∧ (d.fmt = fmtE4M3 ∨ d.fmt = fmtE5M2)) →
    let field := max (gBits fa fid) (gBits d.fmt fid)
    ∃ err : Nat → Nat → Int, (∀ k j, (err k j).natAbs < 2 ^ field) ∧ (∀ k j na nb ma mb ea eb, decodeF fa (act j) = .fin na ma ea → decodeF d.fmt (wt k j) = .fin nb mb eb →
      ∃ l < 2 ^ field, err k j = (l : Int) - (lowColumns (lowWidth field) ma mb : Nat)) ∧ ∀ k < 128,
    let exact := fun (j : Nat) => (fMul (decodeF fa (act j)) (decodeF d.fmt (wt k j))).1
    let term := fun (j : Nat) => match decodeF fa (act j), decodeF d.fmt (wt k j) with
      | .fin na ma ea, .fin nb mb eb => (if na = nb then (1 : Rat) else -1) * (((ma * mb : Nat) : Rat) + ((err k j : Int) : Rat)) * pow2 (ea + eb)
      | _, _ => 0
    let js := List.range (128 / b)
    let finite := ∀ j ∈ js, ∃ x m y, exact j = .fin x m y
    ((∃ j ∈ js, exact j = .nan) ∨ (∃ j ∈ js, exact j = .inf false) ∧ (∃ j ∈ js, exact j = .inf true) → (new k).toNat = nanEnc 0 ∧ t.nv = true) ∧
    (∀ x, (∃ j ∈ js, exact j = .inf x) → (∀ j ∈ js, exact j ≠ .nan ∧ exact j ≠ .inf !x) → (new k).toNat = (addF 0 rneInf (decodeF 0 (old k).toNat) (.inf x)).1) ∧
    (finite → (∀ j ∈ js, term j = 0) → new k = old k) ∧
    (∀ g : Int, finite → (∃ j ∈ js, pow2 (g + 50) ≤ (term j).abs) → (∀ j ∈ js, (term j).abs < pow2 (g + 51)) →
      let sum := js.foldl (fun (m : Rat) j => m + ((truncR (term j / pow2 g) : Int) : Rat) * pow2 g) 0
      (sum = 0 → new k = old k) ∧
      (∀ x m y, sum ≠ 0 → decodeF 0 (old k).toNat = .fin x m y → ∃ neg p q, dyadic neg p q = dyadic x m y + sum ∧ (p = 0 → neg = false) ∧
        (new k).toNat = (roundVal 0 rneInf (.fin neg p q)).1) ∧
      (sum ≠ 0 → ∀ x, decodeF 0 (old k).toNat = .inf x → (new k).toNat = withSign 0 x (infEnc 0)) ∧
      (sum ≠ 0 → decodeF 0 (old k).toNat = .nan → (new k).toNat = nanEnc 0)))

/-- R244, R247, R253, R275: what an epilogue's row delivers: the narrowed entries of the row one behind the other. A raw entry is converted once, so that one of the destination's own kind stands as it is; else the
entry, as FP32, is multiplied by its scale and added to its bias with one rounding, negative results become +0 under ReLU, and the result is converted. -/
def Claims.NarrowedRows : Prop := ∀ (fmt r : Nat) (raw relu : Bool) (ovt : Word) (a : AccSet) (block : List Byte),
  let rn : Rnd := { mode := 0, u := 0, full := true, ovt := ovt }
  let ent := fun (k : Nat) => mget a.ent (128 * r + k) 0
  let field := fun (o : Nat) => decodeF 0 (leNat ((block.drop o).take 4))
  let y := narrowRow fmt raw relu ovt a r block
  let b := fmtWidth fmt / 8
  let whole := (List.range 128).flatMap fun k => natLe 4 (ent k).toNat
  (raw = true → (fmt = fmtI32 → a.kindInt = true → y = (whole, 0)) ∧ (fmt = fmtF32 → a.kindInt = false → (∀ k < 128, decodeF 0 (ent k).toNat ≠ .nan) → y = (whole, 0))) ∧
  (∀ k < 128,
    let n := (ent k).toInt
    let v := if a.kindInt = true then FVal.fin (decide (n < 0)) n.natAbs 0 else decodeF 0 (ent k).toNat
    let x := if a.kindInt = true then decodeF 0 (roundVal 0 rn v).1 else v
    let p := fmaF 0 rn x (field (4 * k)) (field (512 + 4 * k))
    let z := decodeF 0 p.1
    let out := if raw = true then convert fmt rn v else
      convert fmt rn (if relu = true ∧ fSign z = true then .fin false 0 0 else z)
    (y.1.drop (b * k)).take b = natLe b out.1.toNat ∧ (out.2 &&& y.2 = out.2) ∧ (raw = false → p.2 &&& y.2 = p.2))

/-- R275, R276, R450: an epilogue to the scratchpad stores its narrowed rows one behind the other in range A, those of its first turn as it starts (log 57), with the
parameter block as it stands then; its set keeps its entries. -/
def Claims.EpilogueToScratchpad : Prop := ∀ (s : State) (e : EngineFields),
  let c := s.run.cur
  let x := curCtx s
  let core := coreOf c
  let fmt := wbits e.wa 63 60
  let p := physSet x (wbits e.wa 59 58)
  let m := min (wbits e.wa 50 44 + 1) (turnPieces s)
  let row0 := wbits e.wa 57 51
  let raw := e.wa.getLsbD 43
  let block := if raw then [] else scratchBytes s c (4096 * gbf e + wbits e.wa 24 9 * 64) 1040
  let base := 4096 * gaf e + wbits e.wa 40 25 * 64
  let n := 128 * dstBytes fmt
  e.wa.getLsbD 41 = false → MatrixReady s (.mep e) 2 true (!raw) → mepCheck s e x = none → gaf e + gan e ≤ x.gran.length → x.gran.Nodup →
  Memory.wf (coreAt s core).scratch = true → s.run.stuck = false →
  ∃ t, Machine.exec (.mep e) s = .next t ∧
    (∀ i < m, scratchBytes t c (base + n * i) n = (narrowRow fmt raw (e.wa.getLsbD 42) x.ovt (setAt s core p) (row0 + i) block).1) ∧
    (∀ a, a < 4096 * x.gran.length → a < base ∨ base + n * m ≤ a → scratchByte t c a = scratchByte s c a) ∧
    (setAt t core p).ent = (setAt s core p).ent ∧ (∀ q, q ≠ p → setAt t core q = setAt s core q) ∧ rowsDone t c 2 (.mep e) m ∧ engineFrame s t

/-- R444, R454 to R457: a copy that may start leaves its queue and stands started in its unit, from where it does the pieces of its first turn (log 57). -/
def Claims.CopyCommandsStart : Prop := ∀ (s : State) (e : EngineFields) (q : QCmd),
  let c := s.run.cur
  let mem := e.flags.getLsbD 0
  let starts := fun (i : Instr) (op : Nat) (mem : Bool) => CopyReady s i e op mem q →
    let q' := startedCopy s c op q
    ∃ s2, Machine.exec i s = .next (copyGo (jobOf s2 c op mem e q') (turnPieces s) (runOf s c q') s2) ∧
    startedIn s2 c 4 i ∧ (ctxAt s2 c).regs = (curCtx s).regs ∧ (ctxAt s2 c).k = (curCtx s).k ∧ s2.dev = s.dev ∧ s2.host = s.host ∧
    (∀ k a, readByte (coreAt s2 k).scratch a = readByte (coreAt s k).scratch a) ∧
    (∀ r rest, mget (curCtx s).cmdq 1 [] = r :: rest → r.cmd = i → mget (ctxAt s2 c).cmdq 1 [] = rest)
  starts (.cpl e) 0x11 false ∧ starts (.cpw e) 0x12 false ∧ starts (.cpg e) 0x13 false ∧ starts (.cpx e) 0x14 false ∧ starts (.cpf e) 0x15 mem ∧
  starts (.cpr e) 0x16 false ∧ starts (.cph e) 0x17 false

/-- R456, R457: a running team's copy inside its scratchpad of elements without scales, whose destination elements do not overlap, writes with as many pieces as it has elements,
at each destination element the bytes that the source element held at the start, staged then or apart from every destination; a fill writes the pattern; no other byte
of the allotment changes, and the copy has moved everything. -/
def Claims.ScratchpadCopyMovesElements : Prop := ∀ (s : State) (j : CopyJob) (u : RunCmd),
  let n := walkCount j.a
  let es := 2 ^ j.a.esz
  let src := fun (k : Nat) => (elemAt j.a k).toNat
  let dst := fun (k : Nat) => (elemAt j.b k).toNat
  let x := ctxAt s j.c
  let size := 4096 * x.gran.length
  let t := copyGo j n u s
  j.dst = .own → x.phase = .running → x.drain = .off → s.run.stuck = false →
  (j.op = 0x13 ∧ j.src = .own ∧ (∀ k < n, 0 ≤ elemAt j.a k ∧ src k + es ≤ size) ∧
      (u.cmd.snap = writeBytes [] 0 (scratchBytes s j.c 0 size) ∨ u.cmd.snap = [] ∧ ∀ k < n, ∀ m < n, src k + es ≤ dst m ∨ dst m + es ≤ src k) ∨
    j.op = 0x15 ∧ 8 ≤ u.cmd.walk.length) →
  j.a.blk = 0 → j.a.esz ≤ 3 → 0 < j.a.nx → 0 < j.b.nx → u.cmd.pos = 0 → u.cmd.begun = 0 → u.cmd.sc = 0 → u.ctx = j.c → x.gran.Nodup →
  Memory.wf (coreAt s (coreOf j.c)).scratch = true →
  (∀ k < n, 0 ≤ elemAt j.b k ∧ dst k + es ≤ size) → (∀ k < n, ∀ m < n, k ≠ m → dst k + es ≤ dst m ∨ dst m + es ≤ dst k) →
  (∀ k < n, scratchBytes t j.c (dst k) es = if j.op = 0x13 then scratchBytes s j.c (src k) es else u.cmd.walk.take es) ∧
  (∀ a < size, (∀ k < n, a < dst k ∨ dst k + es ≤ a) → scratchByte t j.c a = scratchByte s j.c a) ∧
  t.dev = s.dev ∧ t.host = s.host ∧ (∃ w, unitOf t (coreOf j.c) 4 = some w ∧ w.ctx = j.c ∧ copyOver j w.cmd = true)

/-- R444, R461, R463: a collective that may start leaves its queue, its input is read, and it waits for its instance, which it joins. -/
def Claims.CollectiveCommandsWaitForTheirInstance : Prop := ∀ (s : State) (e : EngineFields),
  let c := s.run.cur
  let x := curCtx s
  let joins := fun (i : Instr) (op : Nat) =>
    clCheck s x op e = none → mayStart s c = true → (∀ w ∈ s.collectives, w.ctx ≠ c) →
    lockFree s (runOf s c (headCmd s c 2 i)) = true → ownersOk s c 2 e true true = true →
    ∃ t w, Machine.exec i s = .next t ∧ t.collectives = s.collectives ++ [w] ∧ w.ctx = c ∧ w.team = x.team ∧ w.launch = x.launch ∧ w.bad = false ∧
      w.cid = clCid e ∧ w.inst = instanceOf s x.launch x.team (clCid e) ∧ w.cmd.cmd = i ∧ w.code = op ∧ w.done = false ∧
      w.data = (if clReads s x op e then scratchBytes s c (4096 * gbf e) (clBytes e) else []) ∧
      (∀ l, launchAt s x.launch = some l → instanceOf t x.launch x.team (clCid e) = instanceOf s x.launch x.team (clCid e) + 1) ∧
      (∀ r rest, mget x.cmdq 2 [] = r :: rest → r.cmd = i → mget (ctxAt t c).cmdq 2 [] = rest) ∧
      (ctxAt t c).regs = x.regs ∧ (ctxAt t c).k = x.k ∧ (coreAt t (coreOf c)).scratch = (coreAt s (coreOf c)).scratch ∧ t.dev = s.dev ∧ t.host = s.host
  joins (.clrs e) 0x21 ∧ joins (.clag e) 0x22 ∧ joins (.clar e) 0x23 ∧ joins (.clbc e) 0x24

/-- R461, R462: a full instance of agreeing collectives leaves in each team's range A that participant's output; an all-gather's output is the inputs one behind
the other, a broadcast's the root's, a reduce-scatter's that participant's share of the all-reduce's, and an all-reduce of two teams with 32-bit sums adds
element by element modulo 2^32. -/
def Claims.CollectiveOutputs : Prop :=
  (∀ (s : State) (launch cid : Nat) (h : ColWait),
    let ws := instanceParts s launch cid h.inst
    let e := (partsOf h.cmd.cmd).2.2
    let t := match launchAt s launch with | some x => x.nteams | none => 0
    let m := clModules s e
    let inputs := instanceInputs ws m t (clModule s e) (clBytes e) s.run.arg.data
    let out := fun (w : ColWait) => outputOf h.code e m t (clModule s e * t + w.team) inputs
    let base := fun (w : ColWait) => 4096 * gaf (partsOf w.cmd.cmd).2.2
    s.collectives.find? (fun w => w.launch == launch && w.cid == cid && !w.done && instanceFull s launch cid w.inst) = some h →
    s.run.arg.flag = false → s.run.arg.flag2 = false → ws.any (fun w => !clAgree h w) = false → (∀ w ∈ ws, w.bad = false) → (ws.map (·.ctx)).Nodup →
    (∀ w ∈ ws, (ctxAt s w.ctx).gran.Nodup ∧ base w + (out w).length ≤ 4096 * (ctxAt s w.ctx).gran.length ∧
      Memory.wf (coreAt s (coreOf w.ctx)).scratch = true) →
    (∀ w ∈ ws, ∀ y ∈ ws, w.ctx ≠ y.ctx → coreOf w.ctx = coreOf y.ctx → ∀ g ∈ (ctxAt s w.ctx).gran, g ∉ (ctxAt s y.ctx).gran) →
    gives (.collectiveInstanceMatch launch cid) s fun t => ∀ w ∈ ws, scratchBytes t w.ctx (base w) (out w).length = out w) ∧
  (∀ (e : EngineFields) (t p : Nat) (inputs : List (List Byte)), outputOf 0x22 e 1 t p inputs = inputs.flatten ∧
    (clRootM e = 0 → outputOf 0x24 e 1 t p inputs = inputs.getD (clRoot e) []) ∧
    (clFmt e ∈ [0, 1, 2, 6] → 0 < t → (clBytes e / (fmtWidth (clFmt e) / 8)) % t = 0 →
      outputOf 0x21 e 1 t p inputs = ((outputOf 0x23 e 1 t p inputs).drop (p * (clBytes e / t))).take (clBytes e / t))) ∧
  (∀ (e : EngineFields) (p : Nat) (x y : List Byte), clFmt e = fmtI32 → clOp e = 0 → x.length = clBytes e → y.length = clBytes e →
    ∀ j < clBytes e / 4, leNat (((outputOf 0x23 e 1 2 p [x, y]).drop (4 * j)).take 4) =
      (leNat ((x.drop (4 * j)).take 4) + leNat ((y.drop (4 * j)).take 4)) % 2 ^ 32)

/-- R444: a started command of a unit that has nothing left to do completes: its unit is free, its ranges have their next owners, the counter it names is
signalled, the event flag is set. -/
def Claims.EngineCompletionSignals : Prop := ∀ (s : State) (core unit : Nat) (u : RunCmd),
  let e := (partsOf u.cmd.cmd).2.2
  let c := u.ctx
  let x := ctxAt s c
  unit < 4 → unitOf s core unit = some u → coreOf c = core → commandDone s unit u = true → u.cmd.trap26 = false → (partsOf u.cmd.cmd).1 = 0 →
  (partsOf u.cmd.cmd).2.1 < 0x10 → x.gran.Nodup → gaf e + gan e ≤ x.gran.length → gbf e + gbn e ≤ x.gran.length →
  ∃ t, Machine.exec (.engineCommandComplete core unit) s = .next t ∧ (∀ o, unitOf t core o = if o = unit then none else unitOf s core o) ∧
    (∀ g < x.gran.length, granuleOwner t c g =
      if gaf e ≤ g ∧ g < gaf e + gan e then nxa e else if gbf e ≤ g ∧ g < gbf e + gbn e then nxb e else granuleOwner s c g) ∧
    (∀ k < 16, mget (ctxAt t c).k k 0 = if ken e = true ∧ k = ksel e then mget x.k k 0 + 1 else mget x.k k 0) ∧
    (ctxAt t c).ev = true ∧ (ctxAt t c).regs = x.regs ∧ (ctxAt t c).ctb = x.ctb ∧ t.dev = s.dev ∧ t.host = s.host ∧
    (coreAt t core).scratch = (coreAt s core).scratch

/-- R354, R356, R444, R445: an unassigned command at the head of its queue is rejected: it leaves the queue, one engine fault record of cause 0x01 is
written, the event flag is set, and the team goes on. -/
def Claims.UnassignedCommandsAreRejected : Prop := ∀ (eng : BitVec 2) (op : BitVec 6) (e : EngineFields) (s : State) (q : QCmd) (rest : List QCmd),
  let c := s.run.cur
  let x := curCtx s
  let i : Instr := .unassignedEngineCommand eng op e
  mget x.cmdq eng.toNat [] = q :: rest → q.cmd = i →
  ∃ t, Machine.exec i s = .next t ∧ mget (ctxAt t c).cmdq eng.toNat [] = rest ∧ (ctxAt t c).ev = true ∧ (ctxAt t c).phase = x.phase ∧
    (ctxAt t c).regs = x.regs ∧ (vnpuAt t x.v).tfcnt = ((vnpuAt s x.v).tfcnt + 1) % 2 ^ 32 ∧
    (mget (vnpuAt t x.v).tf ((vnpuAt s x.v).tfcnt % 8) []).take 2 = [0x01, 0x02] ∧ t.dev = s.dev ∧ t.host = s.host

/-! ## Module events -/

/-- R98, R99, R101, R105, R107: enabling a ring sets its counts to 0, or stops it with 0x0A when size or base is illegal; disabling clears EN; a tail
within the ring's units is taken and asks for packets, one beyond them stops the ring with 0x02; a queue's EN and PRIO are written; a mask of at most 8
rings that no other queue holds is taken while the queue is disabled, any other sets CFGERR. -/
def Claims.RingAndQueueRegisters : Prop := ∀ (s : State) (v r q : Nat) (w : Word),
  let x := ringAt s v r
  let y := queueAt s v q
  let others := fun (t : State) => (∀ k, k ≠ r → ringAt t v k = ringAt s v k) ∧ teamsStay s t
  let legal := wbits w 3 0 ≤ 8 ∧ x.base.toNat % (4096 * 2 ^ wbits w 3 0) = 0
  let cleared := { x with size := wbits w 3 0, head := 0, tail := 0, stop := false, code := 0, eseq := 0, fcause := 0, unit := 0, header := [] }
  (x.en = false → w.getLsbD 8 = true → legal → gives (.ringEnable v r w) s fun t => ringAt t v r = { cleared with en := true } ∧ others t) ∧
  (x.en = false → w.getLsbD 8 = true → ¬ legal → gives (.ringEnable v r w) s fun t =>
    ringAt t v r = { cleared with stop := true, code := 0x0A } ∧ raised s t [(v, 32)] ∧ others t) ∧
  (gives (.ringDisable v r w) s fun t => ringAt t v r = { x with en := false, size := if x.en = true then x.size else wbits w 3 0 } ∧ others t) ∧
  ((vnpuAt s v).resetting = false → x.en = true → x.stop = false →
    ((w.setWidth 32 - x.head).toNat ≤ 256 * 2 ^ x.size → noContract s v = false → gives (.tailWrite v r w) s fun t =>
      ringAt t v r = { x with tail := w.setWidth 32 } ∧ (∀ k, queueOfRing s v r = some k → asks t (.packetTake v k)) ∧ others t) ∧
    (256 * 2 ^ x.size < (w.setWidth 32 - x.head).toNat → gives (.tailWrite v r w) s fun t =>
      (ringAt t v r).stop = true ∧ (ringAt t v r).code = 0x02 ∧ (ringAt t v r).tail = x.tail ∧ raised s t [(v, 32)] ∧ others t)) ∧
  (gives (.lqCtlEn v q w) s fun t => queueAt t v q = { y with en := w.getLsbD 0, prio := wbits w 12 8 } ∧
    (w.getLsbD 0 = true → y.en = false → asks t (.packetTake v q)) ∧ teamsStay s t) ∧
  (y.en = false → popcount64 w ≤ 8 → (∀ p < 16, p ≠ q → (queueAt s v p).rmask &&& w = 0) → gives (.lqRings v q w) s fun t =>
    queueAt t v q = { y with rmask := w, visit := 0 } ∧ teamsStay s t) ∧
  (y.en = true ∨ 8 < popcount64 w ∨ (∃ p < 16, p ≠ q ∧ (queueAt s v p).rmask &&& w ≠ 0) → gives (.lqRings v q w) s fun t =>
    queueAt t v q = { y with cfgerr := true } ∧ teamsStay s t)

/-- R100, R102, R105, R108: a merge unit whose group has one ring with a packet takes it: its header, not read before, and its payload are read at the unit that HEAD
names, HEAD goes past it, and it stands last in its queue; a header that fails a check stops the ring with the check's code, and nothing is taken. -/
def Claims.MergeUnitTakesAPacket : Prop := ∀ (s s1 s2 : State) (v q r : Nat) (h b : List Byte) (code : Nat),
  let x := ringAt s v r
  let y := queueAt s v q
  let i : Instr := .packetTake v q
  let s1' := modRing s1 v r fun z => { z with header := h }
  let all := if pktType h = 1 then h else h ++ b
  mergeLive s v q = true → visitOrder y = [r] → x.en = true → x.stop = false → x.head ≠ x.tail → x.header = [] →
  feReadIn true (feDie q) 62 v 16 (x.base + BitVec.ofNat 64 (x.head.toNat % (256 * 2 ^ x.size) * 16)) s = .ok (s1, h) →
  (headerCode x h = none → pktLen h ≤ (x.tail - x.head).toNat →
    readUnits v q { x with header := h } (pktLen h - 1) (x.head.toNat + 1) s1' = (s2, b, none) → payloadBits all = false →
    noContract s v = false → addressBad all = false → gives i s fun t =>
      (queueAt t v q).packets = y.packets ++ [{ ring := r, unit := x.head, ty := pktType h, seq := pktSeq h, data := all }] ∧
      ringAt t v r = { x with head := x.head + BitVec.ofNat 32 (pktLen h) } ∧ asks t (.packetTake v q)) ∧
  (headerCode x h = some code → gives i s fun t =>
      (queueAt t v q).packets = y.packets ∧ (ringAt t v r).stop = true ∧ (ringAt t v r).code = code ∧ (ringAt t v r).head = x.head ∧
      (ringAt t v r).unit = x.head ∧ signalled s t v 32)

/-- R104, R107, R109 to R111: a NOP leaves its queue; a WAIT leaves it once the word it reads meets its condition, and reads again 100 ticks after the last read was due until
then, not before; FENCE, SIGNAL and TIMESTAMP wait until every earlier packet has completed, with EN 0 too once they are in progress, then store what the packet gives, a TIMESTAMP the tick at which its fence completed, the
interrupt of a SIGNAL after its word; a COPY leaves its queue and moves its first pieces, goes on with the next ones, and is over once it has moved its last byte. -/
def Obligations.QueuePacketEffects : Prop := ∀ (s s1 : State) (v q m k : Nat) (p : Packet) (rest : List Packet) (b : List Byte),
  let y := queueAt s v q
  let die := feDie q
  let addr := BitVec.ofNat 64 (pktHw2 p.data)
  let waiting := fun (t : State) => queueAt t v q = { y with head := .waiting }
  let polled := fun (i : Instr) => feReadIn false die 62 v 8 addr s = .ok (s1, b) →
    (waitHolds p.data (leNat b) = true → gives i s fun t => headGone s t v q ∧ memoriesStay s t) ∧
    (waitHolds p.data (leNat b) = false → gives i s fun t =>
      queueAt t v q = { y with head := .waiting, nextPoll := dueAt s + 100 } ∧ memoriesStay s t)
  let fenced := fun (i : Instr) (ty : Nat) (does : State → Prop) => p.ty = ty → queueGoes s v q = true →
    (queueQuiet s v q = true → gives i s fun t => headGone s t v q ∧ does t) ∧
    (queueQuiet s v q = false → gives i s fun t => waiting t ∧ teamsStay s t)
  let moved := fun (l : List (Packet × Nat)) => l.map fun e => if e.1 = p then (p, k) else e
  y.packets = p :: rest →
  (p.ty = 1 → queueLive s v q = true → gives (.nop v q) s fun t => headGone s t v q ∧ teamsStay s t) ∧
  (p.ty = 4 → queueLive s v q = true → y.head = .idle → polled (.wait v q)) ∧
  (p.ty = 4 → y.head = .waiting → y.nextPoll ≤ s.tick.toNat ∨ tryAgain s = true → polled (.waitPoll v q)) ∧
  (p.ty = 4 → y.head = .waiting → s.tick.toNat < y.nextPoll → tryAgain s = false → gives (.waitPoll v q) s (· = s)) ∧
  fenced (.pktFence v q) 6 (fun t => teamsStay s t) ∧
  (feStore die v (natLe 8 (dueAt s)) addr s = .ok s1 → fenced (.timestamp v q) 7 fun t => memoriesStay s1 t) ∧
  ((∀ e ∈ s.run.ledger, e.1 ≠ s.run.agent) → dueAt s = s.tick.toNat) ∧
  (∀ d rest, s.run.ledger = (s.run.agent, .began d) :: rest → dueAt s = d) ∧
  (pktHw2 p.data = 0 → fenced (.signal v q) 5 fun t =>
    memoriesStay s t ∧ raised s t (if nbits (pktHw1 p.data) 7 7 = 1 then [(v, pktHw1 p.data % 64)] else [])) ∧
  (pktHw2 p.data ≠ 0 → feStore die v ((p.data.drop 16).take 8) addr s = .ok s1 → fenced (.signal v q) 5 fun t =>
    memoriesStay s1 t ∧ raised s1 t (if nbits (pktHw1 p.data) 7 7 = 1 then [(v, pktHw1 p.data % 64)] else [])) ∧
  (p.ty = 8 → queueLive s v q = true → s.run.arg.flag3 = false → packetPieces die v p (s.run.pace + 1) 0 s = .ok (s1, k) →
    gives (.copy v q) s fun t => (queueAt t v q).packets = rest ∧ (queueAt t v q).copies = moved (y.copies ++ [(p, 0)]) ∧ memoriesStay s1 t ∧
      (copyLen p ≤ k → asks t (.copyPacketComplete v q))) ∧
  (y.copies.find? (fun e => !packetMoved e) = some (p, m) → s.run.arg.flag3 = true → packetPieces die v p (s.run.pace + 1) m s = .ok (s1, k) →
    gives (.copy v q) s fun t => (queueAt t v q).packets = y.packets ∧ (queueAt t v q).copies = moved y.copies ∧ memoriesStay s1 t ∧
      (copyLen p ≤ k → asks t (.copyPacketComplete v q))) ∧
  (y.copies.any packetMoved = true → gives (.copyPacketComplete v q) s fun t =>
    (queueAt t v q).copies = y.copies.filter (fun e => !packetMoved e) ∧ (queueAt t v q).packets = y.packets ∧ teamsStay s t)

/-- R112, R114 to R117, R119, R120: an accepted LAUNCH becomes a launch with the packet's record, a rejected one ends with vector 36, one of no teams ends
at once; an indirect launch holds its record and asks for its prologue, which starts with the registers R117 names and whose verdict 1 or 4,097th
instruction cancels it; a launch whose teams have all ended, or that has been ended from outside (R124, R136), leaves the device after its completion record; the launches that a destroyed queue ends get theirs in
the order in which they started (R125). -/
def Obligations.LaunchesStartAndComplete : Prop := ∀ (s s1 : State) (v q l status reason : Nat) (p : Packet) (h : ImageHeader) (i : Indirect) (x : Launch),
  let rec' := (p.data.drop 16).take 64
  let y := queueAt s v q
  let c := 200 + feDie q
  let f := ctxAt s c
  (headOf s v q 2 = some p → mayLaunch s v q = true →
    (checkLaunch s (feDie q) v rec' = (s1, .ok h) → gives (.launch v q) s fun t => headGone s t v q ∧ t.nextLaunch = s.nextLaunch + 1 ∧
      launchAt t s.nextLaunch = some (launchOf v q p.seq 0 rec' h) ∧ memoriesStay s t) ∧
    (checkLaunch s (feDie q) v rec' = (s1, .reject reason) → gives (.launch v q) s fun t => headGone s t v q ∧ t.launches = s.launches ∧
      signalled s t v 36) ∧
    (checkLaunch s (feDie q) v rec' = (s1, .empty) → gives (.launch v q) s fun t => headGone s t v q ∧ t.launches = s.launches)) ∧
  (headOf s v q 3 = some p → mayLaunch s v q = true → gives (.launchIndirect v q) s fun t =>
    (queueAt t v q).ind = some { packet := p, before := y.copies.map (·.1), run := 0, phase := .ready, record := rec', teams := 0, status := 0 } ∧
    (queueAt t v q).packets = y.packets.drop 1 ∧ asks t (.prologueRun v q) ∧ teamsStay s t) ∧
  (y.ind = some i → i.phase = .ready → f.phase = .empty → gives (.prologueRun v q) s fun t =>
    (queueAt t v q).ind = some { i with phase := .running } ∧ (ctxAt t c).phase = .running ∧ (ctxAt t c).v = v ∧
    (ctxAt t c).pc = BitVec.ofNat 64 (pktHw2 i.packet.data) ∧ (ctxAt t c).count = 0 ∧ (ctxAt t c).record = writeBytes [] 0 i.record ∧
    (∀ r, mget (ctxAt t c).regs r 0 = if r = 1 then 0x0000FFFFFFFFFFC0 else if r = 2 then BitVec.ofNat 64 i.packet.seq else
      if r = 3 then BitVec.ofNat 64 i.run else if r = 4 then BitVec.ofNat 64 i.teams else if r = 5 then BitVec.ofNat 64 i.status else 0) ∧
    .seq c ∈ t.run.rota ∧ memoriesStay s t) ∧
  (y.ind = some i → i.phase = .running → f.phase = .halted → f.v = v → f.launch = q → mget f.regs 2 0 = 1 → gives (.prologueRun v q) s fun t =>
    (queueAt t v q).ind = none ∧ ctxAt t c = freshCtx ∧ t.launches = s.launches ∧ signalled s t v 36) ∧
  (s.run.arg.flag = false → f.phase = .running → 4096 ≤ f.count → gives (.prologueBudgetExceeded (feDie q)) s fun t =>
    ctxAt t c = freshCtx ∧ (queueAt t f.v f.launch).ind = none ∧ t.launches = s.launches) ∧
  (msorted 0 s.launches = true → launchAt s l = some x → (x.final = none ∧ launchOver s l = true ∨ x.final = some (status, reason) ∧ earlierEnded s l x = false) →
    gives (.launchComplete l) s fun t =>
    launchAt t l = none ∧ (∀ k, k ≠ l → launchAt t k = launchAt s k) ∧ (x.doneaddr = 0 → memoriesStay s t) ∧
    (x.doneaddr ≠ 0 → feStore (feDie x.q) x.v (recordBytes s (x.final.getD (if x.faulted = true then 4 else 0, 0)).1 (x.final.getD (0, 0)).2 x.run x.seq x.retired)
        x.doneaddr s = .ok s1 → memoriesStay s1 t) ∧ ((queueAt s x.v x.q).busy = true → asks t (.destroyDone x.v x.q))) ∧
  (launchAt s l = some x → x.final = some (status, reason) → earlierEnded s l x = true → gives (.launchComplete l) s (· = stall s))

/-- R94 to R97, R124, R125: destroying a queue disables it and its rings and abandons its packets, and each launch of it that is not completing is to end with STATUS 1, as is a
LAUNCH that has started and waits; its end clears BUSY and sets DONE, once every launch has its record. A guest reset gives the VNPU's rings and queues their reset values and leaves it no launch
and no team, resident or evicted, its granules and its accumulator sets zeroed, and its class A window idle; its contracts, the energy it has used, its error counts, its bucket
levels and device memory stay, and so do the other VNPUs and their teams; its end lets the function go on. -/
def Obligations.DestroyAndGuestReset : Prop := ∀ (s : State) (v q : Nat) (p : Packet) (rest : List Packet),
  let y := queueAt s v q
  let ours := fun (c : Nat) => ∃ x, launchAt s (ctxAt s c).launch = some x ∧ x.v = v
  (y.busy = false → gives (.destroy v q) s fun t => (queueAt t v q).en = false ∧ (queueAt t v q).busy = true ∧ (queueAt t v q).packets = [] ∧
    (queueAt t v q).ind = none ∧ (∀ r < 64, (ringAt t v r).en = if y.rmask.getLsbD r = true then false else (ringAt s v r).en) ∧
    (∀ l x, launchAt s l = some x → x.v = v → x.q = q → launchOver s l = false → msorted 0 s.launches = true → l ≠ s.nextLaunch →
      asks t (.launchComplete l) ∧ ∃ z, launchAt t l = some z ∧ z.final = some (1, 0)) ∧
    (y.packets = p :: rest → y.ind = none → y.head = .begun → p.ty = 2 → msorted 0 s.launches = true →
      asks t (.launchComplete s.nextLaunch) ∧ ∃ z, launchAt t s.nextLaunch = some z ∧ z.final.isSome = true ∧ z.seq = p.seq ∧ z.v = v ∧ z.q = q) ∧
    asks t (.destroyDone v q)) ∧
  (y.busy = true → launchesOf s v q ≠ [] → gives (.destroyDone v q) s fun t => queueAt t v q = y ∧ teamsStay s t) ∧
  (y.busy = true → launchesOf s v q = [] → gives (.destroyDone v q) s fun t => queueAt t v q = { y with busy := false, done := true } ∧ teamsStay s t) ∧
  ((vnpuAt s v).resetting = false → s.mgmt.moving = [] → msorted 0 s.launches = true → gives (.guestReset v) s fun t =>
    (vnpuAt t v).resetting = true ∧ (∀ r, ringAt t v r = freshRing) ∧ (∀ k, queueAt t v k = freshQueue) ∧ (vnpuAt t v).chg = false ∧
    launchesOfV t v = [] ∧ (∀ k, (coreAt t k).tlb.any (fun e => e.v == v) = false) ∧ asks t (.guestResetDone v) ∧
    (∀ i w, windowAt s i = some w → classAWindow s i w = true → w.owner = v → windowActive s w = true → (i, v) ∈ t.frame.idle) ∧
    (msorted 0 s.ctxs = true → msorted 0 s.saves = true → msorted 0 s.buckets = true →
      (∀ c < 192, ours c → (ctxAt t c).phase = .empty) ∧
      (∀ n sv x, mfind s.saves n = some sv → launchAt s sv.ctx.launch = some x → x.v = v → mfind t.saves n = none) ∧
      (∀ c < 192, (ctxAt s c).v = v → (ctxAt s c).phase ≠ .empty → Memory.wf (coreAt s (coreOf c)).scratch = true →
        ∀ g ∈ (ctxAt s c).gran, ∀ i < 4096, readByte (coreAt t (coreOf c)).scratch (4096 * g + i) = 0) ∧
      (∀ k n o, (setAt s k n).owner = some o → o.v = v → ∀ j, mget (setAt t k n).ent j 0 = 0) ∧
      t.contracts = s.contracts ∧ (vnpuAt t v).errlo = (vnpuAt s v).errlo ∧ ((vnpuAt s v).eused ≤ cap48 → (vnpuAt s v).eused ≤ (vnpuAt t v).eused) ∧
      (∀ k b, mfind s.buckets k = some b → ∃ u, mfind t.buckets k = some u ∧ u.level ≤ b.level ∧ u.rate = b.rate ∧ u.depth = b.depth ∧ u.mode = b.mode) ∧
      (s.run.ledger = [] → (∀ e ∈ s.ctxs, e.2.mem = []) → memoriesStay s t ∧ ∀ w, w ≠ v → vnpuAt t w = vnpuAt s w) ∧
      (∀ c < 192, ¬ ours c → (ctxAt t c).phase = (ctxAt s c).phase ∧ (ctxAt t c).regs = (ctxAt s c).regs ∧ (ctxAt t c).pc = (ctxAt s c).pc ∧
        (ctxAt t c).gran = (ctxAt s c).gran))) ∧
  ((vnpuAt s v).resetting = true → gives (.guestResetDone v) s fun t => vnpuAt t v = { vnpuAt s v with resetting := false } ∧ teamsStay s t)

/-- R130, R137, R139, R140, R146, R155: at a window's start its decision is asked for, its VNPUs' buckets may trap again and its stopped teams run, unless there is no firmware (R76); at its
end the teams not served any more stop; at START − 4,000 of a class A window the others stop and are to leave. The statement is about teams outside linked
launches; registers and PCs stay in each case. -/
def Claims.WindowsStopAndResumeTeams : Prop := ∀ (s : State) (i c : Nat) (w : Window),
  let x := ctxAt s c
  let same := fun (t : State) => (ctxAt t c).regs = x.regs ∧ (ctxAt t c).pc = x.pc ∧ (ctxAt t c).loops = x.loops ∧ memoriesStay s t
  windowAt s i = some w → coreOf c ∈ windowCores w → x.linked = false → x.drain = .off →
  (windowActive s w = true → s.fw.mode ≠ .dead → x.phase = .stopped → mayResume s c = true → gives (.windowStart i) s fun t => (ctxAt t c).phase = .running ∧ same t ∧
    asks t (.dispatchDecision i) ∧ ∀ k b, mfind t.buckets k = some b → serves s i w (k % 32) = true → b.trapped = false) ∧
  (windowActive s w = true → s.fw.mode = .dead → x.phase = .stopped → gives (.windowStart i) s fun t => (ctxAt t c).phase = .stopped ∧ same t) ∧
  (s.run.arg.nums = [] → x.phase = .running → servedHere s c = false → gives (.windowEnd i) s fun t => (ctxAt t c).phase = .stopped ∧ same t) ∧
  (s.run.arg.flag = false → classAWindow s i w = true → x.phase = .running → serves s i w x.v = false → gives (.classAStop i) s fun t =>
    (ctxAt t c).phase = .stopped ∧ (ctxAt t c).evict = true ∧ same t)

/-- R121, R122, R130, R131, R134: in a started frame, the first bank that a window offers, when it is empty and the search finds a launch for it, loads that
launch's next team, with its number and its spatial indices; its image is asked for. The statement is about launches that are not linked. -/
def Claims.DispatchPlacesTheNextTeam : Prop := ∀ (s : State) (i c p n l : Nat) (w : Window) (x : Launch),
  windowAt s i = some w → s.frame.started = true → windowActive s w = true → s.fw.mode ≠ .dead → (∀ e ∈ s.launches, e.2.linked = false) →
  mfind s.frame.holds i = none → (bankOrder s i w).find? (offerable s) = some c → (ctxAt s c).phase = .empty → search s i w c = some (p, n, l) →
  launchAt s l = some x → nextEvicted s l = none → gives (.dispatchDecision i) s fun t =>
    let y := ctxAt t c
    y.phase = .loading ∧ y.v = x.v ∧ y.launch = l ∧ y.team = x.next ∧ y.nteams = x.nteams ∧ y.idx = teamIdx x.trips x.next ∧ y.args = x.args ∧
    y.image = x.image ∧ asks t (.overlayLoad c)

/-- R63, R88, R90, R91, R126, R128: writing CT_CTL or FT_CTL, but in recovery, starts a validation, during which BUSY is 1, of the record as it stood then; its end, by an active
complex (R76), sets DONE and CODE, raises vector 58 or 57, and stages what was accepted; a major-frame boundary starts the tick and the counts of energy again and counts the frame. -/
def Obligations.TablesAreValidatedAndFramesBegin : Prop := ∀ (s : State),
  (s.contracts.busy = false → inert s = false → gives .ctCtlGo s fun t => t.contracts = { s.contracts with busy := true, submitted := readBytes s.contracts.record 0 64, vnpu := (readByte s.contracts.record 0).toNat } ∧
    asks t .contractValidated ∧ teamsStay s t) ∧
  (s.contracts.busy = true → s.fw.mode ≠ .dead → gives .contractValidated s fun t =>
    let b := s.contracts.submitted
    let v := fieldAt b 0 1
    t.contracts.busy = false ∧ t.contracts.done = true ∧ t.contracts.code = contractCheck s b ∧ raised s t [(0, 58)] ∧
    t.contracts.inForce = s.contracts.inForce ∧ (v = 0 ∨ s.numVFs < v → t.contracts.code = 0x01) ∧
    (contractCheck s b ≠ 0 → t.contracts.staged = s.contracts.staged) ∧
    (contractCheck s b = 0 → (mfind t.contracts.staged v).isSome = true ∧ t.contracts.lastDone = s.tick.toNat) ∧ teamsStay s t) ∧
  (s.frame.busy = false → s.contracts.busy = false → inert s = false → gives .ftCtlGo s fun t =>
    t.frame = { s.frame with busy := true, submitted := (s.frame.frame, s.frame.table) } ∧ asks t .frameTableValidated ∧ teamsStay s t) ∧
  (s.fw.mode = .recovery → gives .ctCtlGo s (· = s) ∧ gives .ftCtlGo s (· = s)) ∧
  (s.frame.busy = true → s.fw.mode ≠ .dead → gives .frameTableValidated s fun t => t.frame.busy = false ∧ t.frame.done = true ∧ t.frame.code = (frameCheck s).1 ∧
    t.frame.win = (frameCheck s).2 ∧ raised s t [(0, 57)] ∧ t.frame.view = s.frame.view ∧
    (s.frame.submitted.1 < 100 ∨ 10000 < s.frame.submitted.1 → t.frame.code = 1 ∧ t.frame.staged = s.frame.staged) ∧
    ((frameCheck s).1 = 0 → t.frame.staged = some (s.frame.submitted.1, (frameRecords s).map windowOf)) ∧ teamsStay s t) ∧
  (gives .frameBoundary s fun t => t.frame.tick = 0 ∧ t.frame.frames = s.frame.frames + 1 ∧ ((∀ e ∈ s.launches, e.2.linked = false) →
    ∀ v, (vnpuAt t v).eused = 0 ∧ (vnpuAt t v).exhausted = false ∧ (vnpuAt t v).overrun = false))

/-- R153 to R155: a request that a bucket of MODE 1 or 3 does not admit waits in it; one of MODE 2 goes on and takes what the level has; of MODE 2 and 3 the first since TRAPPED
was cleared sets it, counts in BUD_EVT, raises vector 33, and pends 0x26 of its team, at most one; the notice comes before the team's next instruction. A regulator tick admits
the held requests that the level reaches, the oldest first, and their agents find them paid. -/
def Claims.ExhaustedBuckets : Prop := ∀ (s : State) (die point v bytes ctx key : Nat) (k : Bucket),
  let charge := if 64 ≤ point then (bytes + 63) / 64 * 64 else initCharge bytes s.run.arg.flag
  let b := bucketAt s die point v
  let x := ctxAt s ctx
  let exh := if b.held = [] then min 255 (b.exh + 1) else b.exh
  let held := b.held ++ [{ who := .nobody, ctx := ctx, charge := charge }]
  let passed := if b.mode = 2 then { b with exh := exh, level := b.level - charge } else { b with exh := exh, held := held }
  let request := fun (P : State → Prop) => gives (.bucketRequest die point v bytes ctx false) s P
  let full := min k.depth (k.level + k.rate)
  let cost := fun (l : List HeldReq) => l.foldl (fun a h => a + h.charge) 0
  (v ≠ 0 → admits b charge = false → engineRuns s = false →
    (b.mode = 1 ∨ (b.mode = 2 ∨ b.mode = 3) ∧ b.trapped = true → request fun t =>
      bucketAt t die point v = passed ∧ (∀ w, vnpuAt t w = vnpuAt s w) ∧ teamsStay s t ∧ raised s t []) ∧
    ((b.mode = 2 ∨ b.mode = 3) → b.trapped = false → request fun t =>
      bucketAt t die point v = { passed with trapped := true } ∧ vnpuAt t v = { vnpuAt s v with budEvt := (vnpuAt s v).budEvt + 1 } ∧ raised s t [(v, 33)] ∧
      memoriesStay s t ∧ (∀ c, ctxAt t c =
        if c = ctx ∧ c < 192 ∧ x.v = v ∧ x.phase ≠ .empty ∧ holds26 s c = false then { ctxAt s c with pend26 := true } else ctxAt s c))) ∧
  (ctx < 192 → settleBank s (coreOf ctx) = s → seqReady s ctx = true → x.drain = .off → x.pend27 = false → x.pend26 = true →
    (seqTurn s ctx).2 = none ∧ let t := (seqTurn s ctx).1
    (ctxAt t ctx).pend26 = false ∧ (ctxAt t ctx).pc = x.pc ∧ (ctxAt t ctx).regs = x.regs ∧ (vnpuAt t x.v).tfcnt = ((vnpuAt s x.v).tfcnt + 1) % 2 ^ 32 ∧
    (mget (vnpuAt t x.v).tf ((vnpuAt s x.v).tfcnt % 8) []).take 2 = [0x26, 0x01] ∧ memoriesStay s t) ∧
  (msorted 0 s.buckets = true → mfind s.buckets key = some k → gives .regulatorTick s fun t => ∃ n ≤ k.held.length,
    mfind t.buckets key = some { k with level := full - cost (k.held.take n), held := k.held.drop n } ∧ cost (k.held.take n) ≤ full ∧
    (∀ h, k.held[n]? = some h → full - cost (k.held.take n) < h.charge) ∧
    (∀ h ∈ k.held.take n, h.who ≠ .nobody → (∀ c, h.who ≠ .access c) → (h.who, .paid key h.charge) ∈ t.run.ledger) ∧ memoriesStay s t)

/-- R163, R164: when a VNPU's energy is exhausted, each of its running teams that no class A window protects stops, with the notice of cause 0x27 due; it is due of a team
that has stopped in the same tick too. -/
def Claims.QuotaExhaustionStopsTeams : Prop := ∀ (s : State) (v c : Nat),
  let x := ctxAt s c
  (vnpuAt s v).exhausted = true → c < 192 → x.v = v → (x.phase = .running ∨ x.phase = .stopped ∧ x.stopAt = s.tick.toNat + 1) → x.drain = .off → inClassA s c = false → (∀ d, (ctxAt s d).linked = false) →
  gives (.quotaExhausted v) s fun t => (ctxAt t c).phase = .stopped ∧ (ctxAt t c).pend27 = true ∧ (ctxAt t c).regs = x.regs ∧
    (ctxAt t c).pc = x.pc ∧ memoriesStay s t

/-- R123: a team's loading gives s2 its argument length, s3 to s6 its indices, s7 its number, s8 the number of teams, 0 to every other register, and the entry
point of its schedule to its PC. R195, R202: the end of a wait lets the team go on: the wait it has left stays noted, and one for a section
sees the stores of the one that retired last (R286). R208, R121: a team with nothing left to do retires: its bank is free, the boot mailbox
keeps its words, and its launch counts it. -/
def Obligations.TeamsLoadWaitAndRetire : Prop := ∀ (s s1 : State) (c : Nat) (l : Launch),
  let x := ctxAt s c
  (x.loadDue = true → x.phase = .loading → x.fault = none → loadSteps (setCtx s c { atEntry x (entrySched s c) with fault := none }) c = .ok s1 →
    gives (.overlayLoad c) s fun t =>
      let y := ctxAt t c
      (∀ r, mget y.regs r 0 = if r = 2 then BitVec.ofNat 64 x.arglen else if 3 ≤ r ∧ r ≤ 6 then BitVec.ofNat 64 (x.idx.getD (r - 3) 0) else
        if r = 7 then BitVec.ofNat 64 x.team else if r = 8 then BitVec.ofNat 64 x.nteams else 0) ∧
      y.loadDue = false ∧ y.pc = ctlBase (ctxAt s1 c) + BitVec.ofNat 64 ((ctxAt s1 c).hdr.entries.getD (2 * entrySched s1 c) 0) ∧
      y.lanes.pos = (ctxAt s1 c).hdr.entries.getD (2 * entrySched s1 c + 1) 0) ∧
  (blockingWait x.wait = true → gives (.blockedWaitEnd c) s fun t => memoriesStay s t ∧
    let l := { x.lanes with seen := if x.wait = .lwait then x.lanes.numTo else x.lanes.seen }
    { ctxAt t c with fault := x.fault, laneFault := x.laneFault } = { x with wait := .none, leftWait := x.wait, lanes := l }) ∧
  (endedAtPop x = false → retireReady s c = true → launchAt s x.launch = some l → gives (.teamRetire c) s fun t =>
    ctxAt t c = { freshCtx with bootMail := x.bootMail } ∧
    ∃ m, launchAt t x.launch = some m ∧ m.retired = l.retired + 1 ∧ m.faulted = l.faulted ∧ (mfind m.ended x.team).map (·.killed) = some false)

/-- R141, R142, R145, R195: a stopped team that is to leave, with nothing under way, has its whole context saved; its drain stub starts on the core in drain
mode, with an empty loop stack (the model's choice, log 32), or, where there is none, it leaves its bank for a save area with its scratchpad bytes. A restore without a stub gives the
team what was saved, and the save area is gone. -/
def Obligations.EvictionSavesAndRestoreGivesBack : Prop := ∀ (s s1 : State) (c n off : Nat) (sv : Saved),
  let x := ctxAt s c
  s.run.arg.flag = false →
  (x.phase = .stopped → x.evict = true → x.drain = .off → evictReady s c = true → stubOf s c = (s1, some off) → s1.run.stuck = false → gives (.eviction c) s fun t =>
    ctxAt t c = { x with phase := .running, drain := .save 0, pc := ctlBase x + BitVec.ofNat 64 off, loops := [], wait := .none, leftWait := .none, swpLatch := none } ∧
    mfind t.stubs c = some (savedCtx x) ∧ (coreAt t (coreOf c)).bank = bankOf c ∧ (coreAt t (coreOf c)).left = (coreAt s (coreOf c)).bank ∧
    memoriesStay s t) ∧
  (x.phase = .stopped → x.evict = true → x.drain = .off → evictReady s c = true → stubOf s c = (s1, none) → s1.run.stuck = false → gives (.eviction c) s fun t =>
    ctxAt t c = { freshCtx with bootMail := x.bootMail } ∧ t.nextSave = s.nextSave + 1 ∧ ∃ v, mfind t.saves s.nextSave = some v ∧ v.ctx.pc = x.pc ∧
      v.ctx.regs = x.regs ∧ v.ctx.loops = x.loops ∧ v.ctx.k = x.k ∧ v.ctx.lanes.regs = x.lanes.regs ∧ v.ctx.lanes.masks = x.lanes.masks ∧
      v.bytes = allotmentBytes s c ∧ v.stub = false) ∧
  (mfind s.saves n = some sv → msorted 0 s.saves = true → x.phase = .loading → sv.placing = true → x.launch = sv.ctx.launch → x.team = sv.ctx.team →
    sv.stub = false → gives (.restore n c) s fun t => (ctxAt t c).regs = sv.ctx.regs ∧ (ctxAt t c).pc = sv.ctx.pc ∧
      (ctxAt t c).loops = sv.ctx.loops ∧ (ctxAt t c).k = sv.ctx.k ∧ (ctxAt t c).lanes.masks = sv.ctx.lanes.masks ∧ (ctxAt t c).drain = .off ∧
      mfind t.saves n = none)

/-- R149, R153 to R155, R161, R162: a bucket that admits a request goes down by its charge, and one of MODE 0 that does not counts the exhaustion and goes on; a regulator tick refills each bucket up to its depth; an even cycle's static charge
goes to the running team of the core, in halves to two, to device overhead with none; a returned charge goes to its team's ECNT. -/
def Claims.BucketsAndEnergyAreCharged : Prop := ∀ (s : State) (core die point v bytes ctx c team n : Nat),
  let w := weight s 13
  let a := 2 * core
  let b := 2 * core + 1
  let x := ctxAt s c
  let k := bucketAt s die point v
  let charge := if 64 ≤ point then (bytes + 63) / 64 * 64 else initCharge bytes s.run.arg.flag
  let ecnt := fun (t : State) (d : Nat) => (ctxAt t d).ecnt
  (v ≠ 0 → admits k charge = true → gives (.bucketRequest die point v bytes ctx false) s fun t =>
    bucketAt t die point v = { k with level := k.level - charge } ∧ teamsStay s t) ∧
  (v ≠ 0 → admits k charge = false → k.mode = 0 → gives (.bucketRequest die point v bytes ctx false) s fun t =>
    bucketAt t die point v = { k with exh := if k.held = [] then min 255 (k.exh + 1) else k.exh } ∧ teamsStay s t) ∧
  (s.run.arg.n = 0 → gives (.staticCharge core) s fun t => memoriesStay s t ∧
    (isRunning s a = true → isRunning s b = false → ecnt t a = ecntAdd (ecnt s a) w ∧ ecnt t b = ecnt s b ∧ t.overhead = s.overhead) ∧
    (isRunning s a = false → isRunning s b = true → ecnt t b = ecntAdd (ecnt s b) w ∧ ecnt t a = ecnt s a ∧ t.overhead = s.overhead) ∧
    (isRunning s a = true → isRunning s b = true → ecnt t a = ecntAdd (ecnt s a) (w / 2) ∧ ecnt t b = ecntAdd (ecnt s b) (w / 2)) ∧
    (isRunning s a = false → isRunning s b = false → t.overhead = s.overhead + w ∧ t.ctxs = s.ctxs)) ∧
  (x.phase ≠ .empty → x.team = team → x.v = v → x.launch = s.run.arg.n → x.drain = .off → gives (.chargeReturn c team v n) s fun t =>
    ecnt t c = ecntAdd (ecnt s c) n ∧ (ctxAt t c).regs = x.regs ∧ memoriesStay s t) ∧
  (msorted 0 s.buckets = true → (∀ e ∈ s.buckets, e.2.held = []) → gives .regulatorTick s fun t => (∀ e ∈ s.buckets,
    mfind t.buckets e.1 = some { e.2 with level := min e.2.depth (e.2.level + e.2.rate) }) ∧ memoriesStay s t)

/-- R20, R165, R166, R170, R273: a regulator tick brings every level down to its thermal cap; a grant above the power cap raises none and ends slope
conflicts; a ramp moves by 25 MHz or 5 mV, the clock first on the way down and VC first on the way up; temperatures set the caps, boost and
THERMTRIP_N, which removes VC and VL; VL of a cluster that is not gated moves by at most 10 mV towards its value for the target level. Clusters that are held move none. That the slice groups' and PHYs' sensors cap no cluster is the
model's choice (log 64). -/
def Obligations.ClusterLevelsMoveInSteps : Prop := ∀ (s : State) (k : Nat),
  let p := clusterAt s k
  let a := s.run.arg
  (k < 12 → clustersHeld s = false → gives .regulatorTick s fun t => (clusterAt t k).level = min p.level (min p.cap (if s.boost = true then 7 else 6)) ∧ memoriesStay s t) ∧
  (k < 12 → clustersHeld s = false → s.pwrCap < a.n → gives .powerGrant s fun t =>
    (clusterAt t k).level ≤ p.level ∧ (clusterAt t k).conflict = 0 ∧ memoriesStay s t) ∧
  (p.gstate = 0 → clustersHeld s = false → gives (.levelRampStep k) s fun t =>
    let q := clusterAt t k
    q.level = p.level ∧ (∀ j, j ≠ k → clusterAt t j = clusterAt s j) ∧ teamsStay s t ∧
    (targetFreq s p < p.freq → q.freq = p.freq - 1 ∧ q.vc = p.vc) ∧
    (p.freq ≤ targetFreq s p → p.vc < levelVc s p.level → q.vc = min (levelVc s p.level) (p.vc + 5) ∧ q.freq = p.freq) ∧
    (p.freq < targetFreq s p → levelVc s p.level ≤ p.vc → q.freq = p.freq + 1 ∧ q.vc = p.vc) ∧
    (p.freq = targetFreq s p → levelVc s p.level < p.vc → q.vc = max (levelVc s p.level) (p.vc - 5) ∧ q.freq = p.freq)) ∧
  (clustersHeld s = true → ∀ i ∈ [Instr.powerGrant, .levelRampStep k, .vlStep, .regulatorTick], gives i s fun t => clusterAt t k = p ∧ memoriesStay s t) ∧
  (k < a.nums.length → gives .thermalSample s fun t =>
    (clusterAt t k).cap = (if 105 < a.nums.getD k 0 then 0 else if 95 < a.nums.getD k 0 then 5 else 7) ∧
    (t.boost = true ↔ ∀ n ∈ a.nums ++ a.nums2, n ≤ 105) ∧ (t.out.thermtrip = true ↔ s.out.thermtrip = true ∨ ∃ n ∈ a.nums ++ a.nums2, 125 < n) ∧
    (t.railsOff = true ↔ s.railsOff = true ∨ ∃ n ∈ a.nums ++ a.nums2, 125 < n) ∧
    (k < 12 → (∃ n ∈ a.nums ++ a.nums2, 125 < n) → (clusterAt t k).vc = 0 ∧ (clusterAt t k).vl = 0 ∧ (clusterAt t k).freq = 0) ∧ teamsStay s t) ∧
  (k < 12 → p.gstate ≤ 2 → clustersHeld s = false → gives .vlStep s fun t =>
    let v := min (vlOf p (targetLevel s k)) p.vc
    (clusterAt t k).vl = min p.vc (if p.vl < v then min v (p.vl + 10) else max v (p.vl - 10)) ∧ (clusterAt t k).vc = p.vc ∧ teamsStay s t)

/-- R173, R175 to R178, R472, R473: an alarm is counted, and outside the stretched cycles starts a response, with the next cycle, of 6 stretched cycles and then 64 of half issue; the
response's end, ballast and a slope conflict's step are as those rules say; a cluster is gated only where no window needs it and nothing is being retired (R177, R179), through states 1, 2 and 3,
with which the measurements of VL are dropped (R178), and wakes through 4 at level 0; each state change raises vector 56. -/
def Obligations.DroopSlopeAndGating : Prop := ∀ (s : State) (k n : Nat) (w : Word),
  let p := clusterAt s k
  let q := fun (t : State) => clusterAt t k
  let others := fun (t : State) => (∀ j, j ≠ k → clusterAt t j = clusterAt s j) ∧ memoriesStay s t
  (gives (.droopAlarm k) s fun t => (q t).alarms.toNat = min (p.alarms.toNat + 1) (2 ^ 32 - 1) ∧ (q t).stretch = (if p.stretch = 0 then 6 else p.stretch) ∧
    (q t).slow = p.slow ∧ (q t).throttle = p.throttle ∧ others t) ∧
  (let r := clusterAt (nextCycle s k) k
   r.cycle = p.cycle + 1 ∧
    (0 < p.stretch → p.slow = false → r.slow = true ∧ r.stretch = p.stretch ∧ r.throttle = 64) ∧
    (0 < p.stretch → p.slow = true → r.stretch = p.stretch - 1 ∧ (r.slow = true ↔ 1 < p.stretch) ∧ r.throttle = p.throttle) ∧
    (p.stretch = 0 → r.slow = false ∧ r.throttle = if 1 < p.throttle then p.throttle - 1 else p.throttle)) ∧
  (p.stretch = 0 → p.throttle ≤ 1 → gives (.droopResponseEnd k) s fun t => (q t).throttle = 0 ∧ (q t).alarms = p.alarms ∧ others t) ∧
  (gives (.ballast k n) s fun t => (q t).bal.toNat = min (p.bal.toNat + n) (2 ^ 32 - 1) ∧ t.overhead = s.overhead + s.run.arg.n ∧ others t) ∧
  (p.gstate = 0 → 8 < targetFreq s p → gives (.slopeConflictStep k) s fun t => (q t).level = p.level ∧ (q t).freq = min p.freq (targetFreq s p - 1) ∧ others t) ∧
  (w.getLsbD 0 = true → p.gstate = 0 → s.fw.mode ≠ .recovery → (∃ c ∈ coresOfCluster k, coreRetiring s c = true) → gives (.gate k w) s fun t =>
    (q t).gstate = 0 ∧ (q t).gcode = 2 ∧ others t) ∧
  (w.getLsbD 0 = true → p.gstate = 0 → s.fw.mode ≠ .recovery → (∀ c ∈ coresOfCluster k, coreRetiring s c = false) → inAnyWindow s k = true → gives (.gate k w) s fun t => (q t).gstate = 0 ∧ (q t).gcode = 1 ∧ others t) ∧
  (w.getLsbD 0 = true → p.gstate = 0 → s.fw.mode ≠ .recovery → inAnyWindow s k = false → anyRetiring s = false → s.fw.upd ≠ 3 → s.fw.upd ≠ 4 → gives (.gate k w) s fun t =>
    (q t).gstate = 1 ∧ (q t).gcode = 0 ∧ raised s t [(0, 56)] ∧ others t) ∧
  (w.getLsbD 0 = true → p.gstate = 3 → s.fw.mode ≠ .recovery → gives (.wake k w) s fun t => (q t).gstate = 4 ∧ raised s t [(0, 56)] ∧ others t) ∧
  (p.gstate = 1 → clusterQuiet s k = true → gives (.gatingStateChange k) s fun t => (q t).gstate = 2 ∧ raised s t [(0, 56)] ∧
    (∀ c ∈ coresOfCluster k, (coreAt t c).tlb = []) ∧ others t) ∧
  (p.gstate = 2 → gives (.gatingStateChange k) s fun t => (q t).gstate = 3 ∧ (q t).freq = 0 ∧ (q t).vc = 0 ∧ (q t).mism = [] ∧ (q t).products = [] ∧ raised s t [(0, 56)] ∧ others t) ∧
  (p.gstate = 4 → clustersHeld s = false → gives (.gatingStateChange k) s fun t => (q t).gstate = 0 ∧ (q t).level = 0 ∧ (q t).freq = max 8 (levelFreq s 0 - p.conflict) ∧ (q t).vc = levelVc s 0 ∧
    raised s t [(0, 56)] ∧ others t)

/-- R214, R215, R220 to R226: an invalidation is under way until no access stands on a dropped entry, then the entries it names are gone; a table takes its
new descriptor once the walk count is full; a walk's leaf stands in the core's TLB; a not-present fault is numbered and waits for the fault ring, where
its record is written when there is room; an answer sets the event flag and ends the wait of the access. -/
def Obligations.TranslationsAndPageFaults : Prop := ∀ (s : State) (core v c z kind : Nat) (w va leaf : Word) (malf : Bool) (f : OutFault) (rest : List OutFault) (l : SeqFault),
  let x := ctxAt s c
  let new := tdReg s v z 1
  let entry := newEntry v z va leaf
  let slots := 128 * 2 ^ wbits s.xlate.pfqBase 3 0
  let at' := wbits s.xlate.pfqBase 45 12 * 4096 + 32 * (s.xlate.pfqTail.toNat % slots)
  (inert s = false → w.getLsbD 0 = true → s.xlate.tiBusy = false → gives (.tiCtlGo w) s fun t => t.xlate = { s.xlate with tiBusy := true, tiReq := w } ∧
    asks t .tlbInvalidationDone ∧ teamsStay s t) ∧
  (s.xlate.tiBusy = true → tiPending s s.xlate.tiReq = false → gives .tlbInvalidationDone s fun t => t.xlate.tiBusy = false ∧ t.xlate.tiDone = true ∧
    (∀ k e, e ∈ (coreAt t k).tlb ↔ e ∈ (coreAt s k).tlb ∧ tiHit s.xlate.tiReq e = false) ∧ raised s t [(0, 54)] ∧ t.ctxs = s.ctxs ∧ memoriesStay s t) ∧
  (inert s = false → w.getLsbD 0 = true → tdEn new = true → wbits (tdReg s v z 2) 31 0 = 2 ^ tdB (tdReg s v z 0) → gives (.tdCmtGo v z w) s fun t =>
    tdReg t v z 0 = new ∧ tdReg t v z 1 = new &&& ~~~0x80#64 ∧ tdReg t v z 2 = 0 ∧ teamsStay s t) ∧
  (lockedMode s v = false → wbits va 63 48 = 0 → walk s v va = .ok z leaf → lockedCount (coreAt s core).tlb < 192 → gives (.tableWalk core v va) s fun t =>
    (coreAt t core).tlb = tlbFill 16 12 (coreAt s core).tlb entry ∧ t.ctxs = s.ctxs ∧ memoriesStay s t) ∧
  (isTeam c = true → x.phase = .running → x.drain = .off → x.fault = none → gives (.notPresentFault c va kind malf false) s fun t =>
    t.xlate.nextId = s.xlate.nextId + 1 ∧ (∃ g, t.xlate.unposted = s.xlate.unposted ++ [g] ∧ g.id = s.xlate.nextId.toNat ∧ g.v = x.v ∧ g.ctx = c ∧
      g.va = va ∧ g.kind = kind ∧ g.malf = malf) ∧
    (∃ g, (ctxAt t c).fault = some g ∧ g.id = s.xlate.nextId.toNat ∧ g.va = va ∧ g.answered = false) ∧ (ctxAt t c).pc = x.pc ∧
    (ctxAt t c).regs = x.regs ∧ asks t .faultRecordPost ∧ memoriesStay s t) ∧
  (s.xlate.unposted = f :: rest → (s.xlate.pfqTail - s.xlate.pfqHead).toNat < slots → Memory.wf s.host = true → gives .faultRecordPost s fun t =>
    readBytes t.host at' 32 = faultBytes s f ∧ (∀ a, a < at' ∨ at' + 32 ≤ a → readByte t.host a = readByte s.host a) ∧
    t.out.pcie = s.out.pcie ++ [{ fn := 0, write := true, addr := at', bytes := 32 }] ∧ t.xlate.pfqTail = s.xlate.pfqTail + 1 ∧ t.xlate.unposted = rest ∧ t.xlate.outstanding = s.xlate.outstanding ++ [f] ∧ raised s t [(0, 55)] ∧
    t.dev = s.dev) ∧
  (inert s = false → s.xlate.outstanding.find? (fun g => g.id == wbits w 31 0) = some f → isTeam f.ctx = true → (ctxAt s f.ctx).phase ≠ .empty → f.engine = false →
    f.lane = false → w.getLsbD 32 = false → (ctxAt s f.ctx).fault = some l → l.id = f.id → gives (.pfAns w) s fun t =>
      t.xlate.outstanding = s.xlate.outstanding.filter (fun g => g.id != f.id) ∧ (ctxAt t f.ctx).ev = true ∧
      (∃ m, (ctxAt t f.ctx).fault = some m ∧ m.id = l.id ∧ m.answered = true) ∧ (ctxAt t f.ctx).regs = (ctxAt s f.ctx).regs ∧ memoriesStay s t)

/-- R228, R230, R231, R284: a pending access that waits at its slice, outside race detection and SY pages, acts on memory once and holds its result; served, it
returns its result to its register, or nothing, and is no longer pending. R387, R388: what an atomic leaves in memory and returns. R43, R45: an access to a remote page leaves in a request to its home, on the port of
that way; the answer of another module is the result of the access it answers, where no other access was merged into it (R231). -/
def Obligations.PendingAccessesAreServedAndReturn : Prop := (∀ (s : State) (c idx : Nat) (p : Pend),
  let x := ctxAt s c
  let done := fun (t : State) (v : Word) => pendAt (ctxAt t c) idx = some { p with place := .done, result := v } ∧
    (ctxAt t c).regs = x.regs ∧ (∀ j, j ≠ idx → pendAt (ctxAt t c) j = pendAt x j)
  let dev := accessMemory s.dev p.kind (servedAddr s p.pa) p.bytes p.value p.compare
  let host := accessMemory s.host p.kind p.pa p.bytes p.value p.compare
  let served := fun (i : Instr) => p.place = .atSlice → olderSameLine x idx p = false →
    (p.mt = 0 → p.rc = false → p.sy = false → lostLine s p.pa = false → gives i s fun t => t.dev = dev.1 ∧ t.host = s.host ∧ done t dev.2) ∧
    (p.mt = 1 → gives i s fun t => t.host = host.1 ∧ t.dev = s.dev ∧ done t host.2) ∧
    (p.mt = 2 → unreachable s = false → gives i s fun t => pendAt (ctxAt t c) idx = some { p with place := .away } ∧ (ctxAt t c).regs = x.regs ∧
      t.out.remote = s.out.remote ++ [{ remoteMsg s c x.v p with port := leavePort s p.home p.pa }] ∧ memoriesStay s t)
  pendAt x idx = some p →
  (isAtomicKind p.kind = false → served (.sliceAccess c idx)) ∧
  (isAtomicKind p.kind = true → s.run.arg.nums = [] → served (.atomicExecute c idx)) ∧
  (p.place = .done → returnsKind p.kind = true → p.dst < 60 → gives (.memoryReply c idx) s fun t => (ctxAt t c).mem = x.mem.eraseIdx idx ∧
    (∀ r, mget (ctxAt t c).regs r 0 = if r = p.dst ∧ r ≠ 0 then p.result else mget x.regs r 0) ∧ memoriesStay s t) ∧
  (p.place = .done → returnsKind p.kind = false → gives (.memoryReply c idx) s fun t => (ctxAt t c).mem = x.mem.eraseIdx idx ∧
    (ctxAt t c).regs = x.regs ∧ memoriesStay s t) ∧
  (p.place = .away → s.run.arg.write = false → s.run.arg.n = c → s.run.arg.m = idx → s.run.arg.flag = false → s.run.arg.flag2 = false →
    (∀ e ∈ s.ctxs, ∀ q ∈ e.2.mem, q.place ≠ .behind c) → gives .remoteResponse s fun t =>
    done t s.run.arg.value ∧ memoriesStay s t)) ∧
  (∀ (m : Memory) (pa n : Nat) (v compare : Word), Memory.wf m = true → n = 4 ∨ n = 8 →
    let old := BitVec.ofNat (8 * n) (readLe m pa n)
    let b := v.setWidth (8 * n)
    let acts := fun (k : AccKind) (new : BitVec (8 * n)) =>
      let r := accessMemory m k pa n v compare
      r.2 = BitVec.ofNat 64 (readLe m pa n) ∧ readLe r.1 pa n = new.toNat ∧ ∀ a, a < pa ∨ pa + n ≤ a → readByte r.1 a = readByte m a
    acts .load old ∧ acts .ldacq old ∧ acts .pref old ∧ acts .store b ∧ acts .strel b ∧ acts (.amo .add) (old + b) ∧ acts (.amo .and) (old &&& b) ∧
    acts (.amo .or) (old ||| b) ∧ acts (.amo .xor) (old ^^^ b) ∧ acts (.amo .min) (if b.slt old = true then b else old) ∧
    acts (.amo .max) (if old.slt b = true then b else old) ∧ acts (.amo .swap) b ∧ acts .cas (if old = compare.setWidth (8 * n) then b else old) ∧
    (n = 4 → acts (.amo .fadd) (BitVec.ofNat (8 * n) (fadd32 old.toNat b.toNat)))) ∧
  (∀ x y : Nat, decodeF 0 x = .nan ∨ decodeF 0 y = .nan ∨ (∃ a, decodeF 0 x = .inf a ∧ decodeF 0 y = .inf (!a)) → fadd32 x y = nanEnc 0) ∧
  fadd32 0x7F7FFFFF 0x7F7FFFFF = 0x7F800000 ∧ fadd32 0x3F800000 0x33800000 = 0x3F800000

/-- R197, R199, R233, R234: the oldest flit of a send port, or of those at the relay slices, enters its receive queue and sets the receiver's event flag,
or is gone when its team has ended; a frame that fails reads from a spare frame as it stood, one that is remapped gets further LOST lines, one that finds no
spare keeps its place and its failing lines are LOST, until a later error finds one; the patrol reports what it finds. -/
def Obligations.FlitsFramesAndPatrol : Prop := ∀ (s : State) (c port d : Nat) (f : Flit) (rest : List Flit) (r : RelayFlit) (others : List RelayFlit) (old : Nat × BitVec 256),
  let x := ctxAt s c
  let a := s.run.arg
  let own : RelayFlit := { v := x.v, launch := x.launch, team := x.team, port := port, flit := f }
  let arrives := fun (t : State) (g : Flit) => mget (ctxAt t d).rx g.port [] = mget (ctxAt s d).rx g.port [] ++ [g.value] ∧ (ctxAt t d).ev = true ∧
    (ctxAt t d).regs = (ctxAt s d).regs ∧ memoriesStay s t
  let marked := fun (t : State) (e : Nat × BitVec 256) => mfind t.mgmt.remap a.n = some e ∧ (∀ k, k ≠ a.n → mfind t.mgmt.remap k = mfind s.mgmt.remap k) ∧
    t.host = s.host ∧ t.ctxs = s.ctxs ∧ t.cores = s.cores
  let found : EventArg := { noArg with n := lineCtl a.n + 16 * lineDie a.n, unit := .mem, m := a.n / 256, off := a.n % 256 + 1, flag := a.flag }
  let lost : BitVec 256 := 1#256 <<< (a.n % 256)
  let failed := a.lost ||| (if a.off = 0 then 0 else 1#256 <<< (a.off - 1))
  (a.flag = false → mget x.tx port [] = f :: rest → s.relay.any (sameRoute own) = false →
    (flitGo s x.launch f = .to d → gives (.flitDeliver c port) s fun t => mget (ctxAt t c).tx port [] = rest ∧ t.relay = s.relay ∧ arrives t f) ∧
    (flitGo s x.launch f = .gone → gives (.flitDeliver c port) s fun t => mget (ctxAt t c).tx port [] = rest ∧ (ctxAt t c).rx = x.rx ∧ memoriesStay s t)) ∧
  (a.flag = true → s.relay = r :: others → flitGo s r.launch r.flit = .to d → gives (.flitDeliver c port) s fun t => t.relay = others ∧ arrives t r.flit) ∧
  (a.n < spareFrame →
    (mfind s.mgmt.remap a.n = some old → old.1 < 256 → gives .frameRemap s fun t => marked t (old.1, old.2 ||| a.lost) ∧ t.dev = s.dev) ∧
    (mfind s.mgmt.remap a.n = none ∨ (mfind s.mgmt.remap a.n = some old ∧ 256 ≤ old.1) → freeSpare s < 256 → Memory.wf s.dev = true → gives .frameRemap s fun t =>
      marked t (freeSpare s, if mfind s.mgmt.remap a.n = none then a.lost else old.2 ||| a.lost) ∧
      ∀ o < 16384, readByte t.dev (servedAddr t (a.n * 16384 + o)) = readByte s.dev (a.n * 16384 + o)) ∧
    (mfind s.mgmt.remap a.n = none → 256 ≤ freeSpare s → gives .frameRemap s fun t => t.dev = s.dev ∧ marked t (256, failed)) ∧
    (mfind s.mgmt.remap a.n = some old → 256 ≤ old.1 → 256 ≤ freeSpare s → gives .frameRemap s fun t => t.dev = s.dev ∧ marked t (256, old.2 ||| failed)) ∧
    gives .frameRemap s fun t => ∀ m ∈ t.mgmt.moving, movesFrame a.n m = true → m.stop = true) ∧
  (a.scrub = .clean → gives .patrolScrub s fun t => t = s) ∧
  (a.scrub = .corrected → gives .patrolScrub s fun t => teamsStay s t ∧ t.run.inputs = s.run.inputs ++ [{ i := .lastingError, arg := found }]) ∧
  (a.scrub = .uncorrectable → gives .patrolScrub s fun t => teamsStay s t ∧ t.run.inputs = s.run.inputs ++ [{ i := .lastingError, arg := { found with lost := lost } }])

/-- R19, R33, R45, R46, R48, R234, R235: BAR4 reads and writes device memory through WINBASE, outside the firmware regions, and waits while the page moves; that a write to a
LOST line changes nothing is an inference from R234 (log 19). A host access that is not answered is counted and recorded, in AER by the bit of log 66 (PRESUMED), and at the
repeat its team takes the machine-check, or the waiting party does. Another module's access acts on memory here and is answered, is refused without a contract
and in a firmware region (log 59), and waits while its page moves. -/
def Obligations.HostWindowAndRemoteAccesses : Prop := ∀ (s : State) (p : Pend) (w : Agent),
  let a := s.run.arg
  let pa := wbits s.mgmt.winbase 45 32 * 2 ^ 32 + a.off % 2 ^ 32
  let m := a.msg
  let at' := servedAddr s (m.pa % 2 ^ 46)
  let acc := accessMemory s.dev (remoteAcc m.kind) at' m.bytes (BitVec.ofNat 64 (leNat m.data)) m.compare
  let k := unitKey { noArg with unit := .hostPort }
  let answered := fun (t : State) (b : Option (List Byte)) => t.out.answers = s.out.answers ++ [{ port := leavePort s m.src m.pa, dest := m.src, tag := m.tag, data := b }] ∧ t.host = s.host
  (bar4Open pa a.len = true → pageMoving s 0 pa = true → gives .bar4Access s fun t => t = stall s) ∧
  (a.write = true → bar4Open pa a.len = true → pageMoving s 0 pa = false → lostLine s pa = false → Memory.wf s.dev = true → gives .bar4Access s fun t =>
    readLe t.dev (servedAddr s pa) a.len = a.value.toNat % 2 ^ (8 * a.len) ∧
    (∀ b, b < servedAddr s pa ∨ servedAddr s pa + a.len ≤ b → readByte t.dev b = readByte s.dev b) ∧ t.host = s.host ∧ t.ctxs = s.ctxs) ∧
  (a.write = true → bar4Open pa a.len = false ∨ (lostLine s pa = true ∧ pageMoving s 0 pa = false) → gives .bar4Access s fun t => t = s) ∧
  (a.write = false → bar4Open pa a.len = true → pageMoving s 0 pa = false → lostLine s pa = false → gives .bar4Access s fun t =>
    t.out.read = BitVec.ofNat 64 (readLe s.dev (servedAddr s pa) a.len) ∧ memoriesStay s t ∧ t.ctxs = s.ctxs) ∧
  (a.write = false → bar4Open pa a.len = false → gives .bar4Access s fun t => t.out.read = 0 ∧ teamsStay s t) ∧
  (a.flag = false → gives .hostCompletionTimeout s fun t => mget t.mgmt.transient k 0 = mget s.mgmt.transient k 0 + 1 ∧
    (∀ j, j ≠ k → mget t.mgmt.transient j 0 = mget s.mgmt.transient j 0) ∧ t.aer = s.aer ||| 0x4000#32 ∧ teamsStay s t) ∧
  (a.flag = true → a.len = 0 → pendAt (ctxAt s a.n) a.m = some p → p.mt = 1 → p.place ≠ .done → gives .hostCompletionTimeout s fun t =>
    t = machineCheck (noteAer s) a.n .hostPort 0 p.pc p.va ∧ (ctxAt t a.n).phase = .empty) ∧
  (a.flag = true → a.len ≠ 0 → hostWaiter s a = some w → gives .hostCompletionTimeout s fun t => t.run.ledger = s.run.ledger ++ [(w, .hostLost)] ∧ teamsStay s t) ∧
  (noContract s m.v = true ∨ outOfReach (m.pa % 2 ^ 46) = true → gives .remoteRequest s fun t => answered t none ∧ teamsStay s t) ∧
  (noContract s m.v = false → outOfReach (m.pa % 2 ^ 46) = false → pageMoving s 0 (m.pa % 2 ^ 46) = false → lostLine s (m.pa % 2 ^ 46) = false →
    (m.kind = .load → gives .remoteRequest s fun t => answered t (some (readBytes s.dev at' m.bytes)) ∧ t.dev = s.dev) ∧
    (m.kind = .store → gives .remoteRequest s fun t => answered t (some []) ∧ t.dev = writeBytes s.dev at' (m.data.take m.bytes)) ∧
    (m.kind ≠ .load → m.kind ≠ .store → gives .remoteRequest s fun t => answered t (some (natLe m.bytes acc.2.toNat)) ∧ t.dev = acc.1)) ∧
  (noContract s m.v = false → outOfReach (m.pa % 2 ^ 46) = false → pageMoving s 0 (m.pa % 2 ^ 46) = true → gives .remoteRequest s fun t => t = stall s)

/-- R276, R278, R279, R446, R461, R462: an evicted owner's set is stored in its save area, zeroed, and belongs to the team that names it; an epilogue that has
read its last row releases its set; a full instance of agreeing collectives is done; one that differs is
rejected: its commands leave, the event flags of those teams whose command waits are set, and the teams go on. -/
def Claims.SpillReleaseAndMatch : Prop := ∀ (s : State) (core set ctx launch cid n : Nat) (o : AccOwner) (sv : Saved) (u : RunCmd) (h : ColWait)
  (e : EngineFields),
  let a := setAt s core set
  let ws := instanceParts s launch cid h.inst
  let full := s.collectives.find? (fun w => w.launch == launch && w.cid == cid && !w.done && instanceFull s launch cid w.inst) = some h
  (heldByEvicted s ctx set = true → coreOf ctx = core → a.owner = some o → (vnpuAt s o.v).resetting = false → saveOf s o = some (n, sv) →
    gives (.accumulatorSpill core set ctx) s fun t => setAt t core set = { freshSet with lastV := o.v, owner := some (ownTag ctx (ctxAt s ctx)) } ∧
      (∀ q, q ≠ set → setAt t core q = setAt s core q) ∧ (∃ v, mfind t.saves n = some v ∧
        mfind v.sets (sv.ctx.accs.findIdx (· == set)) = some { a with owner := none }) ∧ t.ctxs = s.ctxs ∧ memoriesStay s t) ∧
  (unitOf s core 2 = some u → u.released = false → u.cmd.cmd = .mep e → rowCount e ≤ rowsRead u → gives (.epilogueRelease core) s fun t => unitOf t core 2 = some { u with released := true } ∧
    t.ctxs = s.ctxs ∧ memoriesStay s t) ∧
  (full → s.run.arg.flag = false → s.run.arg.flag2 = false → ws.any (fun w => !clAgree h w) = false → (∀ w ∈ ws, w.bad = false) → gives (.collectiveInstanceMatch launch cid) s fun t =>
    (∀ w ∈ ws, ∀ v ∈ t.collectives, v.ctx = w.ctx → v.done = true) ∧ memoriesStay s t) ∧
  (full → s.run.arg.flag = false → s.run.arg.flag2 = true ∨ ws.any (fun w => !clAgree h w) = true → gives (.collectiveInstanceMatch launch cid) s fun t =>
    (∀ v ∈ t.collectives, v.launch = launch → v.cid = cid → v.inst = h.inst → v.done = true) ∧
    (∀ w ∈ ws, w.bad = false → (ctxAt t w.ctx).ev = true ∧ (ctxAt t w.ctx).phase = (ctxAt s w.ctx).phase) ∧ memoriesStay s t)

/-- R38 to R44: MODCFG sets a ring up and clears it; a flit whose CRC or fields are bad, or whose SEQ is not the next, is discarded and a NAK is due; a good
one is counted, and goes on when it is for another module; a flit is sent with the next SEQ and kept for replay; a NAK and the end of a training send again
what the buffer holds; a retrain uses a spare lane of the direction that failed while there is one, after which the port trains at no more lanes than it has left (R21), and an error met while
the port retrains is dealt with afterwards (R26). A port that goes down gives what waits in it to the other, when that is up; that flits of its replay buffer go too is the model's choice (log 94). -/
def Claims.LinkPortsSendAndReceive : Prop := ∀ (s : State) (k : Nat) (b : List Byte) (rest : List (List Byte)),
  let a := s.run.arg
  let p := portAt s a.n
  let q := fun (t : State) => portAt t a.n
  let w := a.value
  let flits := fun (t : State) => t.out.flits
  (inert s = false → ringOn s = false → w.getLsbD 0 = true → 1 ≤ wbits w 7 5 → wbits w 7 5 ≤ 4 → wbits w 4 2 < wbits w 7 5 → gives .modcfg s fun t =>
    t.mgmt.modcfg = w &&& 0xFD ∧ (portAt t 0).state = 1 ∧ (portAt t 1).state = 1 ∧ teamsStay s t) ∧
  (inert s = false → ringOn s = true → w.getLsbD 0 = false → gives .modcfg s fun t => ringOn t = false ∧ (portAt t 0).state = 0 ∧ (portAt t 1).state = 0 ∧
    (∀ m ∈ t.mgmt.moving, m.stop = true) ∧ teamsStay s t) ∧
  (ringOn s = true ∧ w.getLsbD 0 = true ∨ s.fw.mode = .recovery → gives .modcfg s fun t => t = s) ∧
  (p.state = 2 → flitBad s a.data = true → gives .flitReceive s fun t => (q t).crcerr = min 65535 (p.crcerr + 1) ∧ (q t).discarding = true ∧
    (q t).nakDue = true ∧ (q t).rxGood = p.rxGood ∧ (q t).queues = p.queues ∧ teamsStay s t) ∧
  (p.state = 2 → flitBad s a.data = false → flitSeq a.data ≠ (p.rxGood + 1) % 1024 → gives .flitReceive s fun t => (q t).rxGood = p.rxGood ∧
    (q t).discarding = true ∧ (p.discarding = false → (q t).nakDue = true) ∧ (q t).queues = p.queues ∧ teamsStay s t) ∧
  (p.state = 2 → flitBad s a.data = false → flitSeq a.data = (p.rxGood + 1) % 1024 → gives .flitReceive s fun t => (q t).rxGood = flitSeq a.data ∧
    (q t).discarding = false ∧ teamsStay s t ∧ (flitDest a.data ≠ modId s →
      mget (portAt t (onward s a.n)).queues (flitClass a.data) [] = mget (portAt s (onward s a.n)).queues (flitClass a.data) [] ++ [a.data])) ∧
  (a.data = [] → p.state = 2 → p.replay.length < 512 → nextClass p = some k → mget p.queues k [] = b :: rest → gives .flitTransmit s fun t =>
    flits t = flits s ++ [(a.n, sealFlit p b)] ∧ (q t).txSeq = (p.txSeq + 1) % 1024 ∧ (q t).replay = p.replay ++ [sealFlit p b] ∧
    mget (q t).queues k [] = rest ∧ mget (q t).credits k 0 = mget p.credits k 0 - flitUnits b ∧ teamsStay s t) ∧
  (p.state = 2 → gives .nakReplay s fun t => flits t = flits s ++ (dropAcked a.m p.replay).map (fun f => (a.n, f)) ∧
    (q t).replays = min 255 (p.replays + 1) ∧ teamsStay s t) ∧
  (p.state = 2 → (if a.write = true then p.sparesTx else p.sparesRx) ≠ 0 → gives .linkRetrain s fun t => (q t).state = 3 ∧
    (q t).sparesTx = (if a.write = true then p.sparesTx - 1 else p.sparesTx) ∧ (q t).sparesRx = (if a.write = true then p.sparesRx else p.sparesRx - 1) ∧
    (q t).lanes = p.lanes ∧ teamsStay s t) ∧
  (p.state = 2 → (if a.write = true then p.sparesTx else p.sparesRx) = 0 → p.lanes = 16 → gives .linkRetrain s fun t => (q t).state = 3 ∧ (q t).lanes = 8 ∧ (q t).width = 8 ∧ t.mgmt.lanes = s.mgmt.lanes + 1 ∧ teamsStay s t) ∧
  (p.state = 3 → gives .linkRetrain s fun t => t.mgmt = { s.mgmt with linkPending := s.mgmt.linkPending ++ [(a.n, a.write)] } ∧ q t = p ∧ teamsStay s t) ∧
  (p.state = 3 → min a.m p.width ≠ 0 → (∀ e ∈ s.mgmt.linkPending, e.1 = a.n → gives .linkTrainingComplete s fun t =>
    ({ i := .linkRetrain, arg := { noArg with n := a.n, write := e.2 } } : Event) ∈ t.run.inputs)) ∧
  (p.state = 3 → min a.m p.width ≠ 0 → gives .linkTrainingComplete s fun t => (q t).state = 2 ∧ (q t).lanes = min a.m p.width ∧
    flits t = flits s ++ p.replay.map (fun f => (a.n, f)) ∧ teamsStay s t) ∧
  (p.state = 1 ∨ p.state = 3 → min a.m p.width = 0 → gives .linkTrainingComplete s fun t => (q t).state = 4 ∧ (∀ m ∈ t.mgmt.moving, m.stop = true) ∧
    flits t = flits s ∧ teamsStay s t ∧ (a.n < 2 → portUp s (1 - a.n) = true → (q t).replay = [] ∧ (q t).queues = [] ∧
      ∀ f, (f ∈ p.replay ∧ flitDest f ≠ modId s) ∨ (∃ e ∈ p.queues, f ∈ e.2) → f ∈ mget (portAt t (1 - a.n)).queues (flitClass f) []))

/-- R19, R37, R48 to R51, R54, R63, R217: a migration request is refused with its code (log 91 where several hold) and vector 52, or starts the move of its page; a proposal starts
none that a request would be refused. The oldest move ends first (DESIGN CHOICE, log 53): stopped, it leaves its page, with code 6 to a driver's request; completed, with code 5,
the page's leaf names its new home, the page leaves with it for every other module, its translations are gone, accesses held for it are sent on, and a page that
has moved three times within 1 ms is pinned and recorded. A page, or a leaf, that another module sends is taken over. A failed UCIe module is recorded once, with vector 53. -/
def Claims.MigrationAndBridges : Prop := ∀ (s : State) (code : Nat) (e l : Word) (addr mt home frame count : Nat) (mv : Move) (rest : List Move),
  let a := s.run.arg
  let w := a.value
  let check := moveCheck s (wbits w 29 25) (wbits w 63 30) (wbits w 24 23) (wbits w 22 20)
  (w.getLsbD 0 = true → s.mgmt.migStatus ≠ 1 → s.fw.mode ≠ .dead → inert s = false → check = .error code → gives .migreq s fun t =>
    t.mgmt = { s.mgmt with migStatus := code, migDone := true } ∧ raised s t [(0, 52)] ∧ teamsStay s t) ∧
  (w.getLsbD 0 = true → s.mgmt.migStatus ≠ 1 → s.fw.mode ≠ .dead → inert s = false → check = .ok (addr, l) → gives .migreq s fun t => t.mgmt.migStatus = 1 ∧ (∃ m, t.mgmt.moving = s.mgmt.moving ++ [m] ∧
    m.v = wbits w 29 25 ∧ m.vpn16 = pageStart (wbits w 24 23) (wbits w 63 30) ∧ m.size = wbits w 24 23 ∧ m.dest = wbits w 22 20 ∧ m.pa = leafFrame l * 16384 ∧ m.driver = true) ∧ teamsStay s t) ∧
  (moveCheck s a.n a.off a.len a.m = .error code → gives .migrationPolicyProposal s fun t => t = s) ∧
  (moveCheck s a.n a.off a.len a.m = .ok (addr, e) → s.fw.mode ≠ .dead → gives .migrationPolicyProposal s fun t => (∃ m, t.mgmt.moving = s.mgmt.moving ++ [m] ∧
    m.v = a.n ∧ m.vpn16 = pageStart a.len a.off ∧ m.size = a.len ∧ m.dest = a.m ∧ m.driver = false) ∧ teamsStay s t) ∧
  (a.flag3 = false → s.mgmt.moving = mv :: rest → oldAccess s mv = false → s.fw.mode ≠ .dead → (a.flag = true ∨ moveStops s mv = true) →
    gives .pageMigrationDone s fun t => t.mgmt.moving = rest ∧ (mv.driver = true → t.mgmt.migStatus = 6 ∧ t.mgmt.migDone = true ∧ signalled s t 0 52) ∧
      t.out.pages = s.out.pages ∧ memoriesStay s t) ∧
  (a.flag3 = false → s.mgmt.moving = mv :: rest → oldAccess s mv = false → s.fw.mode ≠ .dead → a.flag = false → moveStops s mv = false →
    leafEntry s mv.v mv.size (mv.vpn16 * 16384) = some addr →
    let times := recentMoves s (moveKey mv.v mv.vpn16)
    let leaf : Word := BitVec.ofNat 64 (readLe s.dev addr 8)
    gives .pageMigrationDone s fun t => t.mgmt.moving = rest ∧ (mv.driver = true → t.mgmt.migStatus = 5 ∧ t.mgmt.migDone = true ∧ signalled s t 0 52) ∧
      t.dev = writeLe s.dev addr 8 (movedLeaf leaf 2 a.m mv.dest times.length).toNat ∧ t.host = s.host ∧ t.ctxs = s.ctxs ∧
      t.out.pages = s.out.pages ++ ((List.range (ringN s)).filter (· != modId s)).map (pageMsg { s with dev := t.dev } mv leaf a.m times.length) ∧
      (∀ k x, x ∈ (coreAt t k).tlb → tlbHit mv.v mv.size false mv.vpn16 x = false) ∧ (∀ ev ∈ t.run.inputs ++ t.run.later, heldForPage mv ev = false) ∧
      (∀ ev ∈ s.run.inputs ++ s.run.later, heldForPage mv ev = true → ∃ r ∈ t.out.remote, r.dest = mv.dest ∧ r.data = ev.arg.msg.data ∧ r.kind = ev.arg.msg.kind ∧
        r.pa = a.m * 16384 + (ev.arg.msg.pa % 2 ^ 46 - mv.pa)) ∧
      (3 ≤ times.length → (vnpuAt t mv.v).mpcnt = ((vnpuAt s mv.v).mpcnt + 1) % 2 ^ 32 ∧ signalled s t mv.v 61 ∧
        mget (vnpuAt t mv.v).mp ((vnpuAt s mv.v).mpcnt % 8) [] = pinnedBytes s mv.size mv.dest (modId s) mv.vpn16)) ∧
  (mt < 4 → home < 8 → let w := movedLeaf l mt frame home count
    leafMT w = mt ∧ leafHome w = home ∧ leafFrame w = frame % 2 ^ 32 ∧ wbits w 15 14 = count % 4 ∧ w.getLsbD 10 = (decide (count < 3) && l.getLsbD 10) ∧
      wbits w 7 0 = wbits l 7 0 ∧ wbits w 19 16 = wbits l 19 16 ∧ wbits w 63 52 = 0) ∧
  (a.flag3 = true → leafEntry s (a.n % 32) a.len (a.off * 16384) = some addr → leafMT w ≠ 0 → gives .pageMigrationDone s fun t =>
    t.dev = writeLe s.dev addr 8 w.toNat ∧ (∀ k x, x ∈ (coreAt t k).tlb → tlbHit (a.n % 32) a.len false a.off x = false) ∧ t.host = s.host ∧ t.ctxs = s.ctxs) ∧
  (a.flag3 = true → leafMT w = 0 → s.mgmt.remap = [] → Memory.wf s.dev = true → a.data.length ≤ 128 * 16384 → gives .pageMigrationDone s fun t =>
    (∀ o < a.data.length, readByte t.dev (leafFrame w * 16384 + o) = a.data.getD o 0) ∧
    (∀ b, b < leafFrame w * 16384 ∨ leafFrame w * 16384 + a.data.length ≤ b → (∀ x, leafEntry s (a.n % 32) a.len (a.off * 16384) = some x → b < x ∨ x + 8 ≤ b) →
      readByte t.dev b = readByte s.dev b) ∧ t.host = s.host ∧ t.ctxs = s.ctxs ∧
    (wbits w 15 14 = 3 → a.n ≤ 16 → (vnpuAt t a.n).mpcnt = ((vnpuAt s a.n).mpcnt + 1) % 2 ^ 32 ∧ signalled s t a.n 61)) ∧
  (a.flag3 = false → (s.mgmt.moving = [] ∨ (s.mgmt.moving = mv :: rest ∧ (oldAccess s mv = true ∨ s.fw.mode = .dead))) → gives .pageMigrationDone s (· = s)) ∧
  (s.mgmt.ucieFailed.getLsbD a.n = false → a.n < 16 → gives .ucieModuleFailure s fun t => t.mgmt.ucieFailed.getLsbD a.n = true ∧ t.mgmt.d2dChg = true ∧
    raised s t [(0, 53)] ∧ teamsStay s t)

/-- R21 to R28, R37, R210, R233: a transient error is counted under its unit; a lasting one, or the sixteenth within an hour, asks for the retirement of its unit; a memory error
of a channel's link retires no frame; a core that is absent, that is being retired, or that meets a class A window in which its team has raised no machine-check, is not frozen now;
else it is. Once the frozen core is empty it is bound to its cluster's spare site, or to the site of the core that its cluster gives up, when that is empty and holds no team of a class A window, with its accumulator sets and its scratchpad, and the
teams saved from it are restored; the errors that have waited are dealt with (R26). A failed slice gives its place to its die's spare slice, then to its neighbour. Without firmware (R76) nothing is retired. That a bridge's lasting error fails its UCIe
module 2n + m mod 2 is the model's choice (log 90). -/
def Obligations.ErrorsAndRetirements : Prop := ∀ (s : State),
  let a := s.run.arg
  let k := unitKey a
  let core := coreAt s a.n
  let l := mget s.mgmt.transientAt k []
  let posted := fun (t : State) (i : Instr) (x : EventArg) => t.run.inputs = s.run.inputs ++ [{ i := i, arg := x }]
  let lasting := fun (P : State → Prop) => a.flag = true → a.flag2 = false → gives .lastingError s fun t => teamsStay s t ∧ P t
  (a.flag = false → gives .lastingError s fun t => mget t.mgmt.transient k 0 = mget s.mgmt.transient k 0 + 1 ∧
    (∀ j, j ≠ k → mget t.mgmt.transient j 0 = mget s.mgmt.transient j 0) ∧ teamsStay s t ∧
    (s.mgmt.threshold = 16 →
      (15 ≤ l.length → s.tick.toNat ≤ l.reverse.getD 14 0 + 360000000000 → posted t .transientThreshold { a with flag := true }) ∧
      (l.length < 15 ∨ l.reverse.getD 14 0 + 360000000000 < s.tick.toNat → t.run.inputs = s.run.inputs))) ∧
  (s.fw.mode = .dead → lasting (fun t => t.run.inputs = s.run.inputs) ∧ gives .transientThreshold s (fun t => teamsStay s t ∧ t.run.inputs = s.run.inputs) ∧
    gives .coreRetirement s (· = s) ∧ gives .sliceRetirement s (· = s)) ∧
  (s.fw.mode ≠ .dead →
    (a.unit = .mem → a.m < spareFrame → a.write = false → lasting fun t => posted t .frameRemap { noArg with n := a.m, off := a.off, lost := a.lost }) ∧
    (a.unit = .mem → a.m < spareFrame → a.write = true → lasting fun t => t.run.inputs = s.run.inputs ∧ t.mgmt.remap = s.mgmt.remap) ∧
    (a.unit = .bridge → a.n < 8 → lasting fun t => posted t .ucieModuleFailure { noArg with n := 2 * a.n + a.m % 2 })) ∧
  (a.flag = true → a.flag2 = false → s.fw.mode ≠ .dead → a.unit = .core → a.n < 96 → gives .lastingError s fun t => teamsStay s t ∧
    t.run.inputs = s.run.inputs ++ [{ i := .coreRetirement, arg := { noArg with n := a.n, flag := a.flag3 } }]) ∧
  (a.flag = true → a.flag2 = false → s.fw.mode ≠ .dead → a.unit = .link → a.n < 2 → gives .lastingError s fun t => teamsStay s t ∧
    t.run.inputs = s.run.inputs ++ [{ i := .linkRetrain, arg := { noArg with n := a.n, write := a.write } }]) ∧
  (a.unit = .slice → a.n < 96 → s.fw.mode ≠ .dead → gives .transientThreshold s fun t => teamsStay s t ∧
    t.run.inputs = s.run.inputs ++ [{ i := .sliceRetirement, arg := { noArg with n := a.n, nums := a.nums } }]) ∧
  (a.flag3 = false → core.absent = true → gives .coreRetirement s fun t => teamsStay s t) ∧
  (a.flag3 = false → s.fw.mode ≠ .dead → core.absent = false → core.frozen = true ∨ (inClassAWindow s a.n = true ∧ a.flag2 = false) → gives .coreRetirement s fun t =>
    (a.n, a.flag) ∈ t.mgmt.pending ∧ teamsStay s t) ∧
  (a.flag3 = false → s.fw.mode ≠ .dead → a.flag = false → core.absent = false → core.frozen = false → inClassAWindow s a.n = false ∨ a.flag2 = true →
    core.units ≠ [] → spareUsed s (clusterOf a.n) = 0 → gives .coreRetirement s fun t => (coreAt t a.n).frozen = true ∧ memoriesStay s t) ∧
  (a.flag3 = true → s.fw.mode ≠ .dead → core.frozen = true → coreEmpty s a.n = true →
    let k := clusterOf a.n
    let ended := fun (t : State) => (coreAt t a.n).frozen = false ∧ memoriesStay s t ∧
      ∀ e ∈ s.mgmt.pending, ({ i := .coreRetirement, arg := { noArg with n := e.1, flag := e.2 } } : Event) ∈ t.run.inputs
    let bound := fun (t : State) (site : Nat) => ended t ∧ (coreAt t a.n).site = site ∧ (coreAt t a.n).absent = false ∧ (coreAt t a.n).accs = core.accs ∧
      (coreAt t a.n).scratch = core.scratch ∧ (inGuard s a.n = false → ∀ e ∈ s.saves, e.2.core = a.n → e.2.placing = true → (launchAt s e.2.ctx.launch).isSome = true →
        asks t (.restore e.1 (2 * a.n + e.2.bank)))
    let gone := fun (t : State) (j : Nat) => (coreAt t j).absent = true ∧ t.mgmt.cores = s.mgmt.cores + 1 ∧ t.mgmt.pend = true ∧ signalled s t 0 63
    (core.absent = true → gives .coreRetirement s ended) ∧
    (core.absent = false → spareUsed s k = 0 → gives .coreRetirement s fun t => bound t 8 ∧ spareUsed t k = 1) ∧
    (core.absent = false → spareUsed s k ≠ 0 → givenUp s a.n = some a.n → gives .coreRetirement s fun t => ended t ∧ gone t a.n) ∧
    (∀ j, core.absent = false → spareUsed s k ≠ 0 → givenUp s a.n = some j → j ≠ a.n →
      (holdsClassA s j = true → gives .coreRetirement s (· = s)) ∧
      (holdsClassA s j = false → coreEmpty s j = false → gives .coreRetirement s fun t => (coreAt t j).leaving = true ∧ (coreAt t a.n).frozen = true ∧ memoriesStay s t) ∧
      (holdsClassA s j = false → coreEmpty s j = true → gives .coreRetirement s fun t => bound t (coreAt s j).site ∧ gone t j))) ∧
  (s.fw.mode ≠ .dead → a.nums = [] → a.n < 96 → mget s.mgmt.sliceMap a.n 0 < 1000 → gives .sliceRetirement s fun t =>
    spareUsed t (slicePool (a.n / 48)) = spareUsed s (slicePool (a.n / 48)) + 1 ∧ memoriesStay s t ∧
    (spareUsed s (slicePool (a.n / 48)) = 0 → servingSlice t a.n = 96 + a.n / 48 ∧ t.mgmt.slices = s.mgmt.slices) ∧
    (spareUsed s (slicePool (a.n / 48)) ≠ 0 → mget t.mgmt.sliceMap a.n 0 = 1000 + 48 * (a.n / 48) + (a.n % 48 + 1) % 48 ∧ t.mgmt.slices = s.mgmt.slices + 1))

/-- R3, R31, R32, R63, R166: a register read leaves its value in `out.read` and changes nothing else; an access of a function that does not exist reads 0 and writes
nothing; NumVFs takes at most 16; PWR_CAP takes 150 to 420 and keeps its value at any other; CT_CTL, the ring tails and the other registers with an event have
its effect. The configuration space is bar 7 (log 23, the model's choice). -/
def Obligations.HostRegisterAccesses : Prop := ∀ (s : State) (fn bar off v r : Nat) (w : Word),
  let a := s.run.arg
  let write := fun (f b o : Nat) (p : State → Prop) => gives (.registerWrite f b o w) s p
  (a.flag3 = true → gives (.registerWrite fn bar off w) s fun t =>
    t = { s with out := { s.out with read := BitVec.ofNat 64 (hostRead s fn bar off) } } ∧ (fn ≠ 0 → s.numVFs < fn → t.out.read = 0)) ∧
  (a.flag3 = false → a.len = 8 →
    (fn ≠ 0 → s.numVFs < fn → write fn bar off fun t => t = s) ∧
    (write 0 7 0x10 fun t => t.numVFs = (if w.toNat ≤ 16 then w.toNat else s.numVFs) ∧ teamsStay s t) ∧
    (s.fw.mode = .running → write 0 0 0x30F000 fun t => t.pwrCap = (if 150 ≤ wbits w 8 0 ∧ wbits w 8 0 ≤ 420 then wbits w 8 0 else s.pwrCap) ∧ teamsStay s t) ∧
    (s.fw.mode = .running → w.getLsbD 0 = true → s.contracts.busy = false → write 0 0 0x100040 fun t => t.contracts.busy = true ∧ teamsStay s t) ∧
    (s.fw.mode = .running → w.getLsbD 0 = true → write 0 0 0 fun t => t.mgmt.pend = false ∧ teamsStay s t) ∧
    (s.fw.mode = .recovery → off < 0x600000 → off ≠ 8 → write 0 0 off fun t => t = s) ∧
    (s.fw.mode = .running → 1 ≤ v → v ≤ s.numVFs → r < 64 → (ringAt s v r).en = false → write v 0 (0x1000 * r) fun t =>
      ringAt t v r = { ringAt s v r with base := w &&& 0xFFFFFFFFF000 } ∧ teamsStay s t))

/-- R14, R15, R18, R58, R62, R63, R76, R126, R157, R271: a power-on or fundamental reset leaves no team, the default tables and the flash and its service part as they
were, and boots again; the fundamental one keeps the spare maps and ERRLO. In recovery a management reset boots again; else it ends every team, empties the slices and
fills the buckets; a retirement under way goes on. The model's own choices in it: the tick starts at 0 (log 3), device memory and the scratchpads read as 0 (log 4), no function
but 0 exists (log 23), and a management reset ends teams as faulted ones, clears scratchpads and lets a retirement go on (log 35). -/
def Obligations.ResetsLeave : Prop := ∀ (s : State) (k : Nat),
  let cold := fun (t : State) => t.ctxs = [] ∧ t.launches = [] ∧ t.vnpus = [] ∧ t.numVFs = 0 ∧ t.tick = 0 ∧ t.contracts = freshContracts ∧
    t.frame.view = [defaultWindow] ∧ t.pwrCap = 360 ∧ t.weights = defaultWeights ∧ t.dev = [] ∧ t.host = s.host ∧ t.fw.mode = .rom ∧
    t.fw.flash = s.fw.flash ∧ t.fw.counter = s.fw.counter ∧ t.fw.service = s.fw.service ∧ (coreAt t k).scratch = []
  (s.run.arg.flag = false → gives .powerOnReset s fun t => cold t ∧ t.run.inputs = [{ i := .bootSequence, arg := noArg }] ∧ t.frame.frames = 0 ∧ (coreAt t k).errlo = 0 ∧
    (coreAt t k).site = (coreAt State.reset k).site) ∧
  (s.run.arg.flag = true → gives .powerOnReset s fun t => cold t ∧ t.run.inputs = [{ i := .chardBootTimeout, arg := noArg }]) ∧
  (s.run.arg.flag = false → gives .fundamentalReset s fun t => cold t ∧ t.run.inputs = [{ i := .bootSequence, arg := noArg }] ∧
    t.frame.frames = 0 ∧ (coreAt t k).errlo = (coreAt s k).errlo ∧ (coreAt t k).site = (coreAt s k).site ∧ (coreAt t k).absent = (coreAt s k).absent ∧
    t.mgmt.sliceMap = s.mgmt.sliceMap ∧ svcBits t.mgmt = svcBits s.mgmt) ∧
  (s.fw.mode = .recovery → gives .mgmtReset s fun t => t.fw.mode = .rom ∧ asks t .bootSequence ∧ teamsStay s t) ∧
  (s.fw.mode = .running → gives .mgmtReset s fun t => (∀ c < 192, (ctxAt t c).phase = .empty) ∧ t.slices = [] ∧ (coreAt t k).scratch = [] ∧
    (coreAt t k).tlb = [] ∧ (coreAt t k).errlo = (coreAt s k).errlo ∧ (∀ e ∈ t.buckets, e.2.level = e.2.depth ∧ e.2.held = []) ∧ t.fw.flash = s.fw.flash ∧
    t.fw.counter = s.fw.counter ∧ (coreAt t k).frozen = (coreAt s k).frozen ∧ t.mgmt.pending = s.mgmt.pending)

/-- R56, R59, R60, R62 to R66, R76: the boot takes the selected bank when it passes its checks and the module header does, with FALLBK clear whatever it was before; else the other
bank, with FALLBK and the reason, else recovery with FALLBK and the reason of the bank tried last; the key's digest counts in each (R60). Chard boots when Kale has not
reached it. -/
def Obligations.BootChoosesABank : Prop := ∀ (s : State),
  let b := selector s.fw.flash
  let reason := fun (k : Nat) => bankReason s s.fw.flash (bankAt k) 16777216
  let signed := keyGood s && Config.verifies (readBytes s.fw.flash 0x10000 0x100000)
  (s.fw.mode ≠ .rom → gives .bootSequence s (· = s) ∧ gives .chardBootTimeout s (· = s)) ∧
  (s.fw.mode = .rom →
    (reason b = 0 → signed = true → gives .bootSequence s fun t => t.fw.mode = .running ∧ t.fw.bank = b ∧ t.fw.fwver = bankVer s.fw.flash (bankAt b) ∧
      t.fw.fallbk = false ∧ t.frame.started = true ∧ t.frame.tick = 0 ∧ t.frame.frames = s.frame.frames + 1 ∧ t.fw.flash = s.fw.flash) ∧
    (reason b ≠ 0 → reason (1 - b) = 0 → signed = true → gives .bootSequence s fun t => t.fw.mode = .running ∧ t.fw.bank = 1 - b ∧ t.fw.fallbk = true ∧
      t.fw.reason = reason b ∧ t.fw.flash = s.fw.flash) ∧
    (reason b ≠ 0 → reason (1 - b) ≠ 0 → gives .bootSequence s fun t => t.fw.mode = .recovery ∧ t.fw.reason = reason (1 - b) ∧ t.fw.fallbk = true ∧
      t.frame.started = s.frame.started ∧ teamsStay s t) ∧
    (reason b = 0 ∨ reason (1 - b) = 0 → signed = false → gives .bootSequence s fun t => t.fw.mode = .recovery ∧ t.fw.fallbk = decide (reason b ≠ 0) ∧
      t.frame.started = s.frame.started ∧ teamsStay s t) ∧
    (gives .chardBootTimeout s fun t => t.fw.kaleFailed = true ∧ t.mgmt.pend = true ∧ 1 ≤ t.mgmt.cplx ∧ asks t .bootSequence ∧ signalled s t 0 63))

/-- R61, R63, R67 to R69, R72: a staged image goes to the standby bank when it passes its checks, and nothing of the flash changes when it does not; COMMIT raises
the counter to the running version and selects its bank; SELECT takes a bank that has passed or runs; in recovery COMMIT, SELECT and ACTIVATE are refused; every
answer is asked for with its STATUS and REASON, and a MAILBOX_ANSWER that is not busy ends the command with vector 59. Without firmware (R76) no command runs, and while a
complex takes over from a failed one it waits (log 75, the model's choice). A malformed command has REASON 0xB in recovery too, and ACTIVATE with nothing staged REASON 9, a standby or
not (log 72, the model's choice). -/
def Obligations.MailboxCommands : Prop := ∀ (s : State) (w r : Nat),
  let f := s.fw
  let answered := fun (t : State) (status reason : Nat) =>
    ({ i := .mailboxAnswer, arg := { noArg with n := status, m := reason } } : Event) ∈ t.run.inputs
  let refused := fun (i : Instr) (reason : Nat) => gives i s fun t => answered t 1 reason ∧ t.fw.reason = reason ∧ t.fw.flash = f.flash ∧
    t.fw.counter = f.counter ∧ teamsStay s t
  let staged := regionPut s (activeDie s) stagingHalf (servedMemory s) (cmdArg s 0) (cmdArg s 1)
  let image := regionGet staged (activeDie s) stagingHalf (cmdArg s 1)
  let code := bankReason s image 0 (cmdArg s 1)
  let bank := if f.mode = .recovery then cmdArg s 2 else 1 - f.bank
  let selects := fun (t : State) (b : Nat) => t.fw.flash = writeByte (writeByte f.flash 0 (BitVec.ofNat 8 b)) 4 (BitVec.ofNat 8 b)
  (∀ i ∈ [Instr.malformedMailboxCommand, .status, .commit, .select, .activate, .stage], (f.mode = .dead ∨ f.mailBusy = false → gives i s (· = s)) ∧
    (f.mailBusy = true → f.mode ≠ .dead → f.failover ≠ .none → gives i s (· = stall s))) ∧
  (f.mailBusy = true → f.mode ≠ .dead → f.failover = .none →
  (refused .malformedMailboxCommand 0xB) ∧
  (gives .status s fun t => answered t 0 0 ∧ t.fw = f ∧ teamsStay s t) ∧
  (f.mode = .recovery → refused .commit 0xC ∧ refused .select 0xC ∧ refused .activate 0xC) ∧
  (f.mode = .running → f.pendc = false ∨ f.rolled = true ∨ 64 < f.fwver - f.counter → refused .commit 8) ∧
  (f.mode = .running → f.pendc = true → f.rolled = false → f.fwver - f.counter ≤ 64 → gives .commit s fun t => answered t 0 0 ∧
    t.fw.counter = max f.counter f.fwver ∧ selects t f.bank ∧ t.fw.pendc = false ∧ teamsStay s t) ∧
  (f.mode = .running → cmdArg s 0 ∉ f.passed → cmdArg s 0 ≠ f.bank → refused .select 9) ∧
  (f.mode = .running → cmdArg s 0 ∈ f.passed ∨ cmdArg s 0 = f.bank → gives .select s fun t => answered t 0 0 ∧ selects t (cmdArg s 0) ∧
    t.fw.counter = f.counter ∧ teamsStay s t) ∧
  (f.mode = .running → f.upd = 0 → f.staged = none → refused .activate 9) ∧
  (code ≠ 0 → gives .stage s fun t => answered t 1 code ∧ t.fw.reason = code ∧ t.fw.flash = f.flash ∧ t.dev = staged.dev ∧ t.fw.upd = 0 ∧ t.fw.lastStageOk = false) ∧
  (code = 0 → f.mode = .running ∨ f.mode = .recovery → gives .stage s fun t => answered t 0 0 ∧ t.dev = staged.dev ∧ t.fw.upd = 0 ∧ t.fw.staged = some bank ∧
    t.fw.lastStageOk = true ∧ bank ∈ t.fw.passed ∧
    (f.mode = .running → t.fw.flash = copyInto f.flash image 0 (cmdArg s 1) (bankAt bank)) ∧
    (f.mode = .recovery → t.fw.flash =
      writeByte (writeByte (copyInto f.flash image 0 (cmdArg s 1) (bankAt bank)) 0 (BitVec.ofNat 8 bank)) 4 (BitVec.ofNat 8 bank))) ∧
  (s.run.arg.n = w → s.run.arg.m = r → w ≠ 2 → gives .mailboxAnswer s fun t => t.fw.mailBusy = false ∧ raised s t [(0, 59)] ∧
    t.fw.flash = f.flash ∧ teamsStay s t))

/-- R70 to R77: an accepted ACTIVATE boots the standby from the staged bank, hands it the state table and quiesces intake; the takeover makes it the active complex
with that bank's version, and intake resumes, with no standby until the former active complex has become it, or has failed; 5 ms of quiesce end the update with reason 6. With an
active complex lost while the other stands by, intake pauses once nothing is being retired, and the standby is active once nothing waits for it, CPLX and the failure kept; the last
one lost leaves no firmware, with vector 63, and no update or takeover goes on. UPD 3 during and 0 or 5 after a takeover from a failed complex, and no firmware where the new active one fails before
step 5 is over, is the model's choice (log 75), and when the update is answered (log 88). -/
def Obligations.LiveUpdateAndTakeover : Prop := ∀ (s : State) (b : Nat) (u : Bool),
  let f := s.fw
  let answered := fun (t : State) (status reason : Nat) =>
    ({ i := .mailboxAnswer, arg := { noArg with n := status, m := reason } } : Event) ∈ t.run.inputs
  let active := s.run.arg.flag = true ∨ s.run.arg.n = 1 ↔ f.chardActive = true
  (f.mailBusy = true → f.mode = .running → f.failover = .none → f.upd = 0 → f.staged = some b → f.lastStageOk = true → b ≠ f.bank → f.standby = true →
    anyRetiring s = false → flashReason s b = 0 → s.run.arg.flag = false → s.run.arg.nums = [] → importOk (stateTable (setUpd s 2)) = true →
    gives .activate s fun t => t.fw.upd = 3 ∧ t.fw.quiesced = true ∧ t.fw.quiesceStart = s.tick.toNat ∧ t.fw.mirror = stateTable (setUpd s 2) ∧
      t.fw.bank = f.bank ∧ t.fw.flash = f.flash ∧ asks t .liveUpdateTakeover) ∧
  (f.mode = .running → f.failover = .none → f.upd = 3 → f.staged = some b → takeoverClear s = true → gives .liveUpdateTakeover s fun t => t.fw.chardActive = !f.chardActive ∧
    t.fw.bank = b ∧ t.fw.fwver = bankVer f.flash (bankAt b) ∧ t.fw.quiesced = false ∧ t.fw.upd = 4 ∧ t.fw.standby = false ∧ asks t .liveUpdateTakeover ∧ signalled s t 0 60 ∧
    t.ctxs = s.ctxs ∧ memoriesStay s t) ∧
  (f.mode = .running → f.failover = .none → f.upd = 4 → gives .liveUpdateTakeover s fun t => t.fw.upd = 0 ∧ t.fw.standby = true ∧ t.fw.chardActive = f.chardActive ∧ answered t 0 0) ∧
  (f.mode = .running → f.failover = .none → f.upd = 3 → f.quiesced = true → f.quiesceStart + 500000 ≤ s.tick.toNat → gives .liveUpdateTimeout s fun t => t.fw.upd = 5 ∧ t.fw.reason = 6 ∧
    t.fw.quiesced = false ∧ t.fw.bank = f.bank ∧ answered t 1 6 ∧ (∀ c < 192, ctxAt t c = ctxAt s c) ∧ t.cores = s.cores ∧ t.host = s.host) ∧
  (f.mode ≠ .running ∨ f.quiesced = false ∨ s.tick.toNat < f.quiesceStart + 500000 → gives .liveUpdateTimeout s (· = s)) ∧
  (f.mode ≠ .running → gives .liveUpdateTakeover s (· = s)) ∧
  (f.mode = .running → ¬ active → f.failover = .none → f.standby = false → f.upd = 4 → gives .complexLastingError s fun t =>
    t.fw.upd = 0 ∧ t.fw.standby = false ∧ t.fw.mode = .running ∧ 1 ≤ t.mgmt.cplx ∧ answered t 0 0 ∧ memoriesStay s t) ∧
  (f.mode = .running → active → f.failover = .none → f.standby = true → f.upd = 0 → anyRetiring s = true → gives .complexLastingError s fun t =>
    t.fw.failover = .failed false ∧ t.fw.upd = 0 ∧ t.fw.quiesced = f.quiesced ∧ t.fw.standby = false ∧ t.fw.reason = 7 ∧ memoriesStay s t) ∧
  (f.mode = .running → active → f.failover = .none → f.standby = true → f.upd = 0 → anyRetiring s = false → gives .complexLastingError s fun t =>
    t.fw.failover = .failed false ∧ t.fw.upd = 3 ∧ t.fw.quiesced = true ∧ t.fw.standby = false ∧ t.fw.reason = 7 ∧ t.fw.mode = .running ∧ 1 ≤ t.mgmt.cplx ∧
    t.mgmt.pend = true ∧ asks t .liveUpdateTakeover ∧ memoriesStay s t) ∧
  (f.mode = .running → f.failover = .failed u → f.quiesced = true → takeoverClear s = true → gives .liveUpdateTakeover s fun t => t.fw.chardActive = !f.chardActive ∧ t.fw.failover = .none ∧
    t.fw.quiesced = false ∧ t.fw.upd = (if u = true then 5 else 0) ∧ s.mgmt.cplx ≤ t.mgmt.cplx ∧ (f.kaleFailed = true → t.fw.kaleFailed = true) ∧
    (f.chardFailed = true → t.fw.chardFailed = true) ∧ signalled s t 0 60 ∧ t.ctxs = s.ctxs ∧ memoriesStay s t) ∧
  (f.mode = .running → active → f.failover = .none → f.standby = false → gives .complexLastingError s fun t => t.fw.mode = .dead ∧
    t.fw.reason = 7 ∧ t.mgmt.cplx = 2 ∧ t.mgmt.pend = true ∧ t.fw.upd = (if f.upd = 4 then 5 else f.upd) ∧ t.fw.quiesced = false ∧ raised s t [(0, 63)] ∧ memoriesStay s t)

/-- R66, R77 to R79: an attestation request is answered once, with an error without an identity; during a takeover it waits; without firmware (R76)
nobody answers. The answers' codes are the family's (log 36, the model's choice). -/
def Obligations.AttestationAnswers : Prop := ∀ (s : State),
  let answers := fun (i : Instr) (p : List Byte → Prop) =>
    (s.fw.mode = .dead → gives i s fun t => t = s) ∧
    (s.fw.mode ≠ .dead → s.fw.quiesced = true → gives i s fun t => t.fw.heldSpdm = s.fw.heldSpdm ++ [{ i := i, arg := s.run.arg }] ∧ t.out = s.out ∧ teamsStay s t) ∧
    (s.fw.mode ≠ .dead → s.fw.quiesced = false → s.fw.idok = false → gives i s fun t => t.out.spdm = s.out.spdm ++ [spdmError 5] ∧ teamsStay s t) ∧
    (s.fw.mode ≠ .dead → s.fw.quiesced = false → s.fw.idok = true → gives i s fun t => (∃ r, t.out.spdm = s.out.spdm ++ [r] ∧ p r) ∧ t.fw = s.fw ∧ teamsStay s t)
  let a := s.run.arg
  let code := fun (n : Nat) (r : List Byte) => r.take 2 = [0x13, BitVec.ofNat 8 n]
  answers .spdmGetVersion (code 0x04) ∧ answers .spdmGetCapabilities (code 0x61) ∧ answers .spdmUnsupportedRequest (· = spdmError 7) ∧
  answers .spdmNegotiateAlgorithms (code (if nbits a.n 6 6 = 1 ∧ nbits a.m 2 2 = 1 ∧ nbits a.off 3 3 = 1 then 0x63 else 0x7F)) ∧
  answers .spdmGetDigests (· = spdmMsg 0x01 0 1 (Config.sha512 (chainBytes s))) ∧
  answers .spdmGetCertificate (fun r => if a.n = 0 then r.drop 4 = ((chainBytes s).drop a.off).take a.len else r = spdmError 7) ∧
  answers .spdmChallenge (fun r => if a.n = 0 then r.drop 4 = Config.sha512 (chainBytes s) ++ a.data ++ Config.identitySign (Config.sha512 (chainBytes s) ++ a.data)
    else r = spdmError 1) ∧
  answers .spdmGetMeasurements (fun r => if 4 < a.n ∧ a.n ≠ 255 then r = spdmError 1 else code 0x60 r)

/-! ## Words, steps, the state after reset -/

/-- R332 to R340, R342 to R348: words written from the tables of the spec decode to their instructions, and words with an unassigned code or a nonzero
unused field to none. -/
def Obligations.WordsOfTheTablesDecode : Prop :=
  decodeControl 0x14B2C001 = .addi 11 11 1 ∧ decodeControl 0x04100100 = .add 1 0 1 ∧ decodeControl 0x38812345 = .lui 8 0x12345 ∧
  decodeControl 0x600DC000 = .jr 0 55 0 ∧ decodeControl 0x70000002 = .swp 2 ∧ decodeControl 0xD4000000 = .hcallEnd ∧ decodeControl 0xD8000000 = .eret ∧
  decodeControl 0xB000000B = .fence (.seq .device) ∧ decodeControl 0xD0080001 = .trap 0x80001 ∧ decodeControl 0 = .illegalInstruction 0 ∧
  decodeControl 0xD8000004 = .illegalInstruction 0xD8000004 ∧ decodeControl 0xD8100000 = .illegalInstruction 0xD8100000 ∧
  decodeLane 0x700000000000000000000000 = .vnop
    { d := 0, a := 0, b := 0, c := 0, lat := 0, pred := 0, id := false, ia := false, ib := false, sat := false, rnd := 0, f1 := 0, f2 := 0, imm := 0 } ∧
  isHeader 0xB40004104C000000 = true ∧
  headerFieldsOf 0xB40004104C000000 = { num := 1, length := 65, kind := 0, full := true, last := true, reserved := 0 }

/-- R332 to R340: a well-formed control instruction's word decodes to it, for every value of its fields; and every control word is the word of what it
decodes to, so that no bit of it is dropped. -/
def Obligations.ControlWordsRoundTrip : Prop :=
  (∀ (i : Instr) (w : BitVec 32) (rest : List Byte), i.wf = true → encodeControl i = some w → encode i = [w] ∧ decodeControl w = i ∧
    decodeControlBytes (encodeBytes i ++ rest) = .ok (i, rest)) ∧
  (∀ w : BitVec 32, encode (decodeControl w) = [w])

/-- R341 to R349, R353, R354: a well-formed lane word and a section header decode from their bytes to themselves, wherever they stand in the stream; an engine
command is what its engine and code name, with its words A and B whole. -/
def Obligations.LaneWordsAndCommandsRoundTrip : Prop :=
  (∀ (i : Instr) (op : BitVec 8) (f : LaneFields) (rest : List Byte), i.wf = true → laneParts i = some (op, f) →
    decodeItemBytes (encodeBytes i ++ rest) = .ok (i, rest) ∧ (encodeBytes i).length = 12) ∧
  (∀ (h : HeaderFields) (rest : List Byte), decodeItemBytes (encodeBytes (.sectionHeader h) ++ rest) = .ok (.sectionHeader h, rest) ∧
    (encodeBytes (.sectionHeader h)).length = 8) ∧
  (∀ (i : Instr) (eng : BitVec 2) (op : BitVec 6) (c : EngineFields), commandParts i = some (eng, op, c) → (∀ g o d, i ≠ .unassignedEngineCommand g o d) →
    decodeCommand eng op c = i ∧ decodeWords (encode i) = some i) ∧
  (∀ w : BitVec 96, encode (decodeLane w) = [w.extractLsb' 32 32, w.extractLsb' 64 32, w.extractLsb' 0 32])

/-- R194, R349, R358: in its turn, with no input waiting, a sequencer whose team executes and has no notice due runs the control instruction that the four
bytes at its PC decode to, once in each cycle of its cluster's clock; the lanes run the header or the lane word at their position; an engine's command is what its queue holds. An input runs first; one that names
no unit of the module is the model's one stop (log 1, 23, the model's choice). A step that nothing holds back stands as its instruction has left the state; one that
waits for a request is taken back (log 56, the model's choice). -/
def Obligations.StepRunsTheDecodedInstruction : Prop := ∀ (s s1 s2 u : State) (c : Nat) (rest : List Turn) (i : Instr) (b0 b1 b2 b3 : Byte) (h l tail : List Byte) (e : Event)
    (more : List Event) (a : Agent),
  let r := fun (t : Turn) => began (.turn t) { s with run := { s.run with rota := rest ++ [t] } }
  let does := fun (t : Turn) (o : Host.Outcome State Fault Refusal) => step s = settle (.turn t) (r t) o
  let runs := fun (t : State) => { t with run := { t.run with cur := c, arg := noArg } }
  let rs := if isTeam c = true then settleBank (r (.seq c)) (coreOf c) else r (.seq c)
  let x := ctxAt rs c
  let y := ctxAt s c
  let va := y.image + BitVec.ofNat 64 (y.hdr.lane + y.lanes.pos)
  let clocked := isTeam c = true → s.railsOff = false ∧ (clusterAt s (clusterOf (coreOf c))).clocked = true
  let begun := began (.event e) { s with run := { s.run with inputs := more, arg := e.arg } }
  (s.run.inputs = [] → clocked → s.run.rota = .seq c :: rest → seqReady rs c = true → x.pend26 = false → x.pend27 = false → x.fault = none →
    x.pc.toNat % 4 = 0 → fetch4 rs c false x.pc = (s1, .ok [b0, b1, b2, b3]) → s1.run.stuck = false → decodeControlBytes [b0, b1, b2, b3] = .ok (i, []) →
    does (.seq c) (Machine.exec i (runs s1))) ∧
  (s.run.inputs = [] → clocked → s.run.rota = .lanes c :: rest → lanesReady s c = true → halfIssue s c = false → y.laneFault = none →
    y.lanes.pos % 4 = 0 → fetchWords (r (.lanes c)) c true va 2 = (s1, .ok h) → h.length = 8 → s1.run.stuck = false →
    (decodeItemBytes h = .ok (i, []) → does (.lanes c) (Machine.exec i (runs s1))) ∧
    (decodeHeaderBytes h = .error .notAHeader → fetch4 s1 c true (va + 8) = (s2, .ok l) → l.length = 4 → s2.run.stuck = false →
      decodeItemBytes (h ++ l) = .ok (i, tail) → does (.lanes c) (Machine.exec i (runs s2)))) ∧
  (∀ t, s.run.inputs = [] → s.run.rota = t :: rest → turnOf t (r t) = (s1, some i) → does t (Machine.exec i s1)) ∧
  (∀ t, s.run.inputs = [] → s.run.rota = t :: rest → turnOf t (r t) = (s1, none) → does t (.next s1)) ∧
  (s.run.inputs = e :: more → e.i.wf = true → EventArg.fits e.i e.arg = true → step s = settle (.event e) begun (Machine.exec e.i begun)) ∧
  (s.run.inputs = e :: more → e.i.wf = false ∨ EventArg.fits e.i e.arg = false → step s = .fault .inputIllFormed) ∧
  (u.run.stuck = false → settle a s (.next u) = .next (began .nobody (made a s u))) ∧
  (u.run.stuck = true → settle a s (.next u) = .next (began .nobody (takenBack a s u)))

/-- Every instruction of the table answers a next state in every state, and a step stops only at an input that names no unit of the module: no instruction is
refused. -/
def Obligations.EveryInstructionGoesOn : Prop :=
  (∀ (i : Instr) (s : State), ∃ t, Machine.exec i s = .next t) ∧
  (∀ s : State, (∀ e more, s.run.inputs = e :: more → e.i.wf = true ∧ EventArg.fits e.i e.arg = true) → goesOnFrom s)

/-- The memories keep their canonical form, addresses rising and no byte listed that reads as an unlisted one, over every step: device and host memory, the scratchpads,
the save areas, the flash, each complex's SRAM, the mailbox, the prologues' records, function 0's tables. -/
def Obligations.StepsKeepMemoriesCanonical : Prop := ∀ s t : State, memoriesCanonical s = true → step s = .next t → memoriesCanonical t = true

/-- R18, R31, R42, R62, R91, R126, R127, R162, R165, R166: right after power-on the memories are canonical, no team exists, no contract is in force, one window of the
default table covers every core, the weights and the power cap have their values, and the ROM has yet to boot. That the tick is 0 (log 3), that an unlisted byte reads
as 0 (log 4) and that NumVFs is 0 (log 23) are the model's choices. -/
def Obligations.StateAfterReset : Prop :=
  let s := State.reset
  memoriesCanonical s = true ∧ s.numVFs = 0 ∧ (∀ c, (ctxAt s c).phase = .empty) ∧ s.launches = [] ∧ s.contracts.inForce = [] ∧ s.frame.view = [defaultWindow] ∧
  defaultWindow.start = 0 ∧ defaultWindow.len = 1000000 ∧ (∀ k < 96, defaultWindow.cores.getLsbD k = true) ∧ s.frame.len = 1000 ∧ s.frame.started = false ∧
  s.pwrCap = 360 ∧ weight s 4 = 22 ∧ weight s 13 = 8 ∧ s.fw.mode = .rom ∧ s.tick = 0 ∧ ringOn s = false ∧ s.run.inputs.map (·.i) = [.bootSequence]

/-! ## Claims taken together -/

/-- R360, R362 to R365: the result of every instruction of the integer and bit groups but division, and of every one with an immediate. -/
def Obligations.RegisterArithmeticResults : Prop := Claims.IntegerGroupResults ∧ Claims.BitInstructionResults ∧ Claims.ImmediateResults

/-- R366 to R368: where every branch, jump and call goes, and what it links. -/
def Obligations.BranchesAndJumps : Prop := Claims.BranchTargets ∧ Claims.JumpTargets

/-- R372 to R374: the loop instructions, and the end check of every instruction that retires. -/
def Obligations.LoopsAndTheirEnds : Prop := Claims.LoopInstructions ∧ Claims.EndCheckFollowsR373

/-- R380 to R382, R387, R388, R390, R391: every sequencer instruction that reaches memory issues its access; a fence waits for earlier ones. -/
def Obligations.MemoryInstructions : Prop := Claims.MemoryInstructionsIssue ∧ Claims.FenceWaitsForEarlierAccesses

/-- R203, R380, R381: the misaligned accesses and the scratchpad accesses that trap. -/
def Obligations.AlignmentAndScratchpadTraps : Prop := Claims.MisalignedAccessTraps ∧ Claims.ScratchpadTraps

/-- R381, R383 to R386: scratchpad accesses of the sequencer, and the residency instructions. -/
def Obligations.ScratchpadAndResidency : Prop := Claims.ScratchpadInstructions ∧ Claims.ResidencyInstructions

/-- R392, R393, R396, R397: what a token instruction queues, and when each waiting instruction goes on. -/
def Obligations.TokensAndWaits : Prop := Claims.TokenInstructions ∧ Claims.WaitInstructions

/-- R189, R200, R395 to R397, R399: counters, owners, tags, the command queues, PHASE. -/
def Obligations.CountersCommandsAndPhases : Prop := Claims.CounterOwnerAndTagInstructions ∧ Claims.CmdQueuesTheCommand ∧ Claims.PhaseRaisesPhOnce

/-- R379, R400: reads and writes of every system register, of a team and of a firmware core. -/
def Obligations.SystemRegisters : Prop := Claims.GetsReadsSystemRegisters ∧ Claims.SetsWritesSystemRegisters ∧ Claims.FirmwareCoreRegisters

/-- R203, R205, R206, R379, R401, R402: the software traps, and what a fault and a notice leave. -/
def Obligations.TrapsAndFaults : Prop := Claims.TrapAndBrkInTeamsAndFirmwareCores ∧ Claims.FaultKillsTheTeam ∧ Claims.NoticeLeavesTheTeamRunning

/-- R56, R379, R404, and log 16 (the model's reading of a firmware core's address space): a firmware core's accesses, the entry into its handler and the return. -/
def Obligations.FirmwareCores : Prop := Claims.FirmwareCoreAccesses ∧ Claims.FirmwareFaultEntryAndReturn

/-- R141, R142, R145, R352, R404: how a drain stub ends, and what traps in one. -/
def Obligations.DrainStubs : Prop := Claims.EretInDrainStubs ∧ Claims.DrainModeTraps

/-- R208, R248, R340, R403, R406 to R409: the calls of a team, time, the privileged instructions in both modes, and words that are no instruction. -/
def Obligations.CallsTimeAndPrivilege : Prop := Claims.TeamCalls ∧ Claims.TimeAndPrivilegedInstructions ∧ Claims.IllegalInstructionTraps

/-- R169, R370, R375: a jump through a table, and a switch point that is taken or not; on a firmware core it traps (log 16). -/
def Obligations.SwitchPointsAndJumpTables : Prop := Claims.JumpTable ∧ Claims.SwitchPointNotTaken ∧ Claims.SwitchPointTaken

/-- R236, R238, R243 to R253, R425, R427: the floating-point lane words, the classes FCLASS names, and what the sums, products, quotients, roots, roundings and conversions that they name deliver. -/
def Obligations.LaneFloatResults : Prop := Claims.LaneFloatWords ∧ Claims.FclassNamesTheClass ∧ Claims.ArithmeticIsRounded ∧ Claims.ProductsQuotientsAndRoots

/-- R436 to R439: the lane loads and stores. -/
def Obligations.LaneMemory : Prop := Claims.LaneLoads ∧ Claims.LaneStores

/-- R245, R440, R441: the mask stack and the lane system words. -/
def Obligations.LaneMasksAndSystem : Prop := Claims.MaskStackWords ∧ Claims.LaneSystemWords

/-- R265, R447, R448, R451: the commands of the accumulator port and the weight loads. -/
def Obligations.AccumulatorPortAndWeights : Prop := Claims.AccumulatorPortCommands ∧ Claims.WeightLoads

/-- R260 to R262, R265 to R267, R275, R276, R449, R450: a stream through the current tile and what its passes deliver, an epilogue into the scratchpad and what its rows deliver. -/
def Obligations.StreamAndEpilogue : Prop := Claims.StreamCommand ∧ Claims.PassArithmetic ∧ Claims.EpilogueToScratchpad ∧ Claims.NarrowedRows

/-- R444, R454 to R457: every copy command starts, and what a copy inside the scratchpad moves. -/
def Obligations.CopyCommands : Prop := Claims.CopyCommandsStart ∧ Claims.ScratchpadCopyMovesElements

/-- R444, R461 to R463: a collective command joins its instance, and what each participant receives. -/
def Obligations.CollectiveCommands : Prop := Claims.CollectiveCommandsWaitForTheirInstance ∧ Claims.CollectiveOutputs

/-- R276, R278, R279, R354, R356, R444 to R446, R461, R462: how commands end, are rejected, release what they hold and match. -/
def Obligations.EngineCommandsEnd : Prop := Claims.EngineCompletionSignals ∧ Claims.UnassignedCommandsAreRejected ∧ Claims.SpillReleaseAndMatch

/-- R98 to R101, R105, R107, R108: the ring and queue registers, and a merge unit that takes a packet. -/
def Obligations.RingsAndMergeUnits : Prop := Claims.RingAndQueueRegisters ∧ Claims.MergeUnitTakesAPacket

/-- R121, R122, R130, R131, R134, R137, R139, R140, R146: windows, and a decision that places a team. -/
def Obligations.WindowsAndDispatch : Prop := Claims.WindowsStopAndResumeTeams ∧ Claims.DispatchPlacesTheNextTeam

/-- R19, R37 to R44, R48 to R51, R54: link ports, page moves, bridges. -/
def Obligations.LinksAndMigration : Prop := Claims.LinkPortsSendAndReceive ∧ Claims.MigrationAndBridges

/-- R149, R153 to R155, R161 to R164: buckets and what their exhaustion does, energy, quota. -/
def Obligations.EnergyAndQuota : Prop := Claims.BucketsAndEnergyAreCharged ∧ Claims.ExhaustedBuckets ∧ Claims.QuotaExhaustionStopsTeams
end

