-- ==== Sys2Proof/Laws/Maps.lean ====
section
/-!
SUPPORT. Laws of the sparse maps and of byte memory: a read after a write, and that every memory operation keeps the canonical form.
-/
namespace Sys2Proof.Machine

/-! ## Lookup after an update -/

@[simp] theorem mfind_mput_same {α : Type} (m : SMap α) (k : Nat) (v : α) : mfind (mput m k v) k = some v := by
  induction m with
  | nil => simp [mput, mfind]
  | cons e r ih =>
    obtain ⟨a, w⟩ := e
    unfold mput
    split
    · simp [mfind]
    · split
      · simp [mfind]
      · rename_i h1 h2
        simp [mfind, h1, h2, ih]

theorem mfind_mput_other {α : Type} (m : SMap α) (k j : Nat) (v : α) (h : j ≠ k) : mfind (mput m k v) j = mfind m j := by
  induction m with
  | nil => by_cases hj : j < k <;> simp [mput, mfind, Ne.symm h, hj]
  | cons e r ih =>
    obtain ⟨a, w⟩ := e
    unfold mput
    split
    · rename_i h1
      by_cases hj : j < k
      · have : j < a := Nat.lt_trans hj h1
        have h2 : a ≠ j := by omega
        simp [mfind, Ne.symm h, hj, this, h2]
      · simp [mfind, Ne.symm h, hj]
    · split
      · rename_i h2
        subst h2
        by_cases hj : j < a <;> simp [mfind, Ne.symm h, hj]
      · simp only [mfind, ih]

@[simp] theorem mget_mput_same {α : Type} (m : SMap α) (k : Nat) (v d : α) : mget (mput m k v) k d = v := by simp [mget]

theorem mget_mput_other {α : Type} (m : SMap α) (k j : Nat) (v d : α) (h : j ≠ k) : mget (mput m k v) j d = mget m j d := by
  simp [mget, mfind_mput_other m k j v h]

theorem mfind_below {α : Type} (m : SMap α) (lo k : Nat) (hm : msorted lo m = true) (h : k < lo) : mfind m k = none := by
  cases m with
  | nil => rfl
  | cons e r =>
    obtain ⟨a, w⟩ := e
    simp only [msorted, Bool.and_eq_true, decide_eq_true_eq] at hm
    have h1 : a ≠ k := by omega
    have h2 : k < a := by omega
    simp [mfind, h1, h2]

theorem mfind_mdel_same {α : Type} (m : SMap α) (lo k : Nat) (hm : msorted lo m = true) : mfind (mdel m k) k = none := by
  induction m generalizing lo with
  | nil => rfl
  | cons e r ih =>
    obtain ⟨a, w⟩ := e
    simp only [msorted, Bool.and_eq_true, decide_eq_true_eq] at hm
    unfold mdel
    split
    · rename_i h
      have h1 : a ≠ k := by omega
      simp [mfind, h1, h]
    · split
      · rename_i h
        subst h
        exact mfind_below r (a + 1) a hm.2 (by omega)
      · rename_i h1 h2
        simp [mfind, h1, h2, ih (a + 1) hm.2]

theorem mfind_mdel_other {α : Type} (m : SMap α) (lo k j : Nat) (hm : msorted lo m = true) (h : j ≠ k) :
    mfind (mdel m k) j = mfind m j := by
  induction m generalizing lo with
  | nil => rfl
  | cons e r ih =>
    obtain ⟨a, w⟩ := e
    simp only [msorted, Bool.and_eq_true, decide_eq_true_eq] at hm
    unfold mdel
    split
    · rfl
    · split
      · rename_i h2
        subst h2
        by_cases hj : j < a
        · simp [mfind, Ne.symm h, hj, mfind_below r (a + 1) j hm.2 (by omega)]
        · simp [mfind, Ne.symm h, hj]
      · simp only [mfind, ih (a + 1) hm.2]

@[simp] theorem mput_mput {α : Type} (m : SMap α) (k : Nat) (v w : α) : mput (mput m k v) k w = mput m k w := by
  induction m with
  | nil => simp [mput]
  | cons e r ih =>
    obtain ⟨a, u⟩ := e
    by_cases h1 : k < a
    · simp [mput, h1]
    · by_cases h2 : a = k
      · simp [mput, h2]
      · simp [mput, h1, h2, ih]

/-! ## The canonical form -/

theorem msorted_mono {α : Type} (m : SMap α) (lo lo' : Nat) (h : lo' ≤ lo) (hm : msorted lo m = true) : msorted lo' m = true := by
  cases m with
  | nil => rfl
  | cons e r =>
    simp only [msorted, Bool.and_eq_true, decide_eq_true_eq] at hm ⊢
    exact ⟨by omega, hm.2⟩

theorem msorted_mput {α : Type} (m : SMap α) (lo k : Nat) (v : α) (h : lo ≤ k) (hm : msorted lo m = true) :
    msorted lo (mput m k v) = true := by
  induction m generalizing lo with
  | nil => simp [mput, msorted, h]
  | cons e r ih =>
    obtain ⟨a, w⟩ := e
    simp only [msorted, Bool.and_eq_true, decide_eq_true_eq] at hm
    unfold mput
    split
    · rename_i hk
      simp only [msorted, Bool.and_eq_true, decide_eq_true_eq]
      exact ⟨h, by omega, hm.2⟩
    · split
      · rename_i hk
        subst hk
        simp only [msorted, Bool.and_eq_true, decide_eq_true_eq]
        exact hm
      · simp only [msorted, Bool.and_eq_true, decide_eq_true_eq]
        exact ⟨hm.1, ih (a + 1) (by omega) hm.2⟩

theorem msorted_mdel {α : Type} (m : SMap α) (lo k : Nat) (hm : msorted lo m = true) : msorted lo (mdel m k) = true := by
  induction m generalizing lo with
  | nil => rfl
  | cons e r ih =>
    obtain ⟨a, w⟩ := e
    have hm' := hm
    simp only [msorted, Bool.and_eq_true, decide_eq_true_eq] at hm
    unfold mdel
    split
    · exact hm'
    · split
      · exact msorted_mono r (a + 1) lo (by omega) hm.2
      · simp only [msorted, Bool.and_eq_true, decide_eq_true_eq]
        exact ⟨hm.1, ih (a + 1) hm.2⟩

theorem mem_mput {α : Type} (m : SMap α) (k : Nat) (v : α) (e : Nat × α) (h : e ∈ mput m k v) : e = (k, v) ∨ e ∈ m := by
  induction m with
  | nil => simpa [mput] using h
  | cons f r ih =>
    obtain ⟨a, w⟩ := f
    unfold mput at h
    split at h
    · simpa using h
    · split at h
      · rcases List.mem_cons.mp h with h | h
        · exact .inl h
        · exact .inr (List.mem_cons_of_mem _ h)
      · rcases List.mem_cons.mp h with h | h
        · exact .inr (h ▸ List.mem_cons_self)
        · rcases ih h with h | h
          · exact .inl h
          · exact .inr (List.mem_cons_of_mem _ h)

theorem mem_mdel {α : Type} (m : SMap α) (k : Nat) (e : Nat × α) (h : e ∈ mdel m k) : e ∈ m := by
  induction m with
  | nil => exact h
  | cons f r ih =>
    obtain ⟨a, w⟩ := f
    unfold mdel at h
    split at h
    · exact h
    · split at h
      · exact List.mem_cons_of_mem _ h
      · rcases List.mem_cons.mp h with h | h
        · exact h ▸ List.mem_cons_self
        · exact List.mem_cons_of_mem _ (ih h)

theorem wf_nil : Memory.wf [] = true := rfl

theorem wf_writeByte (m : Memory) (a : Nat) (v : BitVec 8) (h : Memory.wf m = true) : Memory.wf (writeByte m a v) = true := by
  simp only [Memory.wf, Bool.and_eq_true, List.all_eq_true, bne_iff_ne] at h ⊢
  unfold writeByte
  split
  · exact ⟨msorted_mdel m 0 a h.1, fun e he => h.2 e (mem_mdel m a e he)⟩
  · rename_i hv
    refine ⟨msorted_mput m 0 a v (by omega) h.1, fun e he => ?_⟩
    rcases mem_mput m a v e he with rfl | he
    · exact hv
    · exact h.2 e he

theorem wf_writeBytes (l : List Byte) (m : Memory) (a : Nat) (h : Memory.wf m = true) : Memory.wf (writeBytes m a l) = true := by
  induction l generalizing m a with
  | nil => exact h
  | cons v r ih => exact ih (writeByte m a v) (a + 1) (wf_writeByte m a v h)

theorem wf_writeLe (m : Memory) (a n x : Nat) (h : Memory.wf m = true) : Memory.wf (writeLe m a n x) = true :=
  wf_writeBytes _ m a h

/-! ## Reads after writes -/

theorem wf_sorted (m : Memory) (h : Memory.wf m = true) : msorted 0 m = true := by
  simp only [Memory.wf, Bool.and_eq_true] at h
  exact h.1

theorem readByte_writeByte_same (m : Memory) (a : Nat) (v : BitVec 8) (h : Memory.wf m = true) : readByte (writeByte m a v) a = v := by
  unfold readByte writeByte mget
  split
  · rename_i hv
    simp [mfind_mdel_same m 0 a (wf_sorted m h), hv]
  · simp

theorem readByte_writeByte_other (m : Memory) (a b : Nat) (v : BitVec 8) (h : Memory.wf m = true) (hb : b ≠ a) :
    readByte (writeByte m a v) b = readByte m b := by
  unfold readByte writeByte mget
  split
  · rw [mfind_mdel_other m 0 a b (wf_sorted m h) hb]
  · rw [mfind_mput_other m a b v hb]

theorem readByte_writeBytes_other (l : List Byte) (m : Memory) (a b : Nat) (h : Memory.wf m = true) (hb : b < a ∨ a + l.length ≤ b) :
    readByte (writeBytes m a l) b = readByte m b := by
  induction l generalizing m a with
  | nil => rfl
  | cons v r ih =>
    simp only [List.length_cons] at hb
    rw [writeBytes, ih (writeByte m a v) (a + 1) (wf_writeByte m a v h) (by omega)]
    exact readByte_writeByte_other m a b v h (by omega)

theorem readBytes_writeBytes_same (l : List Byte) (m : Memory) (a : Nat) (h : Memory.wf m = true) :
    readBytes (writeBytes m a l) a l.length = l := by
  induction l generalizing m a with
  | nil => rfl
  | cons v r ih =>
    have hw := wf_writeByte m a v h
    rw [writeBytes, List.length_cons, readBytes, ih (writeByte m a v) (a + 1) hw,
      readByte_writeBytes_other r (writeByte m a v) (a + 1) a hw (by omega), readByte_writeByte_same m a v h]

end Sys2Proof.Machine
end

