-- ==== Sys2Proof/Laws/State.lean ====
section
/-!
SUPPORT. Laws of the named updates of the state: one lemma per field and update, and what the tables read after an update.
-/
namespace Sys2Proof.Machine

/-! ### setCtx -/

@[simp] theorem setCtx_run (s : State) (c : Nat) (x : Ctx) : (setCtx s c x).run = s.run := rfl
@[simp] theorem setCtx_out (s : State) (c : Nat) (x : Ctx) : (setCtx s c x).out = s.out := rfl
@[simp] theorem setCtx_tick (s : State) (c : Nat) (x : Ctx) : (setCtx s c x).tick = s.tick := rfl
@[simp] theorem setCtx_cores (s : State) (c : Nat) (x : Ctx) : (setCtx s c x).cores = s.cores := rfl
@[simp] theorem setCtx_vnpus (s : State) (c : Nat) (x : Ctx) : (setCtx s c x).vnpus = s.vnpus := rfl
@[simp] theorem setCtx_numVFs (s : State) (c : Nat) (x : Ctx) : (setCtx s c x).numVFs = s.numVFs := rfl
@[simp] theorem setCtx_launches (s : State) (c : Nat) (x : Ctx) : (setCtx s c x).launches = s.launches := rfl
@[simp] theorem setCtx_nextLaunch (s : State) (c : Nat) (x : Ctx) : (setCtx s c x).nextLaunch = s.nextLaunch := rfl
@[simp] theorem setCtx_saves (s : State) (c : Nat) (x : Ctx) : (setCtx s c x).saves = s.saves := rfl
@[simp] theorem setCtx_stubs (s : State) (c : Nat) (x : Ctx) : (setCtx s c x).stubs = s.stubs := rfl
@[simp] theorem setCtx_nextSave (s : State) (c : Nat) (x : Ctx) : (setCtx s c x).nextSave = s.nextSave := rfl
@[simp] theorem setCtx_contracts (s : State) (c : Nat) (x : Ctx) : (setCtx s c x).contracts = s.contracts := rfl
@[simp] theorem setCtx_frame (s : State) (c : Nat) (x : Ctx) : (setCtx s c x).frame = s.frame := rfl
@[simp] theorem setCtx_buckets (s : State) (c : Nat) (x : Ctx) : (setCtx s c x).buckets = s.buckets := rfl
@[simp] theorem setCtx_weights (s : State) (c : Nat) (x : Ctx) : (setCtx s c x).weights = s.weights := rfl
@[simp] theorem setCtx_overhead (s : State) (c : Nat) (x : Ctx) : (setCtx s c x).overhead = s.overhead := rfl
@[simp] theorem setCtx_pwrCap (s : State) (c : Nat) (x : Ctx) : (setCtx s c x).pwrCap = s.pwrCap := rfl
@[simp] theorem setCtx_boost (s : State) (c : Nat) (x : Ctx) : (setCtx s c x).boost = s.boost := rfl
@[simp] theorem setCtx_railsOff (s : State) (c : Nat) (x : Ctx) : (setCtx s c x).railsOff = s.railsOff := rfl
@[simp] theorem setCtx_clusters (s : State) (c : Nat) (x : Ctx) : (setCtx s c x).clusters = s.clusters := rfl
@[simp] theorem setCtx_xlate (s : State) (c : Nat) (x : Ctx) : (setCtx s c x).xlate = s.xlate := rfl
@[simp] theorem setCtx_slices (s : State) (c : Nat) (x : Ctx) : (setCtx s c x).slices = s.slices := rfl
@[simp] theorem setCtx_collectives (s : State) (c : Nat) (x : Ctx) : (setCtx s c x).collectives = s.collectives := rfl
@[simp] theorem setCtx_relay (s : State) (c : Nat) (x : Ctx) : (setCtx s c x).relay = s.relay := rfl
@[simp] theorem setCtx_mgmt (s : State) (c : Nat) (x : Ctx) : (setCtx s c x).mgmt = s.mgmt := rfl
@[simp] theorem setCtx_ports (s : State) (c : Nat) (x : Ctx) : (setCtx s c x).ports = s.ports := rfl
@[simp] theorem setCtx_msix (s : State) (c : Nat) (x : Ctx) : (setCtx s c x).msix = s.msix := rfl
@[simp] theorem setCtx_pba (s : State) (c : Nat) (x : Ctx) : (setCtx s c x).pba = s.pba := rfl
@[simp] theorem setCtx_aer (s : State) (c : Nat) (x : Ctx) : (setCtx s c x).aer = s.aer := rfl
@[simp] theorem setCtx_fw (s : State) (c : Nat) (x : Ctx) : (setCtx s c x).fw = s.fw := rfl
@[simp] theorem setCtx_dev (s : State) (c : Nat) (x : Ctx) : (setCtx s c x).dev = s.dev := rfl
@[simp] theorem setCtx_host (s : State) (c : Nat) (x : Ctx) : (setCtx s c x).host = s.host := rfl

/-! ### modCtx -/

@[simp] theorem modCtx_run (s : State) (c : Nat) (f : Ctx → Ctx) : (modCtx s c f).run = s.run := rfl
@[simp] theorem modCtx_out (s : State) (c : Nat) (f : Ctx → Ctx) : (modCtx s c f).out = s.out := rfl
@[simp] theorem modCtx_tick (s : State) (c : Nat) (f : Ctx → Ctx) : (modCtx s c f).tick = s.tick := rfl
@[simp] theorem modCtx_cores (s : State) (c : Nat) (f : Ctx → Ctx) : (modCtx s c f).cores = s.cores := rfl
@[simp] theorem modCtx_vnpus (s : State) (c : Nat) (f : Ctx → Ctx) : (modCtx s c f).vnpus = s.vnpus := rfl
@[simp] theorem modCtx_numVFs (s : State) (c : Nat) (f : Ctx → Ctx) : (modCtx s c f).numVFs = s.numVFs := rfl
@[simp] theorem modCtx_launches (s : State) (c : Nat) (f : Ctx → Ctx) : (modCtx s c f).launches = s.launches := rfl
@[simp] theorem modCtx_nextLaunch (s : State) (c : Nat) (f : Ctx → Ctx) : (modCtx s c f).nextLaunch = s.nextLaunch := rfl
@[simp] theorem modCtx_saves (s : State) (c : Nat) (f : Ctx → Ctx) : (modCtx s c f).saves = s.saves := rfl
@[simp] theorem modCtx_stubs (s : State) (c : Nat) (f : Ctx → Ctx) : (modCtx s c f).stubs = s.stubs := rfl
@[simp] theorem modCtx_nextSave (s : State) (c : Nat) (f : Ctx → Ctx) : (modCtx s c f).nextSave = s.nextSave := rfl
@[simp] theorem modCtx_contracts (s : State) (c : Nat) (f : Ctx → Ctx) : (modCtx s c f).contracts = s.contracts := rfl
@[simp] theorem modCtx_frame (s : State) (c : Nat) (f : Ctx → Ctx) : (modCtx s c f).frame = s.frame := rfl
@[simp] theorem modCtx_buckets (s : State) (c : Nat) (f : Ctx → Ctx) : (modCtx s c f).buckets = s.buckets := rfl
@[simp] theorem modCtx_weights (s : State) (c : Nat) (f : Ctx → Ctx) : (modCtx s c f).weights = s.weights := rfl
@[simp] theorem modCtx_overhead (s : State) (c : Nat) (f : Ctx → Ctx) : (modCtx s c f).overhead = s.overhead := rfl
@[simp] theorem modCtx_pwrCap (s : State) (c : Nat) (f : Ctx → Ctx) : (modCtx s c f).pwrCap = s.pwrCap := rfl
@[simp] theorem modCtx_boost (s : State) (c : Nat) (f : Ctx → Ctx) : (modCtx s c f).boost = s.boost := rfl
@[simp] theorem modCtx_railsOff (s : State) (c : Nat) (f : Ctx → Ctx) : (modCtx s c f).railsOff = s.railsOff := rfl
@[simp] theorem modCtx_clusters (s : State) (c : Nat) (f : Ctx → Ctx) : (modCtx s c f).clusters = s.clusters := rfl
@[simp] theorem modCtx_xlate (s : State) (c : Nat) (f : Ctx → Ctx) : (modCtx s c f).xlate = s.xlate := rfl
@[simp] theorem modCtx_slices (s : State) (c : Nat) (f : Ctx → Ctx) : (modCtx s c f).slices = s.slices := rfl
@[simp] theorem modCtx_collectives (s : State) (c : Nat) (f : Ctx → Ctx) : (modCtx s c f).collectives = s.collectives := rfl
@[simp] theorem modCtx_relay (s : State) (c : Nat) (f : Ctx → Ctx) : (modCtx s c f).relay = s.relay := rfl
@[simp] theorem modCtx_mgmt (s : State) (c : Nat) (f : Ctx → Ctx) : (modCtx s c f).mgmt = s.mgmt := rfl
@[simp] theorem modCtx_ports (s : State) (c : Nat) (f : Ctx → Ctx) : (modCtx s c f).ports = s.ports := rfl
@[simp] theorem modCtx_msix (s : State) (c : Nat) (f : Ctx → Ctx) : (modCtx s c f).msix = s.msix := rfl
@[simp] theorem modCtx_pba (s : State) (c : Nat) (f : Ctx → Ctx) : (modCtx s c f).pba = s.pba := rfl
@[simp] theorem modCtx_aer (s : State) (c : Nat) (f : Ctx → Ctx) : (modCtx s c f).aer = s.aer := rfl
@[simp] theorem modCtx_fw (s : State) (c : Nat) (f : Ctx → Ctx) : (modCtx s c f).fw = s.fw := rfl
@[simp] theorem modCtx_dev (s : State) (c : Nat) (f : Ctx → Ctx) : (modCtx s c f).dev = s.dev := rfl
@[simp] theorem modCtx_host (s : State) (c : Nat) (f : Ctx → Ctx) : (modCtx s c f).host = s.host := rfl

/-! ### modCore -/

@[simp] theorem modCore_run (s : State) (n : Nat) (f : Core → Core) : (modCore s n f).run = s.run := rfl
@[simp] theorem modCore_out (s : State) (n : Nat) (f : Core → Core) : (modCore s n f).out = s.out := rfl
@[simp] theorem modCore_tick (s : State) (n : Nat) (f : Core → Core) : (modCore s n f).tick = s.tick := rfl
@[simp] theorem modCore_ctxs (s : State) (n : Nat) (f : Core → Core) : (modCore s n f).ctxs = s.ctxs := rfl
@[simp] theorem modCore_vnpus (s : State) (n : Nat) (f : Core → Core) : (modCore s n f).vnpus = s.vnpus := rfl
@[simp] theorem modCore_numVFs (s : State) (n : Nat) (f : Core → Core) : (modCore s n f).numVFs = s.numVFs := rfl
@[simp] theorem modCore_launches (s : State) (n : Nat) (f : Core → Core) : (modCore s n f).launches = s.launches := rfl
@[simp] theorem modCore_nextLaunch (s : State) (n : Nat) (f : Core → Core) : (modCore s n f).nextLaunch = s.nextLaunch := rfl
@[simp] theorem modCore_saves (s : State) (n : Nat) (f : Core → Core) : (modCore s n f).saves = s.saves := rfl
@[simp] theorem modCore_stubs (s : State) (n : Nat) (f : Core → Core) : (modCore s n f).stubs = s.stubs := rfl
@[simp] theorem modCore_nextSave (s : State) (n : Nat) (f : Core → Core) : (modCore s n f).nextSave = s.nextSave := rfl
@[simp] theorem modCore_contracts (s : State) (n : Nat) (f : Core → Core) : (modCore s n f).contracts = s.contracts := rfl
@[simp] theorem modCore_frame (s : State) (n : Nat) (f : Core → Core) : (modCore s n f).frame = s.frame := rfl
@[simp] theorem modCore_buckets (s : State) (n : Nat) (f : Core → Core) : (modCore s n f).buckets = s.buckets := rfl
@[simp] theorem modCore_weights (s : State) (n : Nat) (f : Core → Core) : (modCore s n f).weights = s.weights := rfl
@[simp] theorem modCore_overhead (s : State) (n : Nat) (f : Core → Core) : (modCore s n f).overhead = s.overhead := rfl
@[simp] theorem modCore_pwrCap (s : State) (n : Nat) (f : Core → Core) : (modCore s n f).pwrCap = s.pwrCap := rfl
@[simp] theorem modCore_boost (s : State) (n : Nat) (f : Core → Core) : (modCore s n f).boost = s.boost := rfl
@[simp] theorem modCore_railsOff (s : State) (n : Nat) (f : Core → Core) : (modCore s n f).railsOff = s.railsOff := rfl
@[simp] theorem modCore_clusters (s : State) (n : Nat) (f : Core → Core) : (modCore s n f).clusters = s.clusters := rfl
@[simp] theorem modCore_xlate (s : State) (n : Nat) (f : Core → Core) : (modCore s n f).xlate = s.xlate := rfl
@[simp] theorem modCore_slices (s : State) (n : Nat) (f : Core → Core) : (modCore s n f).slices = s.slices := rfl
@[simp] theorem modCore_collectives (s : State) (n : Nat) (f : Core → Core) : (modCore s n f).collectives = s.collectives := rfl
@[simp] theorem modCore_relay (s : State) (n : Nat) (f : Core → Core) : (modCore s n f).relay = s.relay := rfl
@[simp] theorem modCore_mgmt (s : State) (n : Nat) (f : Core → Core) : (modCore s n f).mgmt = s.mgmt := rfl
@[simp] theorem modCore_ports (s : State) (n : Nat) (f : Core → Core) : (modCore s n f).ports = s.ports := rfl
@[simp] theorem modCore_msix (s : State) (n : Nat) (f : Core → Core) : (modCore s n f).msix = s.msix := rfl
@[simp] theorem modCore_pba (s : State) (n : Nat) (f : Core → Core) : (modCore s n f).pba = s.pba := rfl
@[simp] theorem modCore_aer (s : State) (n : Nat) (f : Core → Core) : (modCore s n f).aer = s.aer := rfl
@[simp] theorem modCore_fw (s : State) (n : Nat) (f : Core → Core) : (modCore s n f).fw = s.fw := rfl
@[simp] theorem modCore_dev (s : State) (n : Nat) (f : Core → Core) : (modCore s n f).dev = s.dev := rfl
@[simp] theorem modCore_host (s : State) (n : Nat) (f : Core → Core) : (modCore s n f).host = s.host := rfl

/-! ### modVnpu -/

@[simp] theorem modVnpu_run (s : State) (v : Nat) (f : Vnpu → Vnpu) : (modVnpu s v f).run = s.run := rfl
@[simp] theorem modVnpu_out (s : State) (v : Nat) (f : Vnpu → Vnpu) : (modVnpu s v f).out = s.out := rfl
@[simp] theorem modVnpu_tick (s : State) (v : Nat) (f : Vnpu → Vnpu) : (modVnpu s v f).tick = s.tick := rfl
@[simp] theorem modVnpu_ctxs (s : State) (v : Nat) (f : Vnpu → Vnpu) : (modVnpu s v f).ctxs = s.ctxs := rfl
@[simp] theorem modVnpu_cores (s : State) (v : Nat) (f : Vnpu → Vnpu) : (modVnpu s v f).cores = s.cores := rfl
@[simp] theorem modVnpu_numVFs (s : State) (v : Nat) (f : Vnpu → Vnpu) : (modVnpu s v f).numVFs = s.numVFs := rfl
@[simp] theorem modVnpu_launches (s : State) (v : Nat) (f : Vnpu → Vnpu) : (modVnpu s v f).launches = s.launches := rfl
@[simp] theorem modVnpu_nextLaunch (s : State) (v : Nat) (f : Vnpu → Vnpu) : (modVnpu s v f).nextLaunch = s.nextLaunch := rfl
@[simp] theorem modVnpu_saves (s : State) (v : Nat) (f : Vnpu → Vnpu) : (modVnpu s v f).saves = s.saves := rfl
@[simp] theorem modVnpu_stubs (s : State) (v : Nat) (f : Vnpu → Vnpu) : (modVnpu s v f).stubs = s.stubs := rfl
@[simp] theorem modVnpu_nextSave (s : State) (v : Nat) (f : Vnpu → Vnpu) : (modVnpu s v f).nextSave = s.nextSave := rfl
@[simp] theorem modVnpu_contracts (s : State) (v : Nat) (f : Vnpu → Vnpu) : (modVnpu s v f).contracts = s.contracts := rfl
@[simp] theorem modVnpu_frame (s : State) (v : Nat) (f : Vnpu → Vnpu) : (modVnpu s v f).frame = s.frame := rfl
@[simp] theorem modVnpu_buckets (s : State) (v : Nat) (f : Vnpu → Vnpu) : (modVnpu s v f).buckets = s.buckets := rfl
@[simp] theorem modVnpu_weights (s : State) (v : Nat) (f : Vnpu → Vnpu) : (modVnpu s v f).weights = s.weights := rfl
@[simp] theorem modVnpu_overhead (s : State) (v : Nat) (f : Vnpu → Vnpu) : (modVnpu s v f).overhead = s.overhead := rfl
@[simp] theorem modVnpu_pwrCap (s : State) (v : Nat) (f : Vnpu → Vnpu) : (modVnpu s v f).pwrCap = s.pwrCap := rfl
@[simp] theorem modVnpu_boost (s : State) (v : Nat) (f : Vnpu → Vnpu) : (modVnpu s v f).boost = s.boost := rfl
@[simp] theorem modVnpu_railsOff (s : State) (v : Nat) (f : Vnpu → Vnpu) : (modVnpu s v f).railsOff = s.railsOff := rfl
@[simp] theorem modVnpu_clusters (s : State) (v : Nat) (f : Vnpu → Vnpu) : (modVnpu s v f).clusters = s.clusters := rfl
@[simp] theorem modVnpu_xlate (s : State) (v : Nat) (f : Vnpu → Vnpu) : (modVnpu s v f).xlate = s.xlate := rfl
@[simp] theorem modVnpu_slices (s : State) (v : Nat) (f : Vnpu → Vnpu) : (modVnpu s v f).slices = s.slices := rfl
@[simp] theorem modVnpu_collectives (s : State) (v : Nat) (f : Vnpu → Vnpu) : (modVnpu s v f).collectives = s.collectives := rfl
@[simp] theorem modVnpu_relay (s : State) (v : Nat) (f : Vnpu → Vnpu) : (modVnpu s v f).relay = s.relay := rfl
@[simp] theorem modVnpu_mgmt (s : State) (v : Nat) (f : Vnpu → Vnpu) : (modVnpu s v f).mgmt = s.mgmt := rfl
@[simp] theorem modVnpu_ports (s : State) (v : Nat) (f : Vnpu → Vnpu) : (modVnpu s v f).ports = s.ports := rfl
@[simp] theorem modVnpu_msix (s : State) (v : Nat) (f : Vnpu → Vnpu) : (modVnpu s v f).msix = s.msix := rfl
@[simp] theorem modVnpu_pba (s : State) (v : Nat) (f : Vnpu → Vnpu) : (modVnpu s v f).pba = s.pba := rfl
@[simp] theorem modVnpu_aer (s : State) (v : Nat) (f : Vnpu → Vnpu) : (modVnpu s v f).aer = s.aer := rfl
@[simp] theorem modVnpu_fw (s : State) (v : Nat) (f : Vnpu → Vnpu) : (modVnpu s v f).fw = s.fw := rfl
@[simp] theorem modVnpu_dev (s : State) (v : Nat) (f : Vnpu → Vnpu) : (modVnpu s v f).dev = s.dev := rfl
@[simp] theorem modVnpu_host (s : State) (v : Nat) (f : Vnpu → Vnpu) : (modVnpu s v f).host = s.host := rfl

/-! ### modCluster -/

@[simp] theorem modCluster_run (s : State) (k : Nat) (f : Cluster → Cluster) : (modCluster s k f).run = s.run := rfl
@[simp] theorem modCluster_out (s : State) (k : Nat) (f : Cluster → Cluster) : (modCluster s k f).out = s.out := rfl
@[simp] theorem modCluster_tick (s : State) (k : Nat) (f : Cluster → Cluster) : (modCluster s k f).tick = s.tick := rfl
@[simp] theorem modCluster_ctxs (s : State) (k : Nat) (f : Cluster → Cluster) : (modCluster s k f).ctxs = s.ctxs := rfl
@[simp] theorem modCluster_cores (s : State) (k : Nat) (f : Cluster → Cluster) : (modCluster s k f).cores = s.cores := rfl
@[simp] theorem modCluster_vnpus (s : State) (k : Nat) (f : Cluster → Cluster) : (modCluster s k f).vnpus = s.vnpus := rfl
@[simp] theorem modCluster_numVFs (s : State) (k : Nat) (f : Cluster → Cluster) : (modCluster s k f).numVFs = s.numVFs := rfl
@[simp] theorem modCluster_launches (s : State) (k : Nat) (f : Cluster → Cluster) : (modCluster s k f).launches = s.launches := rfl
@[simp] theorem modCluster_nextLaunch (s : State) (k : Nat) (f : Cluster → Cluster) : (modCluster s k f).nextLaunch = s.nextLaunch := rfl
@[simp] theorem modCluster_saves (s : State) (k : Nat) (f : Cluster → Cluster) : (modCluster s k f).saves = s.saves := rfl
@[simp] theorem modCluster_stubs (s : State) (k : Nat) (f : Cluster → Cluster) : (modCluster s k f).stubs = s.stubs := rfl
@[simp] theorem modCluster_nextSave (s : State) (k : Nat) (f : Cluster → Cluster) : (modCluster s k f).nextSave = s.nextSave := rfl
@[simp] theorem modCluster_contracts (s : State) (k : Nat) (f : Cluster → Cluster) : (modCluster s k f).contracts = s.contracts := rfl
@[simp] theorem modCluster_frame (s : State) (k : Nat) (f : Cluster → Cluster) : (modCluster s k f).frame = s.frame := rfl
@[simp] theorem modCluster_buckets (s : State) (k : Nat) (f : Cluster → Cluster) : (modCluster s k f).buckets = s.buckets := rfl
@[simp] theorem modCluster_weights (s : State) (k : Nat) (f : Cluster → Cluster) : (modCluster s k f).weights = s.weights := rfl
@[simp] theorem modCluster_overhead (s : State) (k : Nat) (f : Cluster → Cluster) : (modCluster s k f).overhead = s.overhead := rfl
@[simp] theorem modCluster_pwrCap (s : State) (k : Nat) (f : Cluster → Cluster) : (modCluster s k f).pwrCap = s.pwrCap := rfl
@[simp] theorem modCluster_boost (s : State) (k : Nat) (f : Cluster → Cluster) : (modCluster s k f).boost = s.boost := rfl
@[simp] theorem modCluster_railsOff (s : State) (k : Nat) (f : Cluster → Cluster) : (modCluster s k f).railsOff = s.railsOff := rfl
@[simp] theorem modCluster_xlate (s : State) (k : Nat) (f : Cluster → Cluster) : (modCluster s k f).xlate = s.xlate := rfl
@[simp] theorem modCluster_slices (s : State) (k : Nat) (f : Cluster → Cluster) : (modCluster s k f).slices = s.slices := rfl
@[simp] theorem modCluster_collectives (s : State) (k : Nat) (f : Cluster → Cluster) : (modCluster s k f).collectives = s.collectives := rfl
@[simp] theorem modCluster_relay (s : State) (k : Nat) (f : Cluster → Cluster) : (modCluster s k f).relay = s.relay := rfl
@[simp] theorem modCluster_mgmt (s : State) (k : Nat) (f : Cluster → Cluster) : (modCluster s k f).mgmt = s.mgmt := rfl
@[simp] theorem modCluster_ports (s : State) (k : Nat) (f : Cluster → Cluster) : (modCluster s k f).ports = s.ports := rfl
@[simp] theorem modCluster_msix (s : State) (k : Nat) (f : Cluster → Cluster) : (modCluster s k f).msix = s.msix := rfl
@[simp] theorem modCluster_pba (s : State) (k : Nat) (f : Cluster → Cluster) : (modCluster s k f).pba = s.pba := rfl
@[simp] theorem modCluster_aer (s : State) (k : Nat) (f : Cluster → Cluster) : (modCluster s k f).aer = s.aer := rfl
@[simp] theorem modCluster_fw (s : State) (k : Nat) (f : Cluster → Cluster) : (modCluster s k f).fw = s.fw := rfl
@[simp] theorem modCluster_dev (s : State) (k : Nat) (f : Cluster → Cluster) : (modCluster s k f).dev = s.dev := rfl
@[simp] theorem modCluster_host (s : State) (k : Nat) (f : Cluster → Cluster) : (modCluster s k f).host = s.host := rfl

/-! ### modPort -/

@[simp] theorem modPort_run (s : State) (p : Nat) (f : Port → Port) : (modPort s p f).run = s.run := rfl
@[simp] theorem modPort_out (s : State) (p : Nat) (f : Port → Port) : (modPort s p f).out = s.out := rfl
@[simp] theorem modPort_tick (s : State) (p : Nat) (f : Port → Port) : (modPort s p f).tick = s.tick := rfl
@[simp] theorem modPort_ctxs (s : State) (p : Nat) (f : Port → Port) : (modPort s p f).ctxs = s.ctxs := rfl
@[simp] theorem modPort_cores (s : State) (p : Nat) (f : Port → Port) : (modPort s p f).cores = s.cores := rfl
@[simp] theorem modPort_vnpus (s : State) (p : Nat) (f : Port → Port) : (modPort s p f).vnpus = s.vnpus := rfl
@[simp] theorem modPort_numVFs (s : State) (p : Nat) (f : Port → Port) : (modPort s p f).numVFs = s.numVFs := rfl
@[simp] theorem modPort_launches (s : State) (p : Nat) (f : Port → Port) : (modPort s p f).launches = s.launches := rfl
@[simp] theorem modPort_nextLaunch (s : State) (p : Nat) (f : Port → Port) : (modPort s p f).nextLaunch = s.nextLaunch := rfl
@[simp] theorem modPort_saves (s : State) (p : Nat) (f : Port → Port) : (modPort s p f).saves = s.saves := rfl
@[simp] theorem modPort_stubs (s : State) (p : Nat) (f : Port → Port) : (modPort s p f).stubs = s.stubs := rfl
@[simp] theorem modPort_nextSave (s : State) (p : Nat) (f : Port → Port) : (modPort s p f).nextSave = s.nextSave := rfl
@[simp] theorem modPort_contracts (s : State) (p : Nat) (f : Port → Port) : (modPort s p f).contracts = s.contracts := rfl
@[simp] theorem modPort_frame (s : State) (p : Nat) (f : Port → Port) : (modPort s p f).frame = s.frame := rfl
@[simp] theorem modPort_buckets (s : State) (p : Nat) (f : Port → Port) : (modPort s p f).buckets = s.buckets := rfl
@[simp] theorem modPort_weights (s : State) (p : Nat) (f : Port → Port) : (modPort s p f).weights = s.weights := rfl
@[simp] theorem modPort_overhead (s : State) (p : Nat) (f : Port → Port) : (modPort s p f).overhead = s.overhead := rfl
@[simp] theorem modPort_pwrCap (s : State) (p : Nat) (f : Port → Port) : (modPort s p f).pwrCap = s.pwrCap := rfl
@[simp] theorem modPort_boost (s : State) (p : Nat) (f : Port → Port) : (modPort s p f).boost = s.boost := rfl
@[simp] theorem modPort_railsOff (s : State) (p : Nat) (f : Port → Port) : (modPort s p f).railsOff = s.railsOff := rfl
@[simp] theorem modPort_clusters (s : State) (p : Nat) (f : Port → Port) : (modPort s p f).clusters = s.clusters := rfl
@[simp] theorem modPort_xlate (s : State) (p : Nat) (f : Port → Port) : (modPort s p f).xlate = s.xlate := rfl
@[simp] theorem modPort_slices (s : State) (p : Nat) (f : Port → Port) : (modPort s p f).slices = s.slices := rfl
@[simp] theorem modPort_collectives (s : State) (p : Nat) (f : Port → Port) : (modPort s p f).collectives = s.collectives := rfl
@[simp] theorem modPort_relay (s : State) (p : Nat) (f : Port → Port) : (modPort s p f).relay = s.relay := rfl
@[simp] theorem modPort_mgmt (s : State) (p : Nat) (f : Port → Port) : (modPort s p f).mgmt = s.mgmt := rfl
@[simp] theorem modPort_msix (s : State) (p : Nat) (f : Port → Port) : (modPort s p f).msix = s.msix := rfl
@[simp] theorem modPort_pba (s : State) (p : Nat) (f : Port → Port) : (modPort s p f).pba = s.pba := rfl
@[simp] theorem modPort_aer (s : State) (p : Nat) (f : Port → Port) : (modPort s p f).aer = s.aer := rfl
@[simp] theorem modPort_fw (s : State) (p : Nat) (f : Port → Port) : (modPort s p f).fw = s.fw := rfl
@[simp] theorem modPort_dev (s : State) (p : Nat) (f : Port → Port) : (modPort s p f).dev = s.dev := rfl
@[simp] theorem modPort_host (s : State) (p : Nat) (f : Port → Port) : (modPort s p f).host = s.host := rfl

/-! ### modMgmt -/

@[simp] theorem modMgmt_run (s : State) (f : Mgmt → Mgmt) : (modMgmt s f).run = s.run := rfl
@[simp] theorem modMgmt_out (s : State) (f : Mgmt → Mgmt) : (modMgmt s f).out = s.out := rfl
@[simp] theorem modMgmt_tick (s : State) (f : Mgmt → Mgmt) : (modMgmt s f).tick = s.tick := rfl
@[simp] theorem modMgmt_ctxs (s : State) (f : Mgmt → Mgmt) : (modMgmt s f).ctxs = s.ctxs := rfl
@[simp] theorem modMgmt_cores (s : State) (f : Mgmt → Mgmt) : (modMgmt s f).cores = s.cores := rfl
@[simp] theorem modMgmt_vnpus (s : State) (f : Mgmt → Mgmt) : (modMgmt s f).vnpus = s.vnpus := rfl
@[simp] theorem modMgmt_numVFs (s : State) (f : Mgmt → Mgmt) : (modMgmt s f).numVFs = s.numVFs := rfl
@[simp] theorem modMgmt_launches (s : State) (f : Mgmt → Mgmt) : (modMgmt s f).launches = s.launches := rfl
@[simp] theorem modMgmt_nextLaunch (s : State) (f : Mgmt → Mgmt) : (modMgmt s f).nextLaunch = s.nextLaunch := rfl
@[simp] theorem modMgmt_saves (s : State) (f : Mgmt → Mgmt) : (modMgmt s f).saves = s.saves := rfl
@[simp] theorem modMgmt_stubs (s : State) (f : Mgmt → Mgmt) : (modMgmt s f).stubs = s.stubs := rfl
@[simp] theorem modMgmt_nextSave (s : State) (f : Mgmt → Mgmt) : (modMgmt s f).nextSave = s.nextSave := rfl
@[simp] theorem modMgmt_contracts (s : State) (f : Mgmt → Mgmt) : (modMgmt s f).contracts = s.contracts := rfl
@[simp] theorem modMgmt_frame (s : State) (f : Mgmt → Mgmt) : (modMgmt s f).frame = s.frame := rfl
@[simp] theorem modMgmt_buckets (s : State) (f : Mgmt → Mgmt) : (modMgmt s f).buckets = s.buckets := rfl
@[simp] theorem modMgmt_weights (s : State) (f : Mgmt → Mgmt) : (modMgmt s f).weights = s.weights := rfl
@[simp] theorem modMgmt_overhead (s : State) (f : Mgmt → Mgmt) : (modMgmt s f).overhead = s.overhead := rfl
@[simp] theorem modMgmt_pwrCap (s : State) (f : Mgmt → Mgmt) : (modMgmt s f).pwrCap = s.pwrCap := rfl
@[simp] theorem modMgmt_boost (s : State) (f : Mgmt → Mgmt) : (modMgmt s f).boost = s.boost := rfl
@[simp] theorem modMgmt_railsOff (s : State) (f : Mgmt → Mgmt) : (modMgmt s f).railsOff = s.railsOff := rfl
@[simp] theorem modMgmt_clusters (s : State) (f : Mgmt → Mgmt) : (modMgmt s f).clusters = s.clusters := rfl
@[simp] theorem modMgmt_xlate (s : State) (f : Mgmt → Mgmt) : (modMgmt s f).xlate = s.xlate := rfl
@[simp] theorem modMgmt_slices (s : State) (f : Mgmt → Mgmt) : (modMgmt s f).slices = s.slices := rfl
@[simp] theorem modMgmt_collectives (s : State) (f : Mgmt → Mgmt) : (modMgmt s f).collectives = s.collectives := rfl
@[simp] theorem modMgmt_relay (s : State) (f : Mgmt → Mgmt) : (modMgmt s f).relay = s.relay := rfl
@[simp] theorem modMgmt_ports (s : State) (f : Mgmt → Mgmt) : (modMgmt s f).ports = s.ports := rfl
@[simp] theorem modMgmt_msix (s : State) (f : Mgmt → Mgmt) : (modMgmt s f).msix = s.msix := rfl
@[simp] theorem modMgmt_pba (s : State) (f : Mgmt → Mgmt) : (modMgmt s f).pba = s.pba := rfl
@[simp] theorem modMgmt_aer (s : State) (f : Mgmt → Mgmt) : (modMgmt s f).aer = s.aer := rfl
@[simp] theorem modMgmt_fw (s : State) (f : Mgmt → Mgmt) : (modMgmt s f).fw = s.fw := rfl
@[simp] theorem modMgmt_dev (s : State) (f : Mgmt → Mgmt) : (modMgmt s f).dev = s.dev := rfl
@[simp] theorem modMgmt_host (s : State) (f : Mgmt → Mgmt) : (modMgmt s f).host = s.host := rfl

/-! ### modFw -/

@[simp] theorem modFw_run (s : State) (f : Firmware → Firmware) : (modFw s f).run = s.run := rfl
@[simp] theorem modFw_out (s : State) (f : Firmware → Firmware) : (modFw s f).out = s.out := rfl
@[simp] theorem modFw_tick (s : State) (f : Firmware → Firmware) : (modFw s f).tick = s.tick := rfl
@[simp] theorem modFw_ctxs (s : State) (f : Firmware → Firmware) : (modFw s f).ctxs = s.ctxs := rfl
@[simp] theorem modFw_cores (s : State) (f : Firmware → Firmware) : (modFw s f).cores = s.cores := rfl
@[simp] theorem modFw_vnpus (s : State) (f : Firmware → Firmware) : (modFw s f).vnpus = s.vnpus := rfl
@[simp] theorem modFw_numVFs (s : State) (f : Firmware → Firmware) : (modFw s f).numVFs = s.numVFs := rfl
@[simp] theorem modFw_launches (s : State) (f : Firmware → Firmware) : (modFw s f).launches = s.launches := rfl
@[simp] theorem modFw_nextLaunch (s : State) (f : Firmware → Firmware) : (modFw s f).nextLaunch = s.nextLaunch := rfl
@[simp] theorem modFw_saves (s : State) (f : Firmware → Firmware) : (modFw s f).saves = s.saves := rfl
@[simp] theorem modFw_stubs (s : State) (f : Firmware → Firmware) : (modFw s f).stubs = s.stubs := rfl
@[simp] theorem modFw_nextSave (s : State) (f : Firmware → Firmware) : (modFw s f).nextSave = s.nextSave := rfl
@[simp] theorem modFw_contracts (s : State) (f : Firmware → Firmware) : (modFw s f).contracts = s.contracts := rfl
@[simp] theorem modFw_frame (s : State) (f : Firmware → Firmware) : (modFw s f).frame = s.frame := rfl
@[simp] theorem modFw_buckets (s : State) (f : Firmware → Firmware) : (modFw s f).buckets = s.buckets := rfl
@[simp] theorem modFw_weights (s : State) (f : Firmware → Firmware) : (modFw s f).weights = s.weights := rfl
@[simp] theorem modFw_overhead (s : State) (f : Firmware → Firmware) : (modFw s f).overhead = s.overhead := rfl
@[simp] theorem modFw_pwrCap (s : State) (f : Firmware → Firmware) : (modFw s f).pwrCap = s.pwrCap := rfl
@[simp] theorem modFw_boost (s : State) (f : Firmware → Firmware) : (modFw s f).boost = s.boost := rfl
@[simp] theorem modFw_railsOff (s : State) (f : Firmware → Firmware) : (modFw s f).railsOff = s.railsOff := rfl
@[simp] theorem modFw_clusters (s : State) (f : Firmware → Firmware) : (modFw s f).clusters = s.clusters := rfl
@[simp] theorem modFw_xlate (s : State) (f : Firmware → Firmware) : (modFw s f).xlate = s.xlate := rfl
@[simp] theorem modFw_slices (s : State) (f : Firmware → Firmware) : (modFw s f).slices = s.slices := rfl
@[simp] theorem modFw_collectives (s : State) (f : Firmware → Firmware) : (modFw s f).collectives = s.collectives := rfl
@[simp] theorem modFw_relay (s : State) (f : Firmware → Firmware) : (modFw s f).relay = s.relay := rfl
@[simp] theorem modFw_mgmt (s : State) (f : Firmware → Firmware) : (modFw s f).mgmt = s.mgmt := rfl
@[simp] theorem modFw_ports (s : State) (f : Firmware → Firmware) : (modFw s f).ports = s.ports := rfl
@[simp] theorem modFw_msix (s : State) (f : Firmware → Firmware) : (modFw s f).msix = s.msix := rfl
@[simp] theorem modFw_pba (s : State) (f : Firmware → Firmware) : (modFw s f).pba = s.pba := rfl
@[simp] theorem modFw_aer (s : State) (f : Firmware → Firmware) : (modFw s f).aer = s.aer := rfl
@[simp] theorem modFw_dev (s : State) (f : Firmware → Firmware) : (modFw s f).dev = s.dev := rfl
@[simp] theorem modFw_host (s : State) (f : Firmware → Firmware) : (modFw s f).host = s.host := rfl

/-! ### modFrame -/

@[simp] theorem modFrame_run (s : State) (f : Frame → Frame) : (modFrame s f).run = s.run := rfl
@[simp] theorem modFrame_out (s : State) (f : Frame → Frame) : (modFrame s f).out = s.out := rfl
@[simp] theorem modFrame_tick (s : State) (f : Frame → Frame) : (modFrame s f).tick = s.tick := rfl
@[simp] theorem modFrame_ctxs (s : State) (f : Frame → Frame) : (modFrame s f).ctxs = s.ctxs := rfl
@[simp] theorem modFrame_cores (s : State) (f : Frame → Frame) : (modFrame s f).cores = s.cores := rfl
@[simp] theorem modFrame_vnpus (s : State) (f : Frame → Frame) : (modFrame s f).vnpus = s.vnpus := rfl
@[simp] theorem modFrame_numVFs (s : State) (f : Frame → Frame) : (modFrame s f).numVFs = s.numVFs := rfl
@[simp] theorem modFrame_launches (s : State) (f : Frame → Frame) : (modFrame s f).launches = s.launches := rfl
@[simp] theorem modFrame_nextLaunch (s : State) (f : Frame → Frame) : (modFrame s f).nextLaunch = s.nextLaunch := rfl
@[simp] theorem modFrame_saves (s : State) (f : Frame → Frame) : (modFrame s f).saves = s.saves := rfl
@[simp] theorem modFrame_stubs (s : State) (f : Frame → Frame) : (modFrame s f).stubs = s.stubs := rfl
@[simp] theorem modFrame_nextSave (s : State) (f : Frame → Frame) : (modFrame s f).nextSave = s.nextSave := rfl
@[simp] theorem modFrame_contracts (s : State) (f : Frame → Frame) : (modFrame s f).contracts = s.contracts := rfl
@[simp] theorem modFrame_buckets (s : State) (f : Frame → Frame) : (modFrame s f).buckets = s.buckets := rfl
@[simp] theorem modFrame_weights (s : State) (f : Frame → Frame) : (modFrame s f).weights = s.weights := rfl
@[simp] theorem modFrame_overhead (s : State) (f : Frame → Frame) : (modFrame s f).overhead = s.overhead := rfl
@[simp] theorem modFrame_pwrCap (s : State) (f : Frame → Frame) : (modFrame s f).pwrCap = s.pwrCap := rfl
@[simp] theorem modFrame_boost (s : State) (f : Frame → Frame) : (modFrame s f).boost = s.boost := rfl
@[simp] theorem modFrame_railsOff (s : State) (f : Frame → Frame) : (modFrame s f).railsOff = s.railsOff := rfl
@[simp] theorem modFrame_clusters (s : State) (f : Frame → Frame) : (modFrame s f).clusters = s.clusters := rfl
@[simp] theorem modFrame_xlate (s : State) (f : Frame → Frame) : (modFrame s f).xlate = s.xlate := rfl
@[simp] theorem modFrame_slices (s : State) (f : Frame → Frame) : (modFrame s f).slices = s.slices := rfl
@[simp] theorem modFrame_collectives (s : State) (f : Frame → Frame) : (modFrame s f).collectives = s.collectives := rfl
@[simp] theorem modFrame_relay (s : State) (f : Frame → Frame) : (modFrame s f).relay = s.relay := rfl
@[simp] theorem modFrame_mgmt (s : State) (f : Frame → Frame) : (modFrame s f).mgmt = s.mgmt := rfl
@[simp] theorem modFrame_ports (s : State) (f : Frame → Frame) : (modFrame s f).ports = s.ports := rfl
@[simp] theorem modFrame_msix (s : State) (f : Frame → Frame) : (modFrame s f).msix = s.msix := rfl
@[simp] theorem modFrame_pba (s : State) (f : Frame → Frame) : (modFrame s f).pba = s.pba := rfl
@[simp] theorem modFrame_aer (s : State) (f : Frame → Frame) : (modFrame s f).aer = s.aer := rfl
@[simp] theorem modFrame_fw (s : State) (f : Frame → Frame) : (modFrame s f).fw = s.fw := rfl
@[simp] theorem modFrame_dev (s : State) (f : Frame → Frame) : (modFrame s f).dev = s.dev := rfl
@[simp] theorem modFrame_host (s : State) (f : Frame → Frame) : (modFrame s f).host = s.host := rfl

/-! ### modXlate -/

@[simp] theorem modXlate_run (s : State) (f : Xlate → Xlate) : (modXlate s f).run = s.run := rfl
@[simp] theorem modXlate_out (s : State) (f : Xlate → Xlate) : (modXlate s f).out = s.out := rfl
@[simp] theorem modXlate_tick (s : State) (f : Xlate → Xlate) : (modXlate s f).tick = s.tick := rfl
@[simp] theorem modXlate_ctxs (s : State) (f : Xlate → Xlate) : (modXlate s f).ctxs = s.ctxs := rfl
@[simp] theorem modXlate_cores (s : State) (f : Xlate → Xlate) : (modXlate s f).cores = s.cores := rfl
@[simp] theorem modXlate_vnpus (s : State) (f : Xlate → Xlate) : (modXlate s f).vnpus = s.vnpus := rfl
@[simp] theorem modXlate_numVFs (s : State) (f : Xlate → Xlate) : (modXlate s f).numVFs = s.numVFs := rfl
@[simp] theorem modXlate_launches (s : State) (f : Xlate → Xlate) : (modXlate s f).launches = s.launches := rfl
@[simp] theorem modXlate_nextLaunch (s : State) (f : Xlate → Xlate) : (modXlate s f).nextLaunch = s.nextLaunch := rfl
@[simp] theorem modXlate_saves (s : State) (f : Xlate → Xlate) : (modXlate s f).saves = s.saves := rfl
@[simp] theorem modXlate_stubs (s : State) (f : Xlate → Xlate) : (modXlate s f).stubs = s.stubs := rfl
@[simp] theorem modXlate_nextSave (s : State) (f : Xlate → Xlate) : (modXlate s f).nextSave = s.nextSave := rfl
@[simp] theorem modXlate_contracts (s : State) (f : Xlate → Xlate) : (modXlate s f).contracts = s.contracts := rfl
@[simp] theorem modXlate_frame (s : State) (f : Xlate → Xlate) : (modXlate s f).frame = s.frame := rfl
@[simp] theorem modXlate_buckets (s : State) (f : Xlate → Xlate) : (modXlate s f).buckets = s.buckets := rfl
@[simp] theorem modXlate_weights (s : State) (f : Xlate → Xlate) : (modXlate s f).weights = s.weights := rfl
@[simp] theorem modXlate_overhead (s : State) (f : Xlate → Xlate) : (modXlate s f).overhead = s.overhead := rfl
@[simp] theorem modXlate_pwrCap (s : State) (f : Xlate → Xlate) : (modXlate s f).pwrCap = s.pwrCap := rfl
@[simp] theorem modXlate_boost (s : State) (f : Xlate → Xlate) : (modXlate s f).boost = s.boost := rfl
@[simp] theorem modXlate_railsOff (s : State) (f : Xlate → Xlate) : (modXlate s f).railsOff = s.railsOff := rfl
@[simp] theorem modXlate_clusters (s : State) (f : Xlate → Xlate) : (modXlate s f).clusters = s.clusters := rfl
@[simp] theorem modXlate_slices (s : State) (f : Xlate → Xlate) : (modXlate s f).slices = s.slices := rfl
@[simp] theorem modXlate_collectives (s : State) (f : Xlate → Xlate) : (modXlate s f).collectives = s.collectives := rfl
@[simp] theorem modXlate_relay (s : State) (f : Xlate → Xlate) : (modXlate s f).relay = s.relay := rfl
@[simp] theorem modXlate_mgmt (s : State) (f : Xlate → Xlate) : (modXlate s f).mgmt = s.mgmt := rfl
@[simp] theorem modXlate_ports (s : State) (f : Xlate → Xlate) : (modXlate s f).ports = s.ports := rfl
@[simp] theorem modXlate_msix (s : State) (f : Xlate → Xlate) : (modXlate s f).msix = s.msix := rfl
@[simp] theorem modXlate_pba (s : State) (f : Xlate → Xlate) : (modXlate s f).pba = s.pba := rfl
@[simp] theorem modXlate_aer (s : State) (f : Xlate → Xlate) : (modXlate s f).aer = s.aer := rfl
@[simp] theorem modXlate_fw (s : State) (f : Xlate → Xlate) : (modXlate s f).fw = s.fw := rfl
@[simp] theorem modXlate_dev (s : State) (f : Xlate → Xlate) : (modXlate s f).dev = s.dev := rfl
@[simp] theorem modXlate_host (s : State) (f : Xlate → Xlate) : (modXlate s f).host = s.host := rfl

/-! ### modContracts -/

@[simp] theorem modContracts_run (s : State) (f : Contracts → Contracts) : (modContracts s f).run = s.run := rfl
@[simp] theorem modContracts_out (s : State) (f : Contracts → Contracts) : (modContracts s f).out = s.out := rfl
@[simp] theorem modContracts_tick (s : State) (f : Contracts → Contracts) : (modContracts s f).tick = s.tick := rfl
@[simp] theorem modContracts_ctxs (s : State) (f : Contracts → Contracts) : (modContracts s f).ctxs = s.ctxs := rfl
@[simp] theorem modContracts_cores (s : State) (f : Contracts → Contracts) : (modContracts s f).cores = s.cores := rfl
@[simp] theorem modContracts_vnpus (s : State) (f : Contracts → Contracts) : (modContracts s f).vnpus = s.vnpus := rfl
@[simp] theorem modContracts_numVFs (s : State) (f : Contracts → Contracts) : (modContracts s f).numVFs = s.numVFs := rfl
@[simp] theorem modContracts_launches (s : State) (f : Contracts → Contracts) : (modContracts s f).launches = s.launches := rfl
@[simp] theorem modContracts_nextLaunch (s : State) (f : Contracts → Contracts) : (modContracts s f).nextLaunch = s.nextLaunch := rfl
@[simp] theorem modContracts_saves (s : State) (f : Contracts → Contracts) : (modContracts s f).saves = s.saves := rfl
@[simp] theorem modContracts_stubs (s : State) (f : Contracts → Contracts) : (modContracts s f).stubs = s.stubs := rfl
@[simp] theorem modContracts_nextSave (s : State) (f : Contracts → Contracts) : (modContracts s f).nextSave = s.nextSave := rfl
@[simp] theorem modContracts_frame (s : State) (f : Contracts → Contracts) : (modContracts s f).frame = s.frame := rfl
@[simp] theorem modContracts_buckets (s : State) (f : Contracts → Contracts) : (modContracts s f).buckets = s.buckets := rfl
@[simp] theorem modContracts_weights (s : State) (f : Contracts → Contracts) : (modContracts s f).weights = s.weights := rfl
@[simp] theorem modContracts_overhead (s : State) (f : Contracts → Contracts) : (modContracts s f).overhead = s.overhead := rfl
@[simp] theorem modContracts_pwrCap (s : State) (f : Contracts → Contracts) : (modContracts s f).pwrCap = s.pwrCap := rfl
@[simp] theorem modContracts_boost (s : State) (f : Contracts → Contracts) : (modContracts s f).boost = s.boost := rfl
@[simp] theorem modContracts_railsOff (s : State) (f : Contracts → Contracts) : (modContracts s f).railsOff = s.railsOff := rfl
@[simp] theorem modContracts_clusters (s : State) (f : Contracts → Contracts) : (modContracts s f).clusters = s.clusters := rfl
@[simp] theorem modContracts_xlate (s : State) (f : Contracts → Contracts) : (modContracts s f).xlate = s.xlate := rfl
@[simp] theorem modContracts_slices (s : State) (f : Contracts → Contracts) : (modContracts s f).slices = s.slices := rfl
@[simp] theorem modContracts_collectives (s : State) (f : Contracts → Contracts) : (modContracts s f).collectives = s.collectives := rfl
@[simp] theorem modContracts_relay (s : State) (f : Contracts → Contracts) : (modContracts s f).relay = s.relay := rfl
@[simp] theorem modContracts_mgmt (s : State) (f : Contracts → Contracts) : (modContracts s f).mgmt = s.mgmt := rfl
@[simp] theorem modContracts_ports (s : State) (f : Contracts → Contracts) : (modContracts s f).ports = s.ports := rfl
@[simp] theorem modContracts_msix (s : State) (f : Contracts → Contracts) : (modContracts s f).msix = s.msix := rfl
@[simp] theorem modContracts_pba (s : State) (f : Contracts → Contracts) : (modContracts s f).pba = s.pba := rfl
@[simp] theorem modContracts_aer (s : State) (f : Contracts → Contracts) : (modContracts s f).aer = s.aer := rfl
@[simp] theorem modContracts_fw (s : State) (f : Contracts → Contracts) : (modContracts s f).fw = s.fw := rfl
@[simp] theorem modContracts_dev (s : State) (f : Contracts → Contracts) : (modContracts s f).dev = s.dev := rfl
@[simp] theorem modContracts_host (s : State) (f : Contracts → Contracts) : (modContracts s f).host = s.host := rfl

/-! ### post -/

@[simp] theorem post_out (s : State) (i : Instr) : (post s i).out = s.out := rfl
@[simp] theorem post_tick (s : State) (i : Instr) : (post s i).tick = s.tick := rfl
@[simp] theorem post_ctxs (s : State) (i : Instr) : (post s i).ctxs = s.ctxs := rfl
@[simp] theorem post_cores (s : State) (i : Instr) : (post s i).cores = s.cores := rfl
@[simp] theorem post_vnpus (s : State) (i : Instr) : (post s i).vnpus = s.vnpus := rfl
@[simp] theorem post_numVFs (s : State) (i : Instr) : (post s i).numVFs = s.numVFs := rfl
@[simp] theorem post_launches (s : State) (i : Instr) : (post s i).launches = s.launches := rfl
@[simp] theorem post_nextLaunch (s : State) (i : Instr) : (post s i).nextLaunch = s.nextLaunch := rfl
@[simp] theorem post_saves (s : State) (i : Instr) : (post s i).saves = s.saves := rfl
@[simp] theorem post_stubs (s : State) (i : Instr) : (post s i).stubs = s.stubs := rfl
@[simp] theorem post_nextSave (s : State) (i : Instr) : (post s i).nextSave = s.nextSave := rfl
@[simp] theorem post_contracts (s : State) (i : Instr) : (post s i).contracts = s.contracts := rfl
@[simp] theorem post_frame (s : State) (i : Instr) : (post s i).frame = s.frame := rfl
@[simp] theorem post_buckets (s : State) (i : Instr) : (post s i).buckets = s.buckets := rfl
@[simp] theorem post_weights (s : State) (i : Instr) : (post s i).weights = s.weights := rfl
@[simp] theorem post_overhead (s : State) (i : Instr) : (post s i).overhead = s.overhead := rfl
@[simp] theorem post_pwrCap (s : State) (i : Instr) : (post s i).pwrCap = s.pwrCap := rfl
@[simp] theorem post_boost (s : State) (i : Instr) : (post s i).boost = s.boost := rfl
@[simp] theorem post_railsOff (s : State) (i : Instr) : (post s i).railsOff = s.railsOff := rfl
@[simp] theorem post_clusters (s : State) (i : Instr) : (post s i).clusters = s.clusters := rfl
@[simp] theorem post_xlate (s : State) (i : Instr) : (post s i).xlate = s.xlate := rfl
@[simp] theorem post_slices (s : State) (i : Instr) : (post s i).slices = s.slices := rfl
@[simp] theorem post_collectives (s : State) (i : Instr) : (post s i).collectives = s.collectives := rfl
@[simp] theorem post_relay (s : State) (i : Instr) : (post s i).relay = s.relay := rfl
@[simp] theorem post_mgmt (s : State) (i : Instr) : (post s i).mgmt = s.mgmt := rfl
@[simp] theorem post_ports (s : State) (i : Instr) : (post s i).ports = s.ports := rfl
@[simp] theorem post_msix (s : State) (i : Instr) : (post s i).msix = s.msix := rfl
@[simp] theorem post_pba (s : State) (i : Instr) : (post s i).pba = s.pba := rfl
@[simp] theorem post_aer (s : State) (i : Instr) : (post s i).aer = s.aer := rfl
@[simp] theorem post_fw (s : State) (i : Instr) : (post s i).fw = s.fw := rfl
@[simp] theorem post_dev (s : State) (i : Instr) : (post s i).dev = s.dev := rfl
@[simp] theorem post_host (s : State) (i : Instr) : (post s i).host = s.host := rfl

/-! ### postArg -/

@[simp] theorem postArg_out (s : State) (i : Instr) (a : EventArg) : (postArg s i a).out = s.out := rfl
@[simp] theorem postArg_tick (s : State) (i : Instr) (a : EventArg) : (postArg s i a).tick = s.tick := rfl
@[simp] theorem postArg_ctxs (s : State) (i : Instr) (a : EventArg) : (postArg s i a).ctxs = s.ctxs := rfl
@[simp] theorem postArg_cores (s : State) (i : Instr) (a : EventArg) : (postArg s i a).cores = s.cores := rfl
@[simp] theorem postArg_vnpus (s : State) (i : Instr) (a : EventArg) : (postArg s i a).vnpus = s.vnpus := rfl
@[simp] theorem postArg_numVFs (s : State) (i : Instr) (a : EventArg) : (postArg s i a).numVFs = s.numVFs := rfl
@[simp] theorem postArg_launches (s : State) (i : Instr) (a : EventArg) : (postArg s i a).launches = s.launches := rfl
@[simp] theorem postArg_nextLaunch (s : State) (i : Instr) (a : EventArg) : (postArg s i a).nextLaunch = s.nextLaunch := rfl
@[simp] theorem postArg_saves (s : State) (i : Instr) (a : EventArg) : (postArg s i a).saves = s.saves := rfl
@[simp] theorem postArg_stubs (s : State) (i : Instr) (a : EventArg) : (postArg s i a).stubs = s.stubs := rfl
@[simp] theorem postArg_nextSave (s : State) (i : Instr) (a : EventArg) : (postArg s i a).nextSave = s.nextSave := rfl
@[simp] theorem postArg_contracts (s : State) (i : Instr) (a : EventArg) : (postArg s i a).contracts = s.contracts := rfl
@[simp] theorem postArg_frame (s : State) (i : Instr) (a : EventArg) : (postArg s i a).frame = s.frame := rfl
@[simp] theorem postArg_buckets (s : State) (i : Instr) (a : EventArg) : (postArg s i a).buckets = s.buckets := rfl
@[simp] theorem postArg_weights (s : State) (i : Instr) (a : EventArg) : (postArg s i a).weights = s.weights := rfl
@[simp] theorem postArg_overhead (s : State) (i : Instr) (a : EventArg) : (postArg s i a).overhead = s.overhead := rfl
@[simp] theorem postArg_pwrCap (s : State) (i : Instr) (a : EventArg) : (postArg s i a).pwrCap = s.pwrCap := rfl
@[simp] theorem postArg_boost (s : State) (i : Instr) (a : EventArg) : (postArg s i a).boost = s.boost := rfl
@[simp] theorem postArg_railsOff (s : State) (i : Instr) (a : EventArg) : (postArg s i a).railsOff = s.railsOff := rfl
@[simp] theorem postArg_clusters (s : State) (i : Instr) (a : EventArg) : (postArg s i a).clusters = s.clusters := rfl
@[simp] theorem postArg_xlate (s : State) (i : Instr) (a : EventArg) : (postArg s i a).xlate = s.xlate := rfl
@[simp] theorem postArg_slices (s : State) (i : Instr) (a : EventArg) : (postArg s i a).slices = s.slices := rfl
@[simp] theorem postArg_collectives (s : State) (i : Instr) (a : EventArg) : (postArg s i a).collectives = s.collectives := rfl
@[simp] theorem postArg_relay (s : State) (i : Instr) (a : EventArg) : (postArg s i a).relay = s.relay := rfl
@[simp] theorem postArg_mgmt (s : State) (i : Instr) (a : EventArg) : (postArg s i a).mgmt = s.mgmt := rfl
@[simp] theorem postArg_ports (s : State) (i : Instr) (a : EventArg) : (postArg s i a).ports = s.ports := rfl
@[simp] theorem postArg_msix (s : State) (i : Instr) (a : EventArg) : (postArg s i a).msix = s.msix := rfl
@[simp] theorem postArg_pba (s : State) (i : Instr) (a : EventArg) : (postArg s i a).pba = s.pba := rfl
@[simp] theorem postArg_aer (s : State) (i : Instr) (a : EventArg) : (postArg s i a).aer = s.aer := rfl
@[simp] theorem postArg_fw (s : State) (i : Instr) (a : EventArg) : (postArg s i a).fw = s.fw := rfl
@[simp] theorem postArg_dev (s : State) (i : Instr) (a : EventArg) : (postArg s i a).dev = s.dev := rfl
@[simp] theorem postArg_host (s : State) (i : Instr) (a : EventArg) : (postArg s i a).host = s.host := rfl

/-! ### useFree -/

@[simp] theorem useFree_out (s : State) : (useFree s).out = s.out := rfl
@[simp] theorem useFree_tick (s : State) : (useFree s).tick = s.tick := rfl
@[simp] theorem useFree_ctxs (s : State) : (useFree s).ctxs = s.ctxs := rfl
@[simp] theorem useFree_cores (s : State) : (useFree s).cores = s.cores := rfl
@[simp] theorem useFree_vnpus (s : State) : (useFree s).vnpus = s.vnpus := rfl
@[simp] theorem useFree_numVFs (s : State) : (useFree s).numVFs = s.numVFs := rfl
@[simp] theorem useFree_launches (s : State) : (useFree s).launches = s.launches := rfl
@[simp] theorem useFree_nextLaunch (s : State) : (useFree s).nextLaunch = s.nextLaunch := rfl
@[simp] theorem useFree_saves (s : State) : (useFree s).saves = s.saves := rfl
@[simp] theorem useFree_stubs (s : State) : (useFree s).stubs = s.stubs := rfl
@[simp] theorem useFree_nextSave (s : State) : (useFree s).nextSave = s.nextSave := rfl
@[simp] theorem useFree_contracts (s : State) : (useFree s).contracts = s.contracts := rfl
@[simp] theorem useFree_frame (s : State) : (useFree s).frame = s.frame := rfl
@[simp] theorem useFree_buckets (s : State) : (useFree s).buckets = s.buckets := rfl
@[simp] theorem useFree_weights (s : State) : (useFree s).weights = s.weights := rfl
@[simp] theorem useFree_overhead (s : State) : (useFree s).overhead = s.overhead := rfl
@[simp] theorem useFree_pwrCap (s : State) : (useFree s).pwrCap = s.pwrCap := rfl
@[simp] theorem useFree_boost (s : State) : (useFree s).boost = s.boost := rfl
@[simp] theorem useFree_railsOff (s : State) : (useFree s).railsOff = s.railsOff := rfl
@[simp] theorem useFree_clusters (s : State) : (useFree s).clusters = s.clusters := rfl
@[simp] theorem useFree_xlate (s : State) : (useFree s).xlate = s.xlate := rfl
@[simp] theorem useFree_slices (s : State) : (useFree s).slices = s.slices := rfl
@[simp] theorem useFree_collectives (s : State) : (useFree s).collectives = s.collectives := rfl
@[simp] theorem useFree_relay (s : State) : (useFree s).relay = s.relay := rfl
@[simp] theorem useFree_mgmt (s : State) : (useFree s).mgmt = s.mgmt := rfl
@[simp] theorem useFree_ports (s : State) : (useFree s).ports = s.ports := rfl
@[simp] theorem useFree_msix (s : State) : (useFree s).msix = s.msix := rfl
@[simp] theorem useFree_pba (s : State) : (useFree s).pba = s.pba := rfl
@[simp] theorem useFree_aer (s : State) : (useFree s).aer = s.aer := rfl
@[simp] theorem useFree_fw (s : State) : (useFree s).fw = s.fw := rfl
@[simp] theorem useFree_dev (s : State) : (useFree s).dev = s.dev := rfl
@[simp] theorem useFree_host (s : State) : (useFree s).host = s.host := rfl

/-! ### dropTurns -/

@[simp] theorem dropTurns_out (s : State) (l : List Turn) : (dropTurns s l).out = s.out := rfl
@[simp] theorem dropTurns_tick (s : State) (l : List Turn) : (dropTurns s l).tick = s.tick := rfl
@[simp] theorem dropTurns_ctxs (s : State) (l : List Turn) : (dropTurns s l).ctxs = s.ctxs := rfl
@[simp] theorem dropTurns_cores (s : State) (l : List Turn) : (dropTurns s l).cores = s.cores := rfl
@[simp] theorem dropTurns_vnpus (s : State) (l : List Turn) : (dropTurns s l).vnpus = s.vnpus := rfl
@[simp] theorem dropTurns_numVFs (s : State) (l : List Turn) : (dropTurns s l).numVFs = s.numVFs := rfl
@[simp] theorem dropTurns_launches (s : State) (l : List Turn) : (dropTurns s l).launches = s.launches := rfl
@[simp] theorem dropTurns_nextLaunch (s : State) (l : List Turn) : (dropTurns s l).nextLaunch = s.nextLaunch := rfl
@[simp] theorem dropTurns_saves (s : State) (l : List Turn) : (dropTurns s l).saves = s.saves := rfl
@[simp] theorem dropTurns_stubs (s : State) (l : List Turn) : (dropTurns s l).stubs = s.stubs := rfl
@[simp] theorem dropTurns_nextSave (s : State) (l : List Turn) : (dropTurns s l).nextSave = s.nextSave := rfl
@[simp] theorem dropTurns_contracts (s : State) (l : List Turn) : (dropTurns s l).contracts = s.contracts := rfl
@[simp] theorem dropTurns_frame (s : State) (l : List Turn) : (dropTurns s l).frame = s.frame := rfl
@[simp] theorem dropTurns_buckets (s : State) (l : List Turn) : (dropTurns s l).buckets = s.buckets := rfl
@[simp] theorem dropTurns_weights (s : State) (l : List Turn) : (dropTurns s l).weights = s.weights := rfl
@[simp] theorem dropTurns_overhead (s : State) (l : List Turn) : (dropTurns s l).overhead = s.overhead := rfl
@[simp] theorem dropTurns_pwrCap (s : State) (l : List Turn) : (dropTurns s l).pwrCap = s.pwrCap := rfl
@[simp] theorem dropTurns_boost (s : State) (l : List Turn) : (dropTurns s l).boost = s.boost := rfl
@[simp] theorem dropTurns_railsOff (s : State) (l : List Turn) : (dropTurns s l).railsOff = s.railsOff := rfl
@[simp] theorem dropTurns_clusters (s : State) (l : List Turn) : (dropTurns s l).clusters = s.clusters := rfl
@[simp] theorem dropTurns_xlate (s : State) (l : List Turn) : (dropTurns s l).xlate = s.xlate := rfl
@[simp] theorem dropTurns_slices (s : State) (l : List Turn) : (dropTurns s l).slices = s.slices := rfl
@[simp] theorem dropTurns_collectives (s : State) (l : List Turn) : (dropTurns s l).collectives = s.collectives := rfl
@[simp] theorem dropTurns_relay (s : State) (l : List Turn) : (dropTurns s l).relay = s.relay := rfl
@[simp] theorem dropTurns_mgmt (s : State) (l : List Turn) : (dropTurns s l).mgmt = s.mgmt := rfl
@[simp] theorem dropTurns_ports (s : State) (l : List Turn) : (dropTurns s l).ports = s.ports := rfl
@[simp] theorem dropTurns_msix (s : State) (l : List Turn) : (dropTurns s l).msix = s.msix := rfl
@[simp] theorem dropTurns_pba (s : State) (l : List Turn) : (dropTurns s l).pba = s.pba := rfl
@[simp] theorem dropTurns_aer (s : State) (l : List Turn) : (dropTurns s l).aer = s.aer := rfl
@[simp] theorem dropTurns_fw (s : State) (l : List Turn) : (dropTurns s l).fw = s.fw := rfl
@[simp] theorem dropTurns_dev (s : State) (l : List Turn) : (dropTurns s l).dev = s.dev := rfl
@[simp] theorem dropTurns_host (s : State) (l : List Turn) : (dropTurns s l).host = s.host := rfl

/-! ### addTurns -/

@[simp] theorem addTurns_out (s : State) (l : List Turn) : (addTurns s l).out = s.out := rfl
@[simp] theorem addTurns_tick (s : State) (l : List Turn) : (addTurns s l).tick = s.tick := rfl
@[simp] theorem addTurns_ctxs (s : State) (l : List Turn) : (addTurns s l).ctxs = s.ctxs := rfl
@[simp] theorem addTurns_cores (s : State) (l : List Turn) : (addTurns s l).cores = s.cores := rfl
@[simp] theorem addTurns_vnpus (s : State) (l : List Turn) : (addTurns s l).vnpus = s.vnpus := rfl
@[simp] theorem addTurns_numVFs (s : State) (l : List Turn) : (addTurns s l).numVFs = s.numVFs := rfl
@[simp] theorem addTurns_launches (s : State) (l : List Turn) : (addTurns s l).launches = s.launches := rfl
@[simp] theorem addTurns_nextLaunch (s : State) (l : List Turn) : (addTurns s l).nextLaunch = s.nextLaunch := rfl
@[simp] theorem addTurns_saves (s : State) (l : List Turn) : (addTurns s l).saves = s.saves := rfl
@[simp] theorem addTurns_stubs (s : State) (l : List Turn) : (addTurns s l).stubs = s.stubs := rfl
@[simp] theorem addTurns_nextSave (s : State) (l : List Turn) : (addTurns s l).nextSave = s.nextSave := rfl
@[simp] theorem addTurns_contracts (s : State) (l : List Turn) : (addTurns s l).contracts = s.contracts := rfl
@[simp] theorem addTurns_frame (s : State) (l : List Turn) : (addTurns s l).frame = s.frame := rfl
@[simp] theorem addTurns_buckets (s : State) (l : List Turn) : (addTurns s l).buckets = s.buckets := rfl
@[simp] theorem addTurns_weights (s : State) (l : List Turn) : (addTurns s l).weights = s.weights := rfl
@[simp] theorem addTurns_overhead (s : State) (l : List Turn) : (addTurns s l).overhead = s.overhead := rfl
@[simp] theorem addTurns_pwrCap (s : State) (l : List Turn) : (addTurns s l).pwrCap = s.pwrCap := rfl
@[simp] theorem addTurns_boost (s : State) (l : List Turn) : (addTurns s l).boost = s.boost := rfl
@[simp] theorem addTurns_railsOff (s : State) (l : List Turn) : (addTurns s l).railsOff = s.railsOff := rfl
@[simp] theorem addTurns_clusters (s : State) (l : List Turn) : (addTurns s l).clusters = s.clusters := rfl
@[simp] theorem addTurns_xlate (s : State) (l : List Turn) : (addTurns s l).xlate = s.xlate := rfl
@[simp] theorem addTurns_slices (s : State) (l : List Turn) : (addTurns s l).slices = s.slices := rfl
@[simp] theorem addTurns_collectives (s : State) (l : List Turn) : (addTurns s l).collectives = s.collectives := rfl
@[simp] theorem addTurns_relay (s : State) (l : List Turn) : (addTurns s l).relay = s.relay := rfl
@[simp] theorem addTurns_mgmt (s : State) (l : List Turn) : (addTurns s l).mgmt = s.mgmt := rfl
@[simp] theorem addTurns_ports (s : State) (l : List Turn) : (addTurns s l).ports = s.ports := rfl
@[simp] theorem addTurns_msix (s : State) (l : List Turn) : (addTurns s l).msix = s.msix := rfl
@[simp] theorem addTurns_pba (s : State) (l : List Turn) : (addTurns s l).pba = s.pba := rfl
@[simp] theorem addTurns_aer (s : State) (l : List Turn) : (addTurns s l).aer = s.aer := rfl
@[simp] theorem addTurns_fw (s : State) (l : List Turn) : (addTurns s l).fw = s.fw := rfl
@[simp] theorem addTurns_dev (s : State) (l : List Turn) : (addTurns s l).dev = s.dev := rfl
@[simp] theorem addTurns_host (s : State) (l : List Turn) : (addTurns s l).host = s.host := rfl

/-! ### turnAgain -/

@[simp] theorem turnAgain_out (s : State) (u : Turn) : (turnAgain s u).out = s.out := rfl
@[simp] theorem turnAgain_tick (s : State) (u : Turn) : (turnAgain s u).tick = s.tick := rfl
@[simp] theorem turnAgain_ctxs (s : State) (u : Turn) : (turnAgain s u).ctxs = s.ctxs := rfl
@[simp] theorem turnAgain_cores (s : State) (u : Turn) : (turnAgain s u).cores = s.cores := rfl
@[simp] theorem turnAgain_vnpus (s : State) (u : Turn) : (turnAgain s u).vnpus = s.vnpus := rfl
@[simp] theorem turnAgain_numVFs (s : State) (u : Turn) : (turnAgain s u).numVFs = s.numVFs := rfl
@[simp] theorem turnAgain_launches (s : State) (u : Turn) : (turnAgain s u).launches = s.launches := rfl
@[simp] theorem turnAgain_nextLaunch (s : State) (u : Turn) : (turnAgain s u).nextLaunch = s.nextLaunch := rfl
@[simp] theorem turnAgain_saves (s : State) (u : Turn) : (turnAgain s u).saves = s.saves := rfl
@[simp] theorem turnAgain_stubs (s : State) (u : Turn) : (turnAgain s u).stubs = s.stubs := rfl
@[simp] theorem turnAgain_nextSave (s : State) (u : Turn) : (turnAgain s u).nextSave = s.nextSave := rfl
@[simp] theorem turnAgain_contracts (s : State) (u : Turn) : (turnAgain s u).contracts = s.contracts := rfl
@[simp] theorem turnAgain_frame (s : State) (u : Turn) : (turnAgain s u).frame = s.frame := rfl
@[simp] theorem turnAgain_buckets (s : State) (u : Turn) : (turnAgain s u).buckets = s.buckets := rfl
@[simp] theorem turnAgain_weights (s : State) (u : Turn) : (turnAgain s u).weights = s.weights := rfl
@[simp] theorem turnAgain_overhead (s : State) (u : Turn) : (turnAgain s u).overhead = s.overhead := rfl
@[simp] theorem turnAgain_pwrCap (s : State) (u : Turn) : (turnAgain s u).pwrCap = s.pwrCap := rfl
@[simp] theorem turnAgain_boost (s : State) (u : Turn) : (turnAgain s u).boost = s.boost := rfl
@[simp] theorem turnAgain_railsOff (s : State) (u : Turn) : (turnAgain s u).railsOff = s.railsOff := rfl
@[simp] theorem turnAgain_clusters (s : State) (u : Turn) : (turnAgain s u).clusters = s.clusters := rfl
@[simp] theorem turnAgain_xlate (s : State) (u : Turn) : (turnAgain s u).xlate = s.xlate := rfl
@[simp] theorem turnAgain_slices (s : State) (u : Turn) : (turnAgain s u).slices = s.slices := rfl
@[simp] theorem turnAgain_collectives (s : State) (u : Turn) : (turnAgain s u).collectives = s.collectives := rfl
@[simp] theorem turnAgain_relay (s : State) (u : Turn) : (turnAgain s u).relay = s.relay := rfl
@[simp] theorem turnAgain_mgmt (s : State) (u : Turn) : (turnAgain s u).mgmt = s.mgmt := rfl
@[simp] theorem turnAgain_ports (s : State) (u : Turn) : (turnAgain s u).ports = s.ports := rfl
@[simp] theorem turnAgain_msix (s : State) (u : Turn) : (turnAgain s u).msix = s.msix := rfl
@[simp] theorem turnAgain_pba (s : State) (u : Turn) : (turnAgain s u).pba = s.pba := rfl
@[simp] theorem turnAgain_aer (s : State) (u : Turn) : (turnAgain s u).aer = s.aer := rfl
@[simp] theorem turnAgain_fw (s : State) (u : Turn) : (turnAgain s u).fw = s.fw := rfl
@[simp] theorem turnAgain_dev (s : State) (u : Turn) : (turnAgain s u).dev = s.dev := rfl
@[simp] theorem turnAgain_host (s : State) (u : Turn) : (turnAgain s u).host = s.host := rfl

/-! ### addTeam -/

@[simp] theorem addTeam_out (s : State) (c : Nat) : (addTeam s c).out = s.out := rfl
@[simp] theorem addTeam_tick (s : State) (c : Nat) : (addTeam s c).tick = s.tick := rfl
@[simp] theorem addTeam_ctxs (s : State) (c : Nat) : (addTeam s c).ctxs = s.ctxs := rfl
@[simp] theorem addTeam_cores (s : State) (c : Nat) : (addTeam s c).cores = s.cores := rfl
@[simp] theorem addTeam_vnpus (s : State) (c : Nat) : (addTeam s c).vnpus = s.vnpus := rfl
@[simp] theorem addTeam_numVFs (s : State) (c : Nat) : (addTeam s c).numVFs = s.numVFs := rfl
@[simp] theorem addTeam_launches (s : State) (c : Nat) : (addTeam s c).launches = s.launches := rfl
@[simp] theorem addTeam_nextLaunch (s : State) (c : Nat) : (addTeam s c).nextLaunch = s.nextLaunch := rfl
@[simp] theorem addTeam_saves (s : State) (c : Nat) : (addTeam s c).saves = s.saves := rfl
@[simp] theorem addTeam_stubs (s : State) (c : Nat) : (addTeam s c).stubs = s.stubs := rfl
@[simp] theorem addTeam_nextSave (s : State) (c : Nat) : (addTeam s c).nextSave = s.nextSave := rfl
@[simp] theorem addTeam_contracts (s : State) (c : Nat) : (addTeam s c).contracts = s.contracts := rfl
@[simp] theorem addTeam_frame (s : State) (c : Nat) : (addTeam s c).frame = s.frame := rfl
@[simp] theorem addTeam_buckets (s : State) (c : Nat) : (addTeam s c).buckets = s.buckets := rfl
@[simp] theorem addTeam_weights (s : State) (c : Nat) : (addTeam s c).weights = s.weights := rfl
@[simp] theorem addTeam_overhead (s : State) (c : Nat) : (addTeam s c).overhead = s.overhead := rfl
@[simp] theorem addTeam_pwrCap (s : State) (c : Nat) : (addTeam s c).pwrCap = s.pwrCap := rfl
@[simp] theorem addTeam_boost (s : State) (c : Nat) : (addTeam s c).boost = s.boost := rfl
@[simp] theorem addTeam_railsOff (s : State) (c : Nat) : (addTeam s c).railsOff = s.railsOff := rfl
@[simp] theorem addTeam_clusters (s : State) (c : Nat) : (addTeam s c).clusters = s.clusters := rfl
@[simp] theorem addTeam_xlate (s : State) (c : Nat) : (addTeam s c).xlate = s.xlate := rfl
@[simp] theorem addTeam_slices (s : State) (c : Nat) : (addTeam s c).slices = s.slices := rfl
@[simp] theorem addTeam_collectives (s : State) (c : Nat) : (addTeam s c).collectives = s.collectives := rfl
@[simp] theorem addTeam_relay (s : State) (c : Nat) : (addTeam s c).relay = s.relay := rfl
@[simp] theorem addTeam_mgmt (s : State) (c : Nat) : (addTeam s c).mgmt = s.mgmt := rfl
@[simp] theorem addTeam_ports (s : State) (c : Nat) : (addTeam s c).ports = s.ports := rfl
@[simp] theorem addTeam_msix (s : State) (c : Nat) : (addTeam s c).msix = s.msix := rfl
@[simp] theorem addTeam_pba (s : State) (c : Nat) : (addTeam s c).pba = s.pba := rfl
@[simp] theorem addTeam_aer (s : State) (c : Nat) : (addTeam s c).aer = s.aer := rfl
@[simp] theorem addTeam_fw (s : State) (c : Nat) : (addTeam s c).fw = s.fw := rfl
@[simp] theorem addTeam_dev (s : State) (c : Nat) : (addTeam s c).dev = s.dev := rfl
@[simp] theorem addTeam_host (s : State) (c : Nat) : (addTeam s c).host = s.host := rfl

/-! ### raise -/

@[simp] theorem raise_run (s : State) (fn vec : Nat) : (raise s fn vec).run = s.run := by unfold raise; split <;> rfl
@[simp] theorem raise_tick (s : State) (fn vec : Nat) : (raise s fn vec).tick = s.tick := by unfold raise; split <;> rfl
@[simp] theorem raise_ctxs (s : State) (fn vec : Nat) : (raise s fn vec).ctxs = s.ctxs := by unfold raise; split <;> rfl
@[simp] theorem raise_cores (s : State) (fn vec : Nat) : (raise s fn vec).cores = s.cores := by unfold raise; split <;> rfl
@[simp] theorem raise_vnpus (s : State) (fn vec : Nat) : (raise s fn vec).vnpus = s.vnpus := by unfold raise; split <;> rfl
@[simp] theorem raise_numVFs (s : State) (fn vec : Nat) : (raise s fn vec).numVFs = s.numVFs := by unfold raise; split <;> rfl
@[simp] theorem raise_launches (s : State) (fn vec : Nat) : (raise s fn vec).launches = s.launches := by unfold raise; split <;> rfl
@[simp] theorem raise_nextLaunch (s : State) (fn vec : Nat) : (raise s fn vec).nextLaunch = s.nextLaunch := by unfold raise; split <;> rfl
@[simp] theorem raise_saves (s : State) (fn vec : Nat) : (raise s fn vec).saves = s.saves := by unfold raise; split <;> rfl
@[simp] theorem raise_stubs (s : State) (fn vec : Nat) : (raise s fn vec).stubs = s.stubs := by unfold raise; split <;> rfl
@[simp] theorem raise_nextSave (s : State) (fn vec : Nat) : (raise s fn vec).nextSave = s.nextSave := by unfold raise; split <;> rfl
@[simp] theorem raise_contracts (s : State) (fn vec : Nat) : (raise s fn vec).contracts = s.contracts := by unfold raise; split <;> rfl
@[simp] theorem raise_frame (s : State) (fn vec : Nat) : (raise s fn vec).frame = s.frame := by unfold raise; split <;> rfl
@[simp] theorem raise_buckets (s : State) (fn vec : Nat) : (raise s fn vec).buckets = s.buckets := by unfold raise; split <;> rfl
@[simp] theorem raise_weights (s : State) (fn vec : Nat) : (raise s fn vec).weights = s.weights := by unfold raise; split <;> rfl
@[simp] theorem raise_overhead (s : State) (fn vec : Nat) : (raise s fn vec).overhead = s.overhead := by unfold raise; split <;> rfl
@[simp] theorem raise_pwrCap (s : State) (fn vec : Nat) : (raise s fn vec).pwrCap = s.pwrCap := by unfold raise; split <;> rfl
@[simp] theorem raise_boost (s : State) (fn vec : Nat) : (raise s fn vec).boost = s.boost := by unfold raise; split <;> rfl
@[simp] theorem raise_railsOff (s : State) (fn vec : Nat) : (raise s fn vec).railsOff = s.railsOff := by unfold raise; split <;> rfl
@[simp] theorem raise_clusters (s : State) (fn vec : Nat) : (raise s fn vec).clusters = s.clusters := by unfold raise; split <;> rfl
@[simp] theorem raise_xlate (s : State) (fn vec : Nat) : (raise s fn vec).xlate = s.xlate := by unfold raise; split <;> rfl
@[simp] theorem raise_slices (s : State) (fn vec : Nat) : (raise s fn vec).slices = s.slices := by unfold raise; split <;> rfl
@[simp] theorem raise_collectives (s : State) (fn vec : Nat) : (raise s fn vec).collectives = s.collectives := by unfold raise; split <;> rfl
@[simp] theorem raise_relay (s : State) (fn vec : Nat) : (raise s fn vec).relay = s.relay := by unfold raise; split <;> rfl
@[simp] theorem raise_mgmt (s : State) (fn vec : Nat) : (raise s fn vec).mgmt = s.mgmt := by unfold raise; split <;> rfl
@[simp] theorem raise_ports (s : State) (fn vec : Nat) : (raise s fn vec).ports = s.ports := by unfold raise; split <;> rfl
@[simp] theorem raise_msix (s : State) (fn vec : Nat) : (raise s fn vec).msix = s.msix := by unfold raise; split <;> rfl
@[simp] theorem raise_aer (s : State) (fn vec : Nat) : (raise s fn vec).aer = s.aer := by unfold raise; split <;> rfl
@[simp] theorem raise_fw (s : State) (fn vec : Nat) : (raise s fn vec).fw = s.fw := by unfold raise; split <;> rfl
@[simp] theorem raise_dev (s : State) (fn vec : Nat) : (raise s fn vec).dev = s.dev := by unfold raise; split <;> rfl
@[simp] theorem raise_host (s : State) (fn vec : Nat) : (raise s fn vec).host = s.host := by unfold raise; split <;> rfl

/-! ### chargeOverhead -/

@[simp] theorem chargeOverhead_run (s : State) (i n : Nat) : (chargeOverhead s i n).run = s.run := rfl
@[simp] theorem chargeOverhead_out (s : State) (i n : Nat) : (chargeOverhead s i n).out = s.out := rfl
@[simp] theorem chargeOverhead_tick (s : State) (i n : Nat) : (chargeOverhead s i n).tick = s.tick := rfl
@[simp] theorem chargeOverhead_ctxs (s : State) (i n : Nat) : (chargeOverhead s i n).ctxs = s.ctxs := rfl
@[simp] theorem chargeOverhead_cores (s : State) (i n : Nat) : (chargeOverhead s i n).cores = s.cores := rfl
@[simp] theorem chargeOverhead_vnpus (s : State) (i n : Nat) : (chargeOverhead s i n).vnpus = s.vnpus := rfl
@[simp] theorem chargeOverhead_numVFs (s : State) (i n : Nat) : (chargeOverhead s i n).numVFs = s.numVFs := rfl
@[simp] theorem chargeOverhead_launches (s : State) (i n : Nat) : (chargeOverhead s i n).launches = s.launches := rfl
@[simp] theorem chargeOverhead_nextLaunch (s : State) (i n : Nat) : (chargeOverhead s i n).nextLaunch = s.nextLaunch := rfl
@[simp] theorem chargeOverhead_saves (s : State) (i n : Nat) : (chargeOverhead s i n).saves = s.saves := rfl
@[simp] theorem chargeOverhead_stubs (s : State) (i n : Nat) : (chargeOverhead s i n).stubs = s.stubs := rfl
@[simp] theorem chargeOverhead_nextSave (s : State) (i n : Nat) : (chargeOverhead s i n).nextSave = s.nextSave := rfl
@[simp] theorem chargeOverhead_contracts (s : State) (i n : Nat) : (chargeOverhead s i n).contracts = s.contracts := rfl
@[simp] theorem chargeOverhead_frame (s : State) (i n : Nat) : (chargeOverhead s i n).frame = s.frame := rfl
@[simp] theorem chargeOverhead_buckets (s : State) (i n : Nat) : (chargeOverhead s i n).buckets = s.buckets := rfl
@[simp] theorem chargeOverhead_weights (s : State) (i n : Nat) : (chargeOverhead s i n).weights = s.weights := rfl
@[simp] theorem chargeOverhead_pwrCap (s : State) (i n : Nat) : (chargeOverhead s i n).pwrCap = s.pwrCap := rfl
@[simp] theorem chargeOverhead_boost (s : State) (i n : Nat) : (chargeOverhead s i n).boost = s.boost := rfl
@[simp] theorem chargeOverhead_railsOff (s : State) (i n : Nat) : (chargeOverhead s i n).railsOff = s.railsOff := rfl
@[simp] theorem chargeOverhead_clusters (s : State) (i n : Nat) : (chargeOverhead s i n).clusters = s.clusters := rfl
@[simp] theorem chargeOverhead_xlate (s : State) (i n : Nat) : (chargeOverhead s i n).xlate = s.xlate := rfl
@[simp] theorem chargeOverhead_slices (s : State) (i n : Nat) : (chargeOverhead s i n).slices = s.slices := rfl
@[simp] theorem chargeOverhead_collectives (s : State) (i n : Nat) : (chargeOverhead s i n).collectives = s.collectives := rfl
@[simp] theorem chargeOverhead_relay (s : State) (i n : Nat) : (chargeOverhead s i n).relay = s.relay := rfl
@[simp] theorem chargeOverhead_mgmt (s : State) (i n : Nat) : (chargeOverhead s i n).mgmt = s.mgmt := rfl
@[simp] theorem chargeOverhead_ports (s : State) (i n : Nat) : (chargeOverhead s i n).ports = s.ports := rfl
@[simp] theorem chargeOverhead_msix (s : State) (i n : Nat) : (chargeOverhead s i n).msix = s.msix := rfl
@[simp] theorem chargeOverhead_pba (s : State) (i n : Nat) : (chargeOverhead s i n).pba = s.pba := rfl
@[simp] theorem chargeOverhead_aer (s : State) (i n : Nat) : (chargeOverhead s i n).aer = s.aer := rfl
@[simp] theorem chargeOverhead_fw (s : State) (i n : Nat) : (chargeOverhead s i n).fw = s.fw := rfl
@[simp] theorem chargeOverhead_dev (s : State) (i n : Nat) : (chargeOverhead s i n).dev = s.dev := rfl
@[simp] theorem chargeOverhead_host (s : State) (i n : Nat) : (chargeOverhead s i n).host = s.host := rfl

/-! ### Tables an update does not touch -/

@[simp] theorem coreAt_setCtx (s : State) (c : Nat) (x : Ctx) (j : Nat) : coreAt (setCtx s c x) j = coreAt s j := rfl
@[simp] theorem vnpuAt_setCtx (s : State) (c : Nat) (x : Ctx) (j : Nat) : vnpuAt (setCtx s c x) j = vnpuAt s j := rfl
@[simp] theorem clusterAt_setCtx (s : State) (c : Nat) (x : Ctx) (j : Nat) : clusterAt (setCtx s c x) j = clusterAt s j := rfl
@[simp] theorem portAt_setCtx (s : State) (c : Nat) (x : Ctx) (j : Nat) : portAt (setCtx s c x) j = portAt s j := rfl
@[simp] theorem launchAt_setCtx (s : State) (c : Nat) (x : Ctx) (j : Nat) : launchAt (setCtx s c x) j = launchAt s j := rfl
@[simp] theorem coreAt_modCtx (s : State) (c : Nat) (f : Ctx → Ctx) (j : Nat) : coreAt (modCtx s c f) j = coreAt s j := rfl
@[simp] theorem vnpuAt_modCtx (s : State) (c : Nat) (f : Ctx → Ctx) (j : Nat) : vnpuAt (modCtx s c f) j = vnpuAt s j := rfl
@[simp] theorem clusterAt_modCtx (s : State) (c : Nat) (f : Ctx → Ctx) (j : Nat) : clusterAt (modCtx s c f) j = clusterAt s j := rfl
@[simp] theorem portAt_modCtx (s : State) (c : Nat) (f : Ctx → Ctx) (j : Nat) : portAt (modCtx s c f) j = portAt s j := rfl
@[simp] theorem launchAt_modCtx (s : State) (c : Nat) (f : Ctx → Ctx) (j : Nat) : launchAt (modCtx s c f) j = launchAt s j := rfl
@[simp] theorem ctxAt_modCore (s : State) (n : Nat) (f : Core → Core) (j : Nat) : ctxAt (modCore s n f) j = ctxAt s j := rfl
@[simp] theorem vnpuAt_modCore (s : State) (n : Nat) (f : Core → Core) (j : Nat) : vnpuAt (modCore s n f) j = vnpuAt s j := rfl
@[simp] theorem clusterAt_modCore (s : State) (n : Nat) (f : Core → Core) (j : Nat) : clusterAt (modCore s n f) j = clusterAt s j := rfl
@[simp] theorem portAt_modCore (s : State) (n : Nat) (f : Core → Core) (j : Nat) : portAt (modCore s n f) j = portAt s j := rfl
@[simp] theorem launchAt_modCore (s : State) (n : Nat) (f : Core → Core) (j : Nat) : launchAt (modCore s n f) j = launchAt s j := rfl
@[simp] theorem ctxAt_modVnpu (s : State) (v : Nat) (f : Vnpu → Vnpu) (j : Nat) : ctxAt (modVnpu s v f) j = ctxAt s j := rfl
@[simp] theorem coreAt_modVnpu (s : State) (v : Nat) (f : Vnpu → Vnpu) (j : Nat) : coreAt (modVnpu s v f) j = coreAt s j := rfl
@[simp] theorem clusterAt_modVnpu (s : State) (v : Nat) (f : Vnpu → Vnpu) (j : Nat) : clusterAt (modVnpu s v f) j = clusterAt s j := rfl
@[simp] theorem portAt_modVnpu (s : State) (v : Nat) (f : Vnpu → Vnpu) (j : Nat) : portAt (modVnpu s v f) j = portAt s j := rfl
@[simp] theorem launchAt_modVnpu (s : State) (v : Nat) (f : Vnpu → Vnpu) (j : Nat) : launchAt (modVnpu s v f) j = launchAt s j := rfl
@[simp] theorem ctxAt_modCluster (s : State) (k : Nat) (f : Cluster → Cluster) (j : Nat) : ctxAt (modCluster s k f) j = ctxAt s j := rfl
@[simp] theorem coreAt_modCluster (s : State) (k : Nat) (f : Cluster → Cluster) (j : Nat) : coreAt (modCluster s k f) j = coreAt s j := rfl
@[simp] theorem vnpuAt_modCluster (s : State) (k : Nat) (f : Cluster → Cluster) (j : Nat) : vnpuAt (modCluster s k f) j = vnpuAt s j := rfl
@[simp] theorem portAt_modCluster (s : State) (k : Nat) (f : Cluster → Cluster) (j : Nat) : portAt (modCluster s k f) j = portAt s j := rfl
@[simp] theorem launchAt_modCluster (s : State) (k : Nat) (f : Cluster → Cluster) (j : Nat) : launchAt (modCluster s k f) j = launchAt s j := rfl
@[simp] theorem ctxAt_modPort (s : State) (p : Nat) (f : Port → Port) (j : Nat) : ctxAt (modPort s p f) j = ctxAt s j := rfl
@[simp] theorem coreAt_modPort (s : State) (p : Nat) (f : Port → Port) (j : Nat) : coreAt (modPort s p f) j = coreAt s j := rfl
@[simp] theorem vnpuAt_modPort (s : State) (p : Nat) (f : Port → Port) (j : Nat) : vnpuAt (modPort s p f) j = vnpuAt s j := rfl
@[simp] theorem clusterAt_modPort (s : State) (p : Nat) (f : Port → Port) (j : Nat) : clusterAt (modPort s p f) j = clusterAt s j := rfl
@[simp] theorem launchAt_modPort (s : State) (p : Nat) (f : Port → Port) (j : Nat) : launchAt (modPort s p f) j = launchAt s j := rfl
@[simp] theorem ctxAt_modMgmt (s : State) (f : Mgmt → Mgmt) (j : Nat) : ctxAt (modMgmt s f) j = ctxAt s j := rfl
@[simp] theorem coreAt_modMgmt (s : State) (f : Mgmt → Mgmt) (j : Nat) : coreAt (modMgmt s f) j = coreAt s j := rfl
@[simp] theorem vnpuAt_modMgmt (s : State) (f : Mgmt → Mgmt) (j : Nat) : vnpuAt (modMgmt s f) j = vnpuAt s j := rfl
@[simp] theorem clusterAt_modMgmt (s : State) (f : Mgmt → Mgmt) (j : Nat) : clusterAt (modMgmt s f) j = clusterAt s j := rfl
@[simp] theorem portAt_modMgmt (s : State) (f : Mgmt → Mgmt) (j : Nat) : portAt (modMgmt s f) j = portAt s j := rfl
@[simp] theorem launchAt_modMgmt (s : State) (f : Mgmt → Mgmt) (j : Nat) : launchAt (modMgmt s f) j = launchAt s j := rfl
@[simp] theorem ctxAt_modFw (s : State) (f : Firmware → Firmware) (j : Nat) : ctxAt (modFw s f) j = ctxAt s j := rfl
@[simp] theorem coreAt_modFw (s : State) (f : Firmware → Firmware) (j : Nat) : coreAt (modFw s f) j = coreAt s j := rfl
@[simp] theorem vnpuAt_modFw (s : State) (f : Firmware → Firmware) (j : Nat) : vnpuAt (modFw s f) j = vnpuAt s j := rfl
@[simp] theorem clusterAt_modFw (s : State) (f : Firmware → Firmware) (j : Nat) : clusterAt (modFw s f) j = clusterAt s j := rfl
@[simp] theorem portAt_modFw (s : State) (f : Firmware → Firmware) (j : Nat) : portAt (modFw s f) j = portAt s j := rfl
@[simp] theorem launchAt_modFw (s : State) (f : Firmware → Firmware) (j : Nat) : launchAt (modFw s f) j = launchAt s j := rfl
@[simp] theorem ctxAt_modFrame (s : State) (f : Frame → Frame) (j : Nat) : ctxAt (modFrame s f) j = ctxAt s j := rfl
@[simp] theorem coreAt_modFrame (s : State) (f : Frame → Frame) (j : Nat) : coreAt (modFrame s f) j = coreAt s j := rfl
@[simp] theorem vnpuAt_modFrame (s : State) (f : Frame → Frame) (j : Nat) : vnpuAt (modFrame s f) j = vnpuAt s j := rfl
@[simp] theorem clusterAt_modFrame (s : State) (f : Frame → Frame) (j : Nat) : clusterAt (modFrame s f) j = clusterAt s j := rfl
@[simp] theorem portAt_modFrame (s : State) (f : Frame → Frame) (j : Nat) : portAt (modFrame s f) j = portAt s j := rfl
@[simp] theorem launchAt_modFrame (s : State) (f : Frame → Frame) (j : Nat) : launchAt (modFrame s f) j = launchAt s j := rfl
@[simp] theorem ctxAt_modXlate (s : State) (f : Xlate → Xlate) (j : Nat) : ctxAt (modXlate s f) j = ctxAt s j := rfl
@[simp] theorem coreAt_modXlate (s : State) (f : Xlate → Xlate) (j : Nat) : coreAt (modXlate s f) j = coreAt s j := rfl
@[simp] theorem vnpuAt_modXlate (s : State) (f : Xlate → Xlate) (j : Nat) : vnpuAt (modXlate s f) j = vnpuAt s j := rfl
@[simp] theorem clusterAt_modXlate (s : State) (f : Xlate → Xlate) (j : Nat) : clusterAt (modXlate s f) j = clusterAt s j := rfl
@[simp] theorem portAt_modXlate (s : State) (f : Xlate → Xlate) (j : Nat) : portAt (modXlate s f) j = portAt s j := rfl
@[simp] theorem launchAt_modXlate (s : State) (f : Xlate → Xlate) (j : Nat) : launchAt (modXlate s f) j = launchAt s j := rfl
@[simp] theorem ctxAt_modContracts (s : State) (f : Contracts → Contracts) (j : Nat) : ctxAt (modContracts s f) j = ctxAt s j := rfl
@[simp] theorem coreAt_modContracts (s : State) (f : Contracts → Contracts) (j : Nat) : coreAt (modContracts s f) j = coreAt s j := rfl
@[simp] theorem vnpuAt_modContracts (s : State) (f : Contracts → Contracts) (j : Nat) : vnpuAt (modContracts s f) j = vnpuAt s j := rfl
@[simp] theorem clusterAt_modContracts (s : State) (f : Contracts → Contracts) (j : Nat) : clusterAt (modContracts s f) j = clusterAt s j := rfl
@[simp] theorem portAt_modContracts (s : State) (f : Contracts → Contracts) (j : Nat) : portAt (modContracts s f) j = portAt s j := rfl
@[simp] theorem launchAt_modContracts (s : State) (f : Contracts → Contracts) (j : Nat) : launchAt (modContracts s f) j = launchAt s j := rfl
@[simp] theorem ctxAt_post (s : State) (i : Instr) (j : Nat) : ctxAt (post s i) j = ctxAt s j := rfl
@[simp] theorem coreAt_post (s : State) (i : Instr) (j : Nat) : coreAt (post s i) j = coreAt s j := rfl
@[simp] theorem vnpuAt_post (s : State) (i : Instr) (j : Nat) : vnpuAt (post s i) j = vnpuAt s j := rfl
@[simp] theorem clusterAt_post (s : State) (i : Instr) (j : Nat) : clusterAt (post s i) j = clusterAt s j := rfl
@[simp] theorem portAt_post (s : State) (i : Instr) (j : Nat) : portAt (post s i) j = portAt s j := rfl
@[simp] theorem launchAt_post (s : State) (i : Instr) (j : Nat) : launchAt (post s i) j = launchAt s j := rfl
@[simp] theorem ctxAt_postArg (s : State) (i : Instr) (a : EventArg) (j : Nat) : ctxAt (postArg s i a) j = ctxAt s j := rfl
@[simp] theorem coreAt_postArg (s : State) (i : Instr) (a : EventArg) (j : Nat) : coreAt (postArg s i a) j = coreAt s j := rfl
@[simp] theorem vnpuAt_postArg (s : State) (i : Instr) (a : EventArg) (j : Nat) : vnpuAt (postArg s i a) j = vnpuAt s j := rfl
@[simp] theorem clusterAt_postArg (s : State) (i : Instr) (a : EventArg) (j : Nat) : clusterAt (postArg s i a) j = clusterAt s j := rfl
@[simp] theorem portAt_postArg (s : State) (i : Instr) (a : EventArg) (j : Nat) : portAt (postArg s i a) j = portAt s j := rfl
@[simp] theorem launchAt_postArg (s : State) (i : Instr) (a : EventArg) (j : Nat) : launchAt (postArg s i a) j = launchAt s j := rfl
@[simp] theorem ctxAt_useFree (s : State) (j : Nat) : ctxAt (useFree s) j = ctxAt s j := rfl
@[simp] theorem coreAt_useFree (s : State) (j : Nat) : coreAt (useFree s) j = coreAt s j := rfl
@[simp] theorem vnpuAt_useFree (s : State) (j : Nat) : vnpuAt (useFree s) j = vnpuAt s j := rfl
@[simp] theorem clusterAt_useFree (s : State) (j : Nat) : clusterAt (useFree s) j = clusterAt s j := rfl
@[simp] theorem portAt_useFree (s : State) (j : Nat) : portAt (useFree s) j = portAt s j := rfl
@[simp] theorem launchAt_useFree (s : State) (j : Nat) : launchAt (useFree s) j = launchAt s j := rfl
@[simp] theorem ctxAt_dropTurns (s : State) (l : List Turn) (j : Nat) : ctxAt (dropTurns s l) j = ctxAt s j := rfl
@[simp] theorem coreAt_dropTurns (s : State) (l : List Turn) (j : Nat) : coreAt (dropTurns s l) j = coreAt s j := rfl
@[simp] theorem vnpuAt_dropTurns (s : State) (l : List Turn) (j : Nat) : vnpuAt (dropTurns s l) j = vnpuAt s j := rfl
@[simp] theorem clusterAt_dropTurns (s : State) (l : List Turn) (j : Nat) : clusterAt (dropTurns s l) j = clusterAt s j := rfl
@[simp] theorem portAt_dropTurns (s : State) (l : List Turn) (j : Nat) : portAt (dropTurns s l) j = portAt s j := rfl
@[simp] theorem launchAt_dropTurns (s : State) (l : List Turn) (j : Nat) : launchAt (dropTurns s l) j = launchAt s j := rfl
@[simp] theorem ctxAt_addTurns (s : State) (l : List Turn) (j : Nat) : ctxAt (addTurns s l) j = ctxAt s j := rfl
@[simp] theorem coreAt_addTurns (s : State) (l : List Turn) (j : Nat) : coreAt (addTurns s l) j = coreAt s j := rfl
@[simp] theorem vnpuAt_addTurns (s : State) (l : List Turn) (j : Nat) : vnpuAt (addTurns s l) j = vnpuAt s j := rfl
@[simp] theorem clusterAt_addTurns (s : State) (l : List Turn) (j : Nat) : clusterAt (addTurns s l) j = clusterAt s j := rfl
@[simp] theorem portAt_addTurns (s : State) (l : List Turn) (j : Nat) : portAt (addTurns s l) j = portAt s j := rfl
@[simp] theorem launchAt_addTurns (s : State) (l : List Turn) (j : Nat) : launchAt (addTurns s l) j = launchAt s j := rfl
@[simp] theorem ctxAt_turnAgain (s : State) (u : Turn) (j : Nat) : ctxAt (turnAgain s u) j = ctxAt s j := rfl
@[simp] theorem coreAt_turnAgain (s : State) (u : Turn) (j : Nat) : coreAt (turnAgain s u) j = coreAt s j := rfl
@[simp] theorem vnpuAt_turnAgain (s : State) (u : Turn) (j : Nat) : vnpuAt (turnAgain s u) j = vnpuAt s j := rfl
@[simp] theorem clusterAt_turnAgain (s : State) (u : Turn) (j : Nat) : clusterAt (turnAgain s u) j = clusterAt s j := rfl
@[simp] theorem portAt_turnAgain (s : State) (u : Turn) (j : Nat) : portAt (turnAgain s u) j = portAt s j := rfl
@[simp] theorem launchAt_turnAgain (s : State) (u : Turn) (j : Nat) : launchAt (turnAgain s u) j = launchAt s j := rfl
@[simp] theorem ctxAt_addTeam (s : State) (c : Nat) (j : Nat) : ctxAt (addTeam s c) j = ctxAt s j := rfl
@[simp] theorem coreAt_addTeam (s : State) (c : Nat) (j : Nat) : coreAt (addTeam s c) j = coreAt s j := rfl
@[simp] theorem vnpuAt_addTeam (s : State) (c : Nat) (j : Nat) : vnpuAt (addTeam s c) j = vnpuAt s j := rfl
@[simp] theorem clusterAt_addTeam (s : State) (c : Nat) (j : Nat) : clusterAt (addTeam s c) j = clusterAt s j := rfl
@[simp] theorem portAt_addTeam (s : State) (c : Nat) (j : Nat) : portAt (addTeam s c) j = portAt s j := rfl
@[simp] theorem launchAt_addTeam (s : State) (c : Nat) (j : Nat) : launchAt (addTeam s c) j = launchAt s j := rfl
@[simp] theorem ctxAt_raise (s : State) (fn vec : Nat) (j : Nat) : ctxAt (raise s fn vec) j = ctxAt s j := by unfold raise; split <;> rfl
@[simp] theorem coreAt_raise (s : State) (fn vec : Nat) (j : Nat) : coreAt (raise s fn vec) j = coreAt s j := by unfold raise; split <;> rfl
@[simp] theorem vnpuAt_raise (s : State) (fn vec : Nat) (j : Nat) : vnpuAt (raise s fn vec) j = vnpuAt s j := by unfold raise; split <;> rfl
@[simp] theorem clusterAt_raise (s : State) (fn vec : Nat) (j : Nat) : clusterAt (raise s fn vec) j = clusterAt s j := by unfold raise; split <;> rfl
@[simp] theorem portAt_raise (s : State) (fn vec : Nat) (j : Nat) : portAt (raise s fn vec) j = portAt s j := by unfold raise; split <;> rfl
@[simp] theorem launchAt_raise (s : State) (fn vec : Nat) (j : Nat) : launchAt (raise s fn vec) j = launchAt s j := by unfold raise; split <;> rfl
@[simp] theorem ctxAt_chargeOverhead (s : State) (i n : Nat) (j : Nat) : ctxAt (chargeOverhead s i n) j = ctxAt s j := rfl
@[simp] theorem coreAt_chargeOverhead (s : State) (i n : Nat) (j : Nat) : coreAt (chargeOverhead s i n) j = coreAt s j := rfl
@[simp] theorem vnpuAt_chargeOverhead (s : State) (i n : Nat) (j : Nat) : vnpuAt (chargeOverhead s i n) j = vnpuAt s j := rfl
@[simp] theorem clusterAt_chargeOverhead (s : State) (i n : Nat) (j : Nat) : clusterAt (chargeOverhead s i n) j = clusterAt s j := rfl
@[simp] theorem portAt_chargeOverhead (s : State) (i n : Nat) (j : Nat) : portAt (chargeOverhead s i n) j = portAt s j := rfl
@[simp] theorem launchAt_chargeOverhead (s : State) (i n : Nat) (j : Nat) : launchAt (chargeOverhead s i n) j = launchAt s j := rfl

/-! ### Tables after an update -/

@[simp] theorem ctxAt_setCtx (s : State) (c : Nat) (x : Ctx) : ctxAt (setCtx s c x) c = x := by simp [ctxAt, setCtx]
theorem ctxAt_setCtx_other (s : State) (c d : Nat) (x : Ctx) (h : d ≠ c) : ctxAt (setCtx s c x) d = ctxAt s d := by
  simp [ctxAt, setCtx, mget_mput_other _ _ _ _ _ h]
@[simp] theorem ctxAt_modCtx (s : State) (c : Nat) (f : Ctx → Ctx) : ctxAt (modCtx s c f) c = f (ctxAt s c) := by simp [modCtx]
theorem ctxAt_modCtx_other (s : State) (c d : Nat) (f : Ctx → Ctx) (h : d ≠ c) : ctxAt (modCtx s c f) d = ctxAt s d := by
  simp [modCtx, ctxAt_setCtx_other _ _ _ _ h]
@[simp] theorem coreAt_modCore (s : State) (n : Nat) (f : Core → Core) : coreAt (modCore s n f) n = f (coreAt s n) := by
  simp [coreAt, modCore]
theorem coreAt_modCore_other (s : State) (n m : Nat) (f : Core → Core) (h : m ≠ n) : coreAt (modCore s n f) m = coreAt s m := by
  simp [coreAt, modCore, mget_mput_other _ _ _ _ _ h]
@[simp] theorem vnpuAt_modVnpu (s : State) (v : Nat) (f : Vnpu → Vnpu) : vnpuAt (modVnpu s v f) v = f (vnpuAt s v) := by
  simp [vnpuAt, modVnpu]
theorem vnpuAt_modVnpu_other (s : State) (v w : Nat) (f : Vnpu → Vnpu) (h : w ≠ v) : vnpuAt (modVnpu s v f) w = vnpuAt s w := by
  simp [vnpuAt, modVnpu, mget_mput_other _ _ _ _ _ h]
@[simp] theorem clusterAt_modCluster (s : State) (k : Nat) (f : Cluster → Cluster) : clusterAt (modCluster s k f) k = f (clusterAt s k) := by
  simp [clusterAt, modCluster]
theorem clusterAt_modCluster_other (s : State) (k l : Nat) (f : Cluster → Cluster) (h : l ≠ k) :
    clusterAt (modCluster s k f) l = clusterAt s l := by
  simp [clusterAt, modCluster, mget_mput_other _ _ _ _ _ h]
@[simp] theorem portAt_modPort (s : State) (p : Nat) (f : Port → Port) : portAt (modPort s p f) p = f (portAt s p) := by
  simp [portAt, modPort]

end Sys2Proof.Machine
end

