-- ==== Sys2Proof/Laws/Memory.lean ====
section
/-!
SUPPORT. Every operation that writes a memory keeps its canonical form, and what the scratchpad operations leave alone.
-/
namespace Sys2Proof.Machine

open Sys2Proof

theorem wf_accessMemory (m : Memory) (k : AccKind) (pa n : Nat) (value compare : Word) (h : Memory.wf m = true) :
    Memory.wf (accessMemory m k pa n value compare).1 = true := by
  unfold accessMemory
  dsimp only
  split
  · exact wf_writeLe _ _ _ _ h
  · exact h

/-- A memory without some of its bytes is canonical too. -/
theorem msorted_filter {α : Type} (p : Nat × α → Bool) : ∀ (m : SMap α) (lo : Nat), msorted lo m = true → msorted lo (m.filter p) = true
  | [], _, _ => rfl
  | e :: r, lo, h => by
    simp only [msorted, Bool.and_eq_true, decide_eq_true_eq] at h
    have hr := msorted_filter p r (e.1 + 1) h.2
    simp only [List.filter_cons]
    split
    · simp only [msorted, Bool.and_eq_true, decide_eq_true_eq]; exact ⟨h.1, hr⟩
    · exact msorted_mono _ _ _ (by omega) hr

theorem wf_filter (p : Nat × BitVec 8 → Bool) (m : Memory) (h : Memory.wf m = true) : Memory.wf (m.filter p) = true := by
  simp only [Memory.wf, Bool.and_eq_true, List.all_eq_true] at h ⊢
  exact ⟨msorted_filter p m 0 h.1, fun e he => h.2 e ((List.mem_filter.mp he).1)⟩

theorem wf_foldl_writeByte {α : Type} (f : α → Nat) (g : α → Byte) :
    ∀ (l : List α) (m : Memory), Memory.wf m = true → Memory.wf (l.foldl (fun t e => writeByte t (f e) (g e)) m) = true
  | [], _, h => h
  | _ :: r, _, h => wf_foldl_writeByte f g r _ (wf_writeByte _ _ _ h)

theorem wf_zeroGranule (m : Memory) (g : Nat) (h : Memory.wf m = true) : Memory.wf (zeroGranule m g) = true := wf_filter _ _ h

theorem wf_copyInto (dst src : Memory) (a n d : Nat) (h : Memory.wf dst = true) : Memory.wf (copyInto dst src a n d) = true :=
  wf_foldl_writeByte _ _ _ _ (wf_filter _ _ h)

theorem wf_copyFrame (m : Memory) (src dst : Nat) (h : Memory.wf m = true) : Memory.wf (copyFrame m src dst) = true :=
  wf_foldl_writeByte _ _ _ _ (wf_filter _ _ h)

/-- The scratchpad of the written core stays canonical. -/
theorem wf_putScratch : ∀ (l : List Byte) (s : State) (c a : Nat), Memory.wf (coreAt s (coreOf c)).scratch = true →
    Memory.wf (coreAt (putScratch s c a l) (coreOf c)).scratch = true
  | [], _, _, _, h => h
  | v :: r, s, c, a, h => wf_putScratch r _ c (a + 1) (by simpa using wf_writeByte _ _ _ h)

@[simp] theorem putScratch_ctxs : ∀ (l : List Byte) (s : State) (c a : Nat), (putScratch s c a l).ctxs = s.ctxs
  | [], _, _, _ => rfl
  | _ :: r, s, c, a => by simp [putScratch, putScratch_ctxs r]

@[simp] theorem putScratch_dev : ∀ (l : List Byte) (s : State) (c a : Nat), (putScratch s c a l).dev = s.dev
  | [], _, _, _ => rfl
  | _ :: r, s, c, a => by simp [putScratch, putScratch_dev r]

@[simp] theorem putScratch_host : ∀ (l : List Byte) (s : State) (c a : Nat), (putScratch s c a l).host = s.host
  | [], _, _, _ => rfl
  | _ :: r, s, c, a => by simp [putScratch, putScratch_host r]

@[simp] theorem putScratch_run : ∀ (l : List Byte) (s : State) (c a : Nat), (putScratch s c a l).run = s.run
  | [], _, _, _ => rfl
  | _ :: r, s, c, a => by simp [putScratch, putScratch_run r]

/-- Every other core stays. -/
theorem putScratch_core_other : ∀ (l : List Byte) (s : State) (c a k : Nat), k ≠ coreOf c → coreAt (putScratch s c a l) k = coreAt s k
  | [], _, _, _, _, _ => rfl
  | v :: r, s, c, a, k, h => by
    rw [putScratch, putScratch_core_other r _ c (a + 1) k h]
    exact coreAt_modCore_other _ _ _ _ h

/-- `memoriesCanonical`, part by part. -/
theorem memoriesCanonical_iff (s : State) : memoriesCanonical s = true ↔
    Memory.wf s.dev = true ∧ Memory.wf s.host = true ∧ (∀ e ∈ s.cores, Memory.wf e.2.scratch = true) ∧ firmwareWf s.fw = true ∧ tablesWf s = true ∧
      (∀ e ∈ s.ctxs, recordWf e.2 = true) ∧ (∀ e ∈ s.stubs, recordWf e.2 = true) ∧
      ∀ e ∈ s.saves, recordWf e.2.ctx = true ∧ Memory.wf e.2.bytes = true := by
  simp [memoriesCanonical, and_assoc]

end Sys2Proof.Machine
end

