-- ==== Sys2Proof/Laws/Operands.lean ====
section
/-!
SUPPORT. What the common course of a control instruction does: with its operands at hand it is its body's answer, finished.
-/
namespace Sys2Proof.Machine

/-- With the operands at hand, the common course hands the body the values and finishes its answer. -/
theorem ctl_reads {i : Instr} {s : State} {srcs : List Reg} {d : Option Reg} {vs : List Word} {tk : SMap Nat}
    (h : Reads i s srcs d vs tk) (body : List Word → State → Do) :
    ctl i srcs d body s = finish s s.run.cur tk (d.map (·.toNat)) (body vs s) := by
  have hv : sources s.run.cur (ctxAt s s.run.cur) (srcs.map (·.toNat)) = some (vs, tk) := h.values
  have hd : (ctxAt s s.run.cur).drain = .off := h.drain
  have h1 : (isPrologue s.run.cur && decide (4096 ≤ (ctxAt s s.run.cur).count)) = false := by
    cases hp : isPrologue s.run.cur
    · rfl
    · have := (h.prologue hp).1
      have : (ctxAt s s.run.cur).count < 4096 := this
      simp; omega
  have h2 : (isPrologue s.run.cur && !prologueAllows i) = false := by
    cases hp : isPrologue s.run.cur
    · rfl
    · simp [(h.prologue hp).2]
  have h3 : (srcs.map (·.toNat)).any (fun r => decide (60 ≤ r)) = false := by
    simp only [List.any_map, List.any_eq_false, Function.comp, decide_eq_true_eq]
    intro r hr; have := h.noSend r hr; omega
  have h4 : decide (56 ≤ (d.map (·.toNat)).getD 0 ∧ (d.map (·.toNat)).getD 0 < 60) = false := by
    cases d with
    | none => simp
    | some r => have := h.dest r rfl; simp; omega
  have h5 : (decide (60 ≤ (d.map (·.toNat)).getD 0) && !portOpen (ctxAt s s.run.cur) ((d.map (·.toNat)).getD 0)) = false := by
    cases d with
    | none => simp
    | some r =>
      rcases h.dest r rfl with hr | hr
      · simp; omega
      · have : portOpen (ctxAt s s.run.cur) r.toNat = true := hr.2.1
        simp [this]
  have h6 : ((srcs.map (·.toNat) ++ (d.map (·.toNat)).toList).any fun r => (mfind (ctxAt s s.run.cur).busy r).isSome) = false := by
    rw [List.any_eq_false]
    intro n hn
    have : ∃ r ∈ srcs ++ d.toList, r.toNat = n := by
      rcases List.mem_append.mp hn with hn | hn
      · obtain ⟨r, hr, rfl⟩ := List.mem_map.mp hn
        exact ⟨r, List.mem_append_left _ hr, rfl⟩
      · cases d with
        | none => simp at hn
        | some r => exact ⟨r, by simp, by simpa [eq_comm] using hn⟩
    obtain ⟨r, hr, rfl⟩ := this
    have hb : mfind (ctxAt s s.run.cur).busy r.toNat = none := h.landed r hr
    simp [hb]
  have h7 : portFull s s.run.cur ((d.map (·.toNat)).getD 0) = false := by
    cases d with
    | none => simp [portFull]
    | some r =>
      rcases h.dest r rfl with hr | hr
      · simp [portFull]; omega
      · exact hr.2.2
  unfold ctl
  simp only [h1, h2, h3, h4, h5, h6, h7, hd, hv, bne_self_eq_false, Bool.false_and, Bool.false_or, Bool.false_eq_true, if_false]

/-- An instruction whose body gives a value writes it and goes on. -/
theorem ctl_res {i : Instr} {s : State} {srcs : List Reg} {d : Reg} {vs : List Word} {tk : SMap Nat} {body : List Word → State → Do} {v : Word}
    (h : Reads i s srcs (some d) vs tk) (hb : body vs s = .res v s none) : ctl i srcs (some d) body s = wrote s tk d v (nextPc s) := by
  rw [ctl_reads h, hb]; rfl

/-- An instruction whose body gives a state goes on from it. -/
theorem ctl_done {i : Instr} {s t : State} {srcs : List Reg} {d : Option Reg} {vs : List Word} {tk : SMap Nat} {body : List Word → State → Do}
    {n : Option Word} (h : Reads i s srcs d vs tk) (hb : body vs s = .done t n) : ctl i srcs d body s = went s t tk (n.getD (nextPc s)) := by
  rw [ctl_reads h, hb]; rfl

/-- An instruction whose body traps takes the trap from the state before it. -/
theorem ctl_trap {i : Instr} {s : State} {srcs : List Reg} {d : Option Reg} {vs : List Word} {tk : SMap Nat} {body : List Word → State → Do}
    {cause : Nat} {addr : Word} (h : Reads i s srcs d vs tk) (hb : body vs s = .trap cause addr) :
    ctl i srcs d body s = takeTrap s s.run.cur cause addr := by rw [ctl_reads h, hb]; rfl

/-- Outside drain mode an instruction that retires moves the PC by the end check and is charged. -/
theorem retire_off (s0 s : State) (c : Nat) (next : Word) (h : (ctxAt s c).drain = .off) :
    retire s0 s c next = chargeCtx (setCtx s c { ctxAt s c with pc := (endCheck (ctxAt s c).loops next).2, loops := (endCheck (ctxAt s c).loops next).1,
                                                                wait := .none, leftWait := .none, count := (ctxAt s c).count + 1,
                                                                drain := drainTick .off }) c 0 1 := by
  simp [retire, h]

/-- A charge touches the energy counts, and posts what an exhausted quota asks for. -/
theorem chargeVnpu_frame (s : State) (v n : Nat) : ∃ l, (chargeVnpu s v n).run = { s.run with inputs := s.run.inputs ++ l } ∧
    { chargeVnpu s v n with run := s.run, vnpus := s.vnpus } = s ∧ ∀ w, w ≠ v → vnpuAt (chargeVnpu s v n) w = vnpuAt s w := by
  have other : ∀ (f : Vnpu → Vnpu) (t : State) (w : Nat), w ≠ v → vnpuAt (modVnpu t v f) w = vnpuAt t w := by
    intro f t w hw
    exact mget_mput_other _ _ _ _ _ hw
  have one : ∃ s1 : State, s1 = (if v = 0 then s else modVnpu s v fun x => { x with eused := min (x.eused + n) cap48 }) ∧ s1.run = s.run ∧
      { s1 with run := s.run, vnpus := s.vnpus } = s ∧ ∀ w, w ≠ v → vnpuAt s1 w = vnpuAt s w := by
    refine ⟨_, rfl, ?_⟩
    split
    · exact ⟨rfl, rfl, fun _ _ => rfl⟩
    · exact ⟨rfl, rfl, fun w hw => other _ _ w hw⟩
  obtain ⟨s1, e, r, f, o⟩ := one
  unfold chargeVnpu
  simp only [← e]
  have keep : ∃ l, s1.run = { s.run with inputs := s.run.inputs ++ l } := ⟨[], by simp [r]⟩
  split
  · split
    · refine ⟨[{ i := .quotaExhausted v, arg := noArg }], ?_, ?_, fun w hw => ?_⟩
      · simp only [post, modVnpu, r]
      · simpa [post, postArg, modVnpu] using f
      · show vnpuAt (modVnpu s1 v fun x => { x with exhausted := true }) w = vnpuAt s w
        exact (other _ s1 w hw).trans (o w hw)
    · obtain ⟨l, hl⟩ := keep; exact ⟨l, hl, f, o⟩
  · obtain ⟨l, hl⟩ := keep; exact ⟨l, hl, f, o⟩

/-! ### Requests an agent has made: their updates leave the machine's own state -/

@[simp] theorem noteIssued_ctxs (g : Given) (s : State) : (noteIssued g s).ctxs = s.ctxs := rfl
@[simp] theorem noteIssued_cores (g : Given) (s : State) : (noteIssued g s).cores = s.cores := rfl
@[simp] theorem noteIssued_vnpus (g : Given) (s : State) : (noteIssued g s).vnpus = s.vnpus := rfl
@[simp] theorem noteIssued_launches (g : Given) (s : State) : (noteIssued g s).launches = s.launches := rfl
@[simp] theorem noteIssued_frame (g : Given) (s : State) : (noteIssued g s).frame = s.frame := rfl
@[simp] theorem noteIssued_clusters (g : Given) (s : State) : (noteIssued g s).clusters = s.clusters := rfl
@[simp] theorem noteIssued_xlate (g : Given) (s : State) : (noteIssued g s).xlate = s.xlate := rfl
@[simp] theorem noteIssued_mgmt (g : Given) (s : State) : (noteIssued g s).mgmt = s.mgmt := rfl
@[simp] theorem noteIssued_fw (g : Given) (s : State) : (noteIssued g s).fw = s.fw := rfl
@[simp] theorem noteIssued_out (g : Given) (s : State) : (noteIssued g s).out = s.out := rfl
@[simp] theorem noteIssued_dev (g : Given) (s : State) : (noteIssued g s).dev = s.dev := rfl
@[simp] theorem noteIssued_host (g : Given) (s : State) : (noteIssued g s).host = s.host := rfl
@[simp] theorem detach_ctxs (s : State) (p : Agent → Bool) (c : Nat) : (detach s p c).ctxs = s.ctxs := rfl
@[simp] theorem detach_cores (s : State) (p : Agent → Bool) (c : Nat) : (detach s p c).cores = s.cores := rfl
@[simp] theorem detach_vnpus (s : State) (p : Agent → Bool) (c : Nat) : (detach s p c).vnpus = s.vnpus := rfl
@[simp] theorem detach_launches (s : State) (p : Agent → Bool) (c : Nat) : (detach s p c).launches = s.launches := rfl
@[simp] theorem detach_frame (s : State) (p : Agent → Bool) (c : Nat) : (detach s p c).frame = s.frame := rfl
@[simp] theorem detach_clusters (s : State) (p : Agent → Bool) (c : Nat) : (detach s p c).clusters = s.clusters := rfl
@[simp] theorem detach_xlate (s : State) (p : Agent → Bool) (c : Nat) : (detach s p c).xlate = s.xlate := rfl
@[simp] theorem detach_mgmt (s : State) (p : Agent → Bool) (c : Nat) : (detach s p c).mgmt = s.mgmt := rfl
@[simp] theorem detach_fw (s : State) (p : Agent → Bool) (c : Nat) : (detach s p c).fw = s.fw := rfl
@[simp] theorem detach_out (s : State) (p : Agent → Bool) (c : Nat) : (detach s p c).out = s.out := rfl
@[simp] theorem detach_dev (s : State) (p : Agent → Bool) (c : Nat) : (detach s p c).dev = s.dev := rfl
@[simp] theorem detach_host (s : State) (p : Agent → Bool) (c : Nat) : (detach s p c).host = s.host := rfl
@[simp] theorem handGiven_ctxs (s : State) (a b : Agent) : (handGiven s a b).ctxs = s.ctxs := rfl
@[simp] theorem handGiven_cores (s : State) (a b : Agent) : (handGiven s a b).cores = s.cores := rfl
@[simp] theorem handGiven_vnpus (s : State) (a b : Agent) : (handGiven s a b).vnpus = s.vnpus := rfl
@[simp] theorem handGiven_launches (s : State) (a b : Agent) : (handGiven s a b).launches = s.launches := rfl
@[simp] theorem handGiven_frame (s : State) (a b : Agent) : (handGiven s a b).frame = s.frame := rfl
@[simp] theorem handGiven_clusters (s : State) (a b : Agent) : (handGiven s a b).clusters = s.clusters := rfl
@[simp] theorem handGiven_xlate (s : State) (a b : Agent) : (handGiven s a b).xlate = s.xlate := rfl
@[simp] theorem handGiven_mgmt (s : State) (a b : Agent) : (handGiven s a b).mgmt = s.mgmt := rfl
@[simp] theorem handGiven_fw (s : State) (a b : Agent) : (handGiven s a b).fw = s.fw := rfl
@[simp] theorem handGiven_out (s : State) (a b : Agent) : (handGiven s a b).out = s.out := rfl
@[simp] theorem handGiven_dev (s : State) (a b : Agent) : (handGiven s a b).dev = s.dev := rfl
@[simp] theorem handGiven_host (s : State) (a b : Agent) : (handGiven s a b).host = s.host := rfl

/-- What a step that has not waited has issued is noted, and nothing else of the state it leaves changes. -/
theorem issued_noted (g : Given) (s t : State) (h : s.run.stuck = false) : issued g s t = noteIssued g t := by simp [issued, h]

/-- R413: what a cycle's tokens leave to be popped in it is what the queue held before. -/
theorem poppable_append (s : State) (c : Nat) (t : Token)
    (h : (ctxAt s c).appended ≠ some (clusterAt s (clusterOf (coreOf c))).cycle) : poppable (appendToken s c t) c = poppable s c := by
  simp [poppable, appendToken, h]

end Sys2Proof.Machine
end

