-- ==== Sys2Proof/Tests/Slice0.lean ====
section
/-!
SUPPORT. Tests: ill-formed terms that the checks refuse, words of the spec's tables (the matches of spec/opcode_table.json with field values put in,
R345's ops), small single steps with results of the spec, and a state that meets the hypotheses of each statement.
-/
open Sys2Proof Sys2Proof.Machine

namespace Sys2Proof.Tests

set_option maxRecDepth 20000
set_option Elab.async false

/-! ## Ill-formed terms -/

theorem test_wf_vnpu : [Instr.guestReset 0, .guestReset 17, .guestResetDone 0, .quotaExhausted 0, .tailWrite 17 0 0, .chargeReturn 0 0 17 0].map (·.wf) =
    [false, false, false, false, false, false] := by decide
theorem test_wf_window : [Instr.windowStart 32, .windowEnd 32, .classAStop 32, .dispatchDecision 32].map (·.wf) = [false, false, false, false] := by decide
theorem test_wf_context : [Instr.eviction 192, .restore 0 192, .overlayLoad 192, .teamRetire 192, .notPresentFault 192 0 0 false false, .sliceAccess 192 0,
    .atomicExecute 192 0, .memoryReply 192 0, .flitDeliver 192 0, .blockedWaitEnd 192, .accumulatorSpill 0 0 192].map (·.wf) =
    List.replicate 11 false := by decide
theorem test_wf_ring : [Instr.tailWrite 0 64 0, .ringEnable 0 64 0, .ringDisable 0 64 0].map (·.wf) = [false, false, false] := by decide
theorem test_wf_queue : [Instr.lqCtlEn 0 16 0, .lqRings 0 16 0, .destroy 0 16, .packetTake 0 16, .launch 0 16, .launchIndirect 0 16, .prologueRun 0 16,
    .wait 0 16, .waitPoll 0 16, .signal 0 16, .pktFence 0 16, .timestamp 0 16, .copy 0 16, .copyPacketComplete 0 16, .destroyDone 0 16, .nop 0 16].map (·.wf) =
    List.replicate 16 false := by decide
theorem test_wf_die : [Instr.prologueBudgetExceeded 2, .bucketRequest 2 0 0 0 0 false].map (·.wf) = [false, false] := by decide
theorem test_wf_point : [Instr.bucketRequest 0 80 0 0 0 false, .bucketRequest 0 0 0 0 202 false].map (·.wf) = [false, false] := by decide
theorem test_wf_core : [Instr.staticCharge 96, .tableWalk 96 0 0, .accumulatorSpill 96 0 0, .engineCommandComplete 96 0, .epilogueRelease 96].map (·.wf) =
    [false, false, false, false, false] := by decide
theorem test_wf_cluster : [Instr.levelRampStep 12, .droopAlarm 12, .droopResponseEnd 12, .ballast 12 0, .slopeConflictStep 12, .gate 12 0,
    .gatingStateChange 12, .wake 12 0].map (·.wf) = List.replicate 8 false := by decide
theorem test_wf_unit : [Instr.accumulatorSpill 0 4 0, .engineCommandComplete 0 6, .flitDeliver 0 4, .tdCmtGo 0 3 0, .notPresentFault 0 0 4 false false,
    .registerWrite 17 0 0 0, .registerWrite 0 1 0 0].map (·.wf) = List.replicate 7 false := by decide
theorem test_wf_field : [Instr.extr 1 1 40 30, .insr 1 1 63 1, .loop 1 0, .loop 1 8192].map (·.wf) = [false, false, false, false] := by decide
theorem test_wf_order : [Instr.amo 1 2 3 .fadd true .plain, .ldacq 1 2 .d (.rel .core), .strel 1 2 .d (.acq .core), .fence .plain].map (·.wf) =
    [false, false, false, false] := by decide
theorem test_wf_lane : (Instr.vadd { laneFieldsOf 0 with pred := 9 }).wf = false ∧ (Instr.mpush { laneFieldsOf 0 with d := 1 }).wf = false := by decide
theorem test_fits : [EventArg.fits .thermalSample noArg, EventArg.fits .powerGrant noArg, EventArg.fits .bar4Access noArg, EventArg.fits .flitReceive noArg,
    EventArg.fits .coreRetirement { noArg with n := 96 }, EventArg.fits .sliceRetirement { noArg with n := 96 }, EventArg.fits .lastingError { noArg with n := 4096 },
    EventArg.fits .frameRemap { noArg with n := 16252928 }, EventArg.fits .linkRetrain { noArg with n := 2 }, EventArg.fits .nakReplay { noArg with m := 1024 },
    EventArg.fits .remoteRequest noArg, EventArg.fits .remoteResponse { noArg with n := 192 }, EventArg.fits .ucieModuleFailure { noArg with n := 16 },
    EventArg.fits .linkTrainingComplete { noArg with m := 1 }, EventArg.fits .migrationPolicyProposal { noArg with m := 4 }] = List.replicate 15 false := by decide

/-! ## Words -/

theorem test_decode_control_1 : ([0x04731100, 0x04731101, 0x04731102, 0x04731103, 0x04731104, 0x04731105, 0x04731106, 0x04731107, 0x04731108,
      0x04731109, 0x0473110A, 0x0473110B, 0x0473110C] : List (BitVec 32)).map decodeControl =
    [.add 7 12 17, .sub 7 12 17, .mul 7 12 17, .mulh 7 12 17, .mulhu 7 12 17, .div 7 12 17, .divu 7 12 17, .rem 7 12 17, .remu 7 12 17,
      .and 7 12 17, .or 7 12 17, .xor 7 12 17, .andn 7 12 17] := by decide

theorem test_decode_control_2 : ([0x0473110D, 0x0473110E, 0x0473110F, 0x04731110, 0x04731111, 0x04731112, 0x04731113, 0x04731114, 0x04731115,
      0x04731116, 0x04731117, 0x04731118, 0x04731119] : List (BitVec 32)).map decodeControl =
    [.orn 7 12 17, .sll 7 12 17, .srl 7 12 17, .sra 7 12 17, .ror 7 12 17, .min 7 12 17, .max 7 12 17, .minu 7 12 17, .maxu 7 12 17,
      .slt 7 12 17, .sltu 7 12 17, .seq 7 12 17, .sel 7 12 17] := by decide

theorem test_decode_control_3 : ([0x0473111D, 0x08730000, 0x08730001, 0x08730002, 0x08730003, 0x08730004, 0x08731105, 0x08731106, 0x0C730456,
      0x10730456, 0x14730011, 0x18730011, 0x1C730011] : List (BitVec 32)).map decodeControl =
    [.shadd 7 12 17 1, .clz 7 12, .ctz 7 12, .popc 7 12, .brev 7 12, .bswap 7 12, .sext 7 12 17, .zext 7 12 17, .extr 7 12 22 17,
      .insr 7 12 22 17, .addi 7 12 17, .andi 7 12 17, .ori 7 12 17] := by decide

theorem test_decode_control_4 : ([0x20730011, 0x24730011, 0x28730011, 0x2C730011, 0x30730011, 0x34730011, 0x3870000C, 0x3C70000C, 0x40730011,
      0x44730011, 0x48730011, 0x4C730011, 0x50730011] : List (BitVec 32)).map decodeControl =
    [.xori 7 12 17, .slti 7 12 17, .sltiu 7 12 17, .slli 7 12 17, .srli 7 12 17, .srai 7 12 17, .lui 7 12, .pcadd 7 12, .beq 7 12 17,
      .bne 7 12 17, .blt 7 12 17, .bge 7 12 17, .bltu 7 12 17] := by decide

theorem test_decode_control_5 : ([0x54730011, 0x58000007, 0x5C000007, 0x60730011, 0x64730011, 0x6870000C, 0x6C000000, 0x70000007, 0x80731016,
      0x84731016, 0x88731016, 0x8C731016, 0x9001F00C] : List (BitVec 32)).map decodeControl =
    [.bgeu 7 12 17, .j 7, .jal 7, .jr 7 12 17, .jtab 7 12 17, .loop 7 12, .lexit, .swp 7, .ld 7 12 .h 22, .st 7 12 .h 22, .ldsp 7 12 .h 22,
      .stsp 7 12 .h 22, .pref 7 12] := by decide

theorem test_decode_control_6 : ([0x94730001, 0x98730001, 0x9C730001, 0xA0731130, 0xA473111B, 0xA8730013, 0xAC01CC16, 0xB0000007, 0xB401C000,
      0xB401C001, 0xB401C002, 0xB401C003, 0xB401C008] : List (BitVec 32)).map decodeControl =
    [.ipref 7 12 1, .ipin 7 12 1, .iunpin 7 12 1, .amo 7 12 17 .and true .plain, .cas 7 12 17 true (.seq .device),
      .ldacq 7 12 .h (.acq .system), .strel 7 12 .h (.rel .system), .fence (.acqRel .core), .tmask 7, .ttrip 7, .tout 7, .tdata 7,
      .lwait 7] := by decide

theorem test_decode_control_7 : ([0xC131159B, 0xC401CC00, 0xC401CC01, 0xC4730002, 0xC401CC03, 0xC401CC04, 0xC401C005, 0xC401C006, 0xC4730007,
      0xC401C008, 0xC4000011, 0xC870000C, 0xCC01C00C] : List (BitVec 32)).map decodeControl =
    [.cmd 1 12 17 22 27, .kwait 7 12, .ksig 7 12, .krd 7 12, .ownx 7 12, .ownw 7 12, .tagwa 7, .tagwl 7, .tagff 7 12, .tagclr 7, .phase true,
      .gets 7 12, .sets 7 12] := by decide

theorem test_decode_control_8 : ([0xD0000007, 0xD4000000, 0xD4000001, 0xD4000002, 0xD8000000, 0xD8000001, 0xD8000002, 0xD8700003, 0xF801CC00,
      0xF801CC01, 0xF801C002, 0xF8000003] : List (BitVec 32)).map decodeControl =
    [.trap 7, .hcallEnd, .hcallQuota, .hcallLevel, .eret, .wfe, .brk, .tstamp 7, .tlbinv 7 12, .tlblk 7 12, .ldovt 7, .halt] := by decide

theorem test_decode_lane_1 : ([0x010102030000006600000000, 0x020102030000006600000000, 0x030102030000006600000000, 0x040102030000006600000000,
      0x050102030000006600000000, 0x060102030000006600000000, 0x070102030000006600000000, 0x080102030000006600000000,
      0x090102030000006600000000, 0x0A0102030000006600000000, 0x0B0102030000006600000000, 0x0C0102030000006600000000,
      0x0D0102030000006600000000] : List (BitVec 96)).map decodeLane =
    [.vadd (laneFieldsOf 0x010102030000006600000000), .vsub (laneFieldsOf 0x020102030000006600000000),
      .vmul (laneFieldsOf 0x030102030000006600000000), .vmulh (laneFieldsOf 0x040102030000006600000000),
      .vmad (laneFieldsOf 0x050102030000006600000000), .vand (laneFieldsOf 0x060102030000006600000000),
      .vor (laneFieldsOf 0x070102030000006600000000), .vxor (laneFieldsOf 0x080102030000006600000000),
      .vshl (laneFieldsOf 0x090102030000006600000000), .vshr (laneFieldsOf 0x0A0102030000006600000000),
      .vsra (laneFieldsOf 0x0B0102030000006600000000), .vmin (laneFieldsOf 0x0C0102030000006600000000),
      .vmax (laneFieldsOf 0x0D0102030000006600000000)] := by decide

theorem test_decode_lane_2 : ([0x0E0102000000006600000000, 0x0F0102000000006600000000, 0x100102000000006600000000, 0x180102030000006600000000,
      0x190102030000000000000000, 0x1A0102000000000000000000, 0x1B0100000000000000000000, 0x1C0100000000000000000000,
      0x1D0100000000000000000000, 0x200102030000000000000000, 0x210102030000000000000000, 0x220102030000000000000000,
      0x230102030000000000000000] : List (BitVec 96)).map decodeLane =
    [.vabs (laneFieldsOf 0x0E0102000000006600000000), .vclz (laneFieldsOf 0x0F0102000000006600000000),
      .vpopc (laneFieldsOf 0x100102000000006600000000), .vcmp (laneFieldsOf 0x180102030000006600000000),
      .vsel (laneFieldsOf 0x190102030000000000000000), .vmov (laneFieldsOf 0x1A0102000000000000000000),
      .vimm (laneFieldsOf 0x1B0100000000000000000000), .vlid (laneFieldsOf 0x1C0100000000000000000000),
      .vtok (laneFieldsOf 0x1D0100000000000000000000), .fadd (laneFieldsOf 0x200102030000000000000000),
      .fsub (laneFieldsOf 0x210102030000000000000000), .fmul (laneFieldsOf 0x220102030000000000000000),
      .ffma (laneFieldsOf 0x230102030000000000000000)] := by decide

theorem test_decode_lane_3 : ([0x240102030000000000000000, 0x250102030000000000000000, 0x260102030000000000000000, 0x270102030000000000000000,
      0x280102030000000000000000, 0x290102000000000000000000, 0x2A0102000000000000000000, 0x2B0102030000000100000000,
      0x2C0102000000000000000000, 0x300102000000000000000000, 0x310102030000000000000000, 0x320102030000000000000000,
      0x330102000000008800000000] : List (BitVec 96)).map decodeLane =
    [.fmin (laneFieldsOf 0x240102030000000000000000), .fmax (laneFieldsOf 0x250102030000000000000000),
      .fsgn (laneFieldsOf 0x260102030000000000000000), .fcmp (laneFieldsOf 0x270102030000000000000000),
      .fdiv (laneFieldsOf 0x280102030000000000000000), .fsqrt (laneFieldsOf 0x290102000000000000000000),
      .fspec (laneFieldsOf 0x2A0102000000000000000000), .fdot2 (laneFieldsOf 0x2B0102030000000100000000),
      .fclass (laneFieldsOf 0x2C0102000000000000000000), .vcvt (laneFieldsOf 0x300102000000000000000000),
      .vqnt (laneFieldsOf 0x310102030000000000000000), .vdqnt (laneFieldsOf 0x320102030000000000000000),
      .vbscale (laneFieldsOf 0x330102000000008800000000)] := by decide

theorem test_decode_lane_4 : ([0x340102030000008800000000, 0x350102030000008800000000, 0x360102000000000000000000, 0x400102030000000000000000,
      0x410102000000000000000000, 0x420102000000000000000000, 0x430102000000000000000000, 0x440102000000000000000000,
      0x450102000000000000000000, 0x460102030000000000000000, 0x470102030000000000000000, 0x500102000000000000000000,
      0x510001000000000000000000] : List (BitVec 96)).map decodeLane =
    [.vbpack (laneFieldsOf 0x340102030000008800000000), .vbunpk (laneFieldsOf 0x350102030000008800000000),
      .vrnd (laneFieldsOf 0x360102000000000000000000), .vperm (laneFieldsOf 0x400102030000000000000000),
      .vrot (laneFieldsOf 0x410102000000000000000000), .vshuf (laneFieldsOf 0x420102000000000000000000),
      .vbcast (laneFieldsOf 0x430102000000000000000000), .vred (laneFieldsOf 0x440102000000000000000000),
      .vscan (laneFieldsOf 0x450102000000000000000000), .vidxr (laneFieldsOf 0x460102030000000000000000),
      .vidxw (laneFieldsOf 0x470102030000000000000000), .vld (laneFieldsOf 0x500102000000000000000000),
      .vst (laneFieldsOf 0x510001000000000000000000)] := by decide

theorem test_decode_lane_5 : ([0x520102000000000000000000, 0x530001000000000000000000, 0x540102000000000000000000, 0x550001000000000000000000,
      0x600000000000000000000000, 0x610001000000000000000000, 0x620000000000000000000000, 0x630000000000000000000000,
      0x640100000000000000000000, 0x650000000000000000000000, 0x700000000000000000000000, 0x710001000000000000000000,
      0x720100000000000000000000] : List (BitVec 96)).map decodeLane =
    [.vldg (laneFieldsOf 0x520102000000000000000000), .vstx (laneFieldsOf 0x530001000000000000000000),
      .vldbc (laneFieldsOf 0x540102000000000000000000), .vstp (laneFieldsOf 0x550001000000000000000000),
      .mpush (laneFieldsOf 0x600000000000000000000000), .mpushq (laneFieldsOf 0x610001000000000000000000),
      .minv (laneFieldsOf 0x620000000000000000000000), .mpop (laneFieldsOf 0x630000000000000000000000),
      .mtoq (laneFieldsOf 0x640100000000000000000000), .mclr (laneFieldsOf 0x650000000000000000000000),
      .vnop (laneFieldsOf 0x700000000000000000000000), .vseed (laneFieldsOf 0x710001000000000000000000),
      .vstat (laneFieldsOf 0x720100000000000000000000)] := by decide

theorem test_decode_commands (c : EngineFields) : [decodeCommand 0 0x01 c, decodeCommand 0 0x02 c, decodeCommand 0 0x03 c,
      decodeCommand 0 0x04 c, decodeCommand 0 0x05 c, decodeCommand 0 0x06 c, decodeCommand 0 0x07 c, decodeCommand 1 0x11 c,
      decodeCommand 1 0x12 c, decodeCommand 1 0x13 c, decodeCommand 1 0x14 c, decodeCommand 1 0x15 c, decodeCommand 1 0x16 c,
      decodeCommand 1 0x17 c, decodeCommand 2 0x21 c, decodeCommand 2 0x22 c, decodeCommand 2 0x23 c, decodeCommand 2 0x24 c] =
    [.mwl c, .mwa c, .mst c, .mep c, .macl c, .masv c, .mars c, .cpl c, .cpw c, .cpg c, .cpx c, .cpf c, .cpr c, .cph c, .clrs c, .clag c,
      .clar c, .clbc c] := rfl

/-! ## A small state, and the hypotheses of statements at it -/

/-- A running team of VNPU 0 in context 0, with two granules, two accumulator sets, seven values in its registers, and the page of the probe. -/
def probeTeam : Ctx :=
  { freshCtx with phase := .running, gran := [0, 1], accs := [0, 1], pc := 0x100
                  regs := [(1, 5), (2, 7), (4, 0xFFFFFFFFFFFFFFFF), (5, 0x40), (6, 0x2000), (7, 3), (8, 0x12)] }

/-- The state whose context c is x and runs now. -/
def placed (c : Nat) (x : Ctx) : State :=
  let s := modCore (setCtx State.reset c x) (coreOf c) fun k => { k with tlb := [probePage] }
  { s with run := { s.run with inputs := [], cur := c } }

def probe : State := placed 0 probeTeam

/-- The next state of an outcome, or s. -/
def stateAfter (s : State) (i : Instr) : State := match Machine.exec i s with | .next t => t | _ => s

def regAfter (s : State) (i : Instr) (r : Nat) : Word := mget (curCtx (stateAfter s i)).regs r 0

/-- `Reads`, as a check. -/
def readsCheck (s : State) (srcs : List Reg) (d : Option Reg) (vs : List Word) (tk : SMap Nat) : Bool :=
  decide ((curCtx s).drain = .off) && !isPrologue s.run.cur && srcs.all (fun r => decide (r.toNat < 60)) &&
  (match d with
   | some r => decide (r.toNat < 56) || (decide (60 ≤ r.toNat) && portOpen (curCtx s) r.toNat && !portFull s s.run.cur r.toNat)
   | none => true) &&
  (srcs ++ d.toList).all (fun r => decide (mfind (curCtx s).busy r.toNat = none)) &&
  decide (sources s.run.cur (curCtx s) (srcs.map (·.toNat)) = some (vs, tk))

theorem reads_of_check (i : Instr) (s : State) (srcs : List Reg) (d : Option Reg) (vs : List Word) (tk : SMap Nat)
    (h : readsCheck s srcs d vs tk = true) : Reads i s srcs d vs tk := by
  simp only [readsCheck, Bool.and_eq_true, decide_eq_true_eq, List.all_eq_true, Bool.not_eq_true'] at h
  obtain ⟨⟨⟨⟨⟨h1, h2⟩, h3⟩, h4⟩, h5⟩, h6⟩ := h
  refine ⟨h1, fun hp => by simp [hp] at h2, h3, ?_, h5, h6⟩
  rintro r rfl
  simpa [and_assoc] using h4

theorem wit_reads_two (i : Instr) : Reads i probe [1, 2] (some 3) [5, 7] [] := reads_of_check _ _ _ _ _ _ (by decide)
theorem wit_reads_one (i : Instr) : Reads i probe [2] (some 3) [7] [] := reads_of_check _ _ _ _ _ _ (by decide)
theorem wit_reads_none (i : Instr) : Reads i probe [] (some 3) [] [] := reads_of_check _ _ _ _ _ _ (by decide)
theorem wit_reads_old (i : Instr) : Reads i probe [1, 2, 3] (some 3) [5, 7, 0] [] := reads_of_check _ _ _ _ _ _ (by decide)
theorem wit_reads_to_zero (i : Instr) : Reads i probe [0, 2] (some 0) [0, 7] [] := reads_of_check _ _ _ _ _ _ (by decide)
theorem wit_reads_nothing (i : Instr) : Reads i probe [] none [] [] := reads_of_check _ _ _ _ _ _ (by decide)
theorem wit_reads_link (i : Instr) : Reads i probe [] (some 55) [] [] := reads_of_check _ _ _ _ _ _ (by decide)
theorem wit_reads_compare (i : Instr) : Reads i probe [1, 2] none [5, 7] [] := reads_of_check _ _ _ _ _ _ (by decide)
theorem wit_reads_flit (i : Instr) :
    Reads i (placed 0 { probeTeam with rx := [(1, [9])] }) [57] (some 3) [9] [(1, 1)] := reads_of_check _ _ _ _ _ _ (by decide)
theorem wit_reads_port (i : Instr) :
    Reads i (placed 0 { probeTeam with linked := true, nteams := 2, mdst := [(3, 0x80000001)] }) [1] (some 63) [5] [] :=
  reads_of_check _ _ _ _ _ _ (by decide)

/-! ## Single instructions of the sequencer -/

theorem test_add_wraps : regAfter probe (.add 3 4 2) 3 = 6 := by decide +kernel
theorem test_sub_into_source : regAfter probe (.sub 1 1 2) 1 = 0xFFFFFFFFFFFFFFFE := by decide +kernel
theorem test_mulh_signs : regAfter probe (.mulh 3 4 2) 3 = 0xFFFFFFFFFFFFFFFF := by decide +kernel
theorem test_mulhu_signs : regAfter probe (.mulhu 3 4 2) 3 = 6 := by decide +kernel
theorem test_div_by_zero : regAfter probe (.div 3 1 0) 3 = 0xFFFFFFFFFFFFFFFF := by decide +kernel
theorem test_rem_by_zero : regAfter probe (.rem 3 1 0) 3 = 5 := by decide +kernel
theorem test_sra_negative : regAfter probe (.sra 3 4 1) 3 = 0xFFFFFFFFFFFFFFFF := by decide +kernel
theorem test_sll_amount_modulo_64 : regAfter probe (.sll 3 1 5) 3 = 5 := by decide +kernel
theorem test_slt_signed : regAfter probe (.slt 3 4 1) 3 = 1 := by decide +kernel
theorem test_sltu_unsigned : regAfter probe (.sltu 3 4 1) 3 = 0 := by decide +kernel
theorem test_clz_zero : regAfter probe (.clz 3 0) 3 = 64 := by decide +kernel
theorem test_bswap : regAfter probe (.bswap 3 1) 3 = 0x0500000000000000 := by decide +kernel
theorem test_insr : regAfter probe (.insr 2 1 8 3) 2 = 0x507 := by decide +kernel
theorem test_sext_width_8 : regAfter { probe with ctxs := mput probe.ctxs 0 { probeTeam with regs := [(1, 0x80), (2, 8)] } } (.sext 3 1 2) 3 =
    0xFFFFFFFFFFFFFF80 := by decide +kernel
theorem test_addi_negative : regAfter probe (.addi 3 1 0x3FFF) 3 = 4 := by decide +kernel
theorem test_lui_negative : regAfter probe (.lui 3 0x80000) 3 = 0xFFFFFFFE00000000 := by decide +kernel
theorem test_register_zero : regAfter probe (.add 0 1 2) 0 = 0 := by decide +kernel

theorem test_branch_back : (curCtx (stateAfter probe (.beq 1 1 0x3FFF))).pc = 0xFC := by decide +kernel
theorem test_jal_links : regAfter probe (.jal 4) 55 = 0x104 ∧ (curCtx (stateAfter probe (.jal 4))).pc = 0x110 := by decide +kernel
theorem test_loop_enters : (curCtx (stateAfter probe (.loop 2 4))).loops = [{ la := 0x100, b := 0x104, e := 0x114, rem := 7 }] := by decide +kernel
theorem test_loop_zero_skips : (curCtx (stateAfter probe (.loop 0 4))).pc = 0x114 := by decide +kernel
/-- R373: the last instruction of a body goes back to its first. -/
theorem test_loop_repeats :
    (curCtx (stateAfter (placed 0 { probeTeam with pc := 0x110, loops := [{ la := 0x100, b := 0x104, e := 0x114, rem := 2 }] }) (.add 3 1 2))).pc = 0x104 := by
  decide +kernel
theorem test_ttrip_queued : (curCtx (stateAfter probe (.ttrip 2))).ctlq = [{ kind := 1, payload := 7 }] := by decide +kernel
theorem test_ksig_adds : mget (curCtx (stateAfter probe (.ksig 3 2))).k 3 0 = 7 := by decide +kernel
theorem test_tagff_none : regAfter probe (.tagff 3 1) 3 = 64 := by decide +kernel
theorem test_gets_version : regAfter probe (.gets 3 0) 3 = 0x10000 := by decide +kernel
theorem test_gets_unknown_traps : (curCtx (stateAfter probe (.gets 3 0x3FFF))).phase = .empty := by decide +kernel
theorem test_misaligned_load_traps : (mget (vnpuAt (stateAfter probe (.ld 3 1 .d 0)) 0).tf 0 []).take 2 = [0x17, 0] := by decide +kernel
theorem test_load_issues : ((curCtx (stateAfter probe (.ld 3 5 .d 1))).mem.map fun p => (p.va, p.pa, p.bytes, p.dst)) = [(0x48, 0x4048, 8, 3)] := by decide +kernel
theorem test_stsp_ldsp : regAfter (stateAfter probe (.stsp 8 5 .b 0)) (.ldsp 3 5 .h 0) 3 = 0x12 := by decide +kernel
theorem test_ldsp_outside_traps : (mget (vnpuAt (stateAfter probe (.ldsp 3 6 .d 0)) 0).tf 0 []).take 2 = [0x20, 0] := by decide +kernel
theorem test_trap_is_a_notice : (mget (vnpuAt (stateAfter probe (.trap 5)) 0).tf 0 []).take 2 = [3, 1] ∧ (curCtx (stateAfter probe (.trap 5))).pc = 0x104 := by decide +kernel
theorem test_eret_of_a_team_traps : (mget (vnpuAt (stateAfter probe .eret) 0).tf 0 []).take 2 = [1, 0] := by decide +kernel
/-- R379, R404: a fault on a firmware core, and the return. -/
theorem test_firmware_fault_and_return :
    let s := placed 192 { freshCtx with phase := .running, pc := 0x200, tvec := 0x800 }
    (curCtx (stateAfter s (.trap 9))).pc = 0x800 ∧ (curCtx (stateAfter s (.trap 9))).epc = 0x204 ∧ (curCtx (stateAfter (stateAfter s (.trap 9)) .eret)).pc = 0x204 := by decide +kernel
theorem test_guest_privilege : (mget (vnpuAt (stateAfter (placed 0 { probeTeam with v := 1 }) (.ldovt 1)) 1).tf 0 []).take 2 = [2, 0] := by decide +kernel
theorem test_cmd_queues : ((mget (curCtx (stateAfter probe (.cmd 0 1 2 5 0))).cmdq 0 []).map (·.cmd)) = [.macl { flags := 0, wa := 5, wb := 7 }] := by decide +kernel
theorem test_hcall_level : regAfter { probe with clusters := [(0, { freshCluster with level := 6 })] } .hcallLevel 2 = 6 := by decide +kernel
theorem test_tstamp : regAfter { probe with tick := 77 } (.tstamp 3) 3 = 77 := by decide +kernel

/-! ## States that meet the hypotheses of the statements: the sequencer -/

theorem wit_RegisterArithmeticResults (i : Instr) :
    Reads i probe [1, 2] (some 3) [5, 7] [] ∧ Reads i probe [2] (some 3) [7] [] ∧ Reads i probe [1, 2, 3] (some 3) [5, 7, 0] [] ∧
    Reads i probe [] (some 3) [] [] ∧ (8#6).toNat + (3#6).toNat + 1 ≤ 64 :=
  ⟨wit_reads_two i, wit_reads_one i, wit_reads_old i, wit_reads_none i, by decide⟩
theorem wit_DivisionResults (i : Instr) : Reads i probe [1, 0] (some 3) [5, 0] [] ∧ Reads i probe [1, 2] (some 3) [5, 7] [] ∧
    Reads i (placed 0 { probeTeam with regs := [(1, 0x8000000000000000), (2, 0xFFFFFFFFFFFFFFFF)] }) [1, 2] (some 3)
      [0x8000000000000000, 0xFFFFFFFFFFFFFFFF] [] :=
  ⟨reads_of_check _ _ _ _ _ _ (by decide), wit_reads_two i, reads_of_check _ _ _ _ _ _ (by decide)⟩
theorem wit_BranchesAndJumps (i : Instr) : Reads i probe [1, 1] none [5, 5] [] ∧ Reads i probe [1, 2] none [5, 7] [] ∧ Reads i probe [] (some 55) [] [] ∧
    Reads i probe [5] (some 3) [0x40] [] ∧ (0x40#64).toNat % 4 = 0 ∧ Reads i probe [1] (some 3) [5] [] ∧ (5#64).toNat % 4 ≠ 0 :=
  ⟨reads_of_check _ _ _ _ _ _ (by decide), wit_reads_compare i, wit_reads_link i, reads_of_check _ _ _ _ _ _ (by decide), by decide,
    reads_of_check _ _ _ _ _ _ (by decide), by decide⟩

def loopEntry (n : Nat) : LoopEntry := { la := BitVec.ofNat 64 (0x40 + n), b := 0x80, e := 0x1000, rem := 2 }

theorem wit_LoopsAndTheirEnds (i : Instr) :
    let within := placed 0 { probeTeam with loops := [{ la := 0xC0, b := 0xC4, e := 0x110, rem := 2 }] }
    let full := placed 0 { probeTeam with loops := (List.range 8).map loopEntry }
    Reads i within [1] none [5] [] ∧ (0xC4 ≤ (curCtx within).pc.toNat ∧ (curCtx within).pc.toNat < 0x110 ∧ 0x110 < 0x114) ∧
    Reads i probe [0] none [0] [] ∧ Reads i probe [1] none [5] [] ∧ (curCtx probe).loops = [] ∧
    Reads i full [1] none [5] [] ∧ (curCtx full).loops.length = 8 ∧ ¬ ((loopEntry 0).e.toNat < 0x114) ∧ Reads i full [] none [] [] ∧
    (ctxAt probe 0).drain = .off :=
  ⟨reads_of_check _ _ _ _ _ _ (by decide), by decide, reads_of_check _ _ _ _ _ _ (by decide), reads_of_check _ _ _ _ _ _ (by decide), by decide,
    reads_of_check _ _ _ _ _ _ (by decide), by decide, by decide, reads_of_check _ _ _ _ _ _ (by decide), by decide⟩
theorem wit_RegisterInstructionFrame : (curCtx probe).drain = .off ∧ (3#6).toNat < 56 ∧ 60 ≤ (63#6).toNat := by decide

theorem probe_still (k : Nat) (pa : Nat) : ∀ m ∈ probe.mgmt.moving, k ≠ 0 ∨ pa < m.pa ∨ m.pa + 2 ^ pageBits m.size ≤ pa := by
  intro m h
  have : probe.mgmt.moving = [] := by decide
  simp [this] at h

theorem wit_MemoryInstructions (i : Instr) :
    Reads i probe [5] (some 3) [0x40] [] ∧ Reads i probe [5, 1] none [0x40, 5] [] ∧ Reads i probe [5] none [0x40] [] ∧
    Reads i probe [5, 1] (some 3) [0x40, 5] [] ∧ Reads i probe [5, 1, 3] (some 3) [0x40, 5, 0] [] ∧
    MayIssue probe .load 0x40 8 .plain 0 0 0x4040 ∧ MayIssue probe .store 0x40 8 .plain 0 0 0x4040 ∧ MayIssue probe .pref 0x40 1 .plain 0 0 0x4040 ∧
    MayIssue probe (.amo .fadd) 0x40 4 .plain 0 0 0x4040 ∧ MayIssue probe .cas 0x40 8 .plain 0 0 0x4040 ∧
    MayIssue probe .ldacq 0x40 8 (.acq .device) 0 0 0x4040 ∧ MayIssue probe .strel 0x40 8 (.rel .device) 0 0 0x4040 := by
  repeat' apply And.intro
  all_goals first
    | exact reads_of_check i _ _ _ _ _ (by decide)
    | exact ⟨by decide, by decide, by decide, by decide, by decide, by decide +kernel, probe_still _ _⟩
theorem wit_MemoryInstructions_fence (i : Instr) : Reads i probe [] none [] [] ∧ (curCtx probe).mem = [] ∧
    (let s := stateAfter probe (.ld 3 5 .d 0)
     Reads i s [] none [] [] ∧ ∃ p ∈ (curCtx s).mem, fenceCore (.seq .device) = false ∧ releases (.seq .device) = true) :=
  ⟨wit_reads_nothing i, by decide, reads_of_check _ _ _ _ _ _ (by decide +kernel), by decide +kernel⟩
theorem wit_AlignmentAndScratchpadTraps (i : Instr) : Reads i probe [1] (some 3) [5] [] ∧ (5#64).toNat % sizeBytes .h ≠ 0 ∧ Reads i probe [1, 2] none [5, 7] [] ∧
    Reads i probe [1, 2] (some 3) [5, 7] [] ∧ Reads i probe [1, 2, 3] (some 3) [5, 7, 0] [] ∧ isTeam probe.run.cur = true ∧
    Reads i probe [6] (some 3) [0x2000] [] ∧ 4096 * (curCtx probe).gran.length ≤ (0x2000#64).toNat ∧ Reads i probe [6, 1] none [0x2000, 5] [] :=
  ⟨reads_of_check _ _ _ _ _ _ (by decide), by decide, wit_reads_compare i, wit_reads_two i, wit_reads_old i, by decide,
    reads_of_check _ _ _ _ _ _ (by decide), by decide, reads_of_check _ _ _ _ _ _ (by decide)⟩
theorem wit_ScratchpadAndResidency_scratchpad (i : Instr) :
    let s := placed 0 { probeTeam with regs := [(1, 5), (5, 0x1FF8)] }
    Reads i s [5] (some 3) [0x1FF8] [] ∧ Reads i s [5, 1] none [0x1FF8, 5] [] ∧ isTeam s.run.cur = true ∧
    (0x1FF8#64).toNat + 8 = 4096 * (curCtx s).gran.length ∧ granuleOwner s 0 (0x1FF8 / 4096) = 0 ∧
    (∀ k < 8, laneStoreOpen (curCtx s) (0x1FF8 + k) = false) ∧ Memory.wf (coreAt s 0).scratch = true :=
  ⟨reads_of_check _ _ _ _ _ _ (by decide), reads_of_check _ _ _ _ _ _ (by decide), by decide, by decide, by decide, by decide, by decide⟩
/-- A team whose control text lies at 0x2000, in the page of the probe. -/
def texted : State := placed 0 { probeTeam with hdr := { noHeader with ctext := 0x2000, clen := 0x1000 } }

/-- IPREF, IPIN and IUNPIN of one line complete with neither flag. -/
theorem wit_ScratchpadAndResidency_flags :
    let pinned := stateAfter texted (.ipin 5 6 0)
    textOf (curCtx texted) 0x2000 = some false ∧ (curCtx (stateAfter texted (.ipref 5 6 0))).skip = false ∧
    (curCtx pinned).skip = false ∧ (curCtx pinned).pinov = false ∧
    ((coreAt pinned 0).icache.map fun e => (e.addr, e.pins)) = [(0x2000, [0])] ∧
    (curCtx (stateAfter pinned (.iunpin 5 6 0))).skip = false ∧ ((coreAt (stateAfter pinned (.iunpin 5 6 0)) 0).icache.map fun e => (e.addr, e.pins)) = [(0x2000, [])] := by
  decide +kernel
theorem wit_ScratchpadAndResidency_residency (i : Instr) : Reads i probe [6, 5] none [0x2000, 0x40] [] ∧ isTeam probe.run.cur = true ∧ (0x40#64).toNat ≤ 2 ^ 20 ∧
    ∃ line, linesOf 0x2000 0x40 = [line] :=
  ⟨reads_of_check _ _ _ _ _ _ (by decide), by decide, by decide, ⟨_, rfl⟩⟩
theorem wit_TokensAndWaits (i : Instr) : Reads i probe [1] none [5] [] ∧ isTeam probe.run.cur = true ∧ queueTakes probe 0 0 = true ∧
    (5#64).toNat < 2 ^ 32 ∧ Reads i probe [4] none [0xFFFFFFFFFFFFFFFF] [] ∧ 2 ^ 32 ≤ (0xFFFFFFFFFFFFFFFF#64).toNat ∧ Reads i probe [] none [] [] ∧
    Reads i (placed 0 { probeTeam with regs := [(1, 0x101), (2, 0x200)] }) [1, 0] none [0x101, 0] [] ∧
    wbits 0x101 15 8 = 1 ∧ wbits 0x101 7 0 + 1 = (curCtx probe).gran.length ∧ wbits 0x200 15 8 ≠ 0 ∧
    Reads i (placed 0 { probeTeam with regs := [(1, 0x101), (2, 0x200)] }) [2, 0] none [0x200, 0] [] ∧ Reads i probe [0, 0] none [0, 0] [] :=
  ⟨reads_of_check _ _ _ _ _ _ (by decide), by decide, by decide +kernel, by decide, reads_of_check _ _ _ _ _ _ (by decide), by decide, wit_reads_nothing i,
    reads_of_check _ _ _ _ _ _ (by decide), by decide, by decide, by decide, reads_of_check _ _ _ _ _ _ (by decide), reads_of_check _ _ _ _ _ _ (by decide)⟩
theorem wit_CountersCommandsAndPhases (i : Instr) :
    let s := placed 0 { probeTeam with regs := [(1, 0x101), (2, 2)] }
    let r := placed 0 { probeTeam with linked := true, nteams := 1 }
    Reads i probe [2] none [7] [] ∧ Reads i probe [] (some 3) [] [] ∧ Reads i probe [1] (some 3) [5] [] ∧ Reads i s [1, 2] none [0x101, 2] [] ∧
    wbits 2 1 0 ≠ 0 ∧ wbits 0x101 15 8 ≠ 0 ∧ wbits 0x101 7 0 + wbits 0x101 15 8 ≤ (curCtx s).gran.length ∧
    (∀ k < wbits 0x101 15 8, granuleOwner s 0 (wbits 0x101 7 0 + k) = 0) ∧ (curCtx s).gran.Nodup ∧
    Reads i probe [1, 2] none [5, 7] [] ∧ queueTakes probe 0 3 = true ∧ (curCtx probe).mem = [] ∧ (curCtx probe).linked = false ∧
    Reads i r [] none [] [] ∧ (curCtx r).linked = true ∧ (curCtx r).mem = [] ∧ r.xlate.rsEn = false :=
  ⟨reads_of_check _ _ _ _ _ _ (by decide), wit_reads_none i, reads_of_check _ _ _ _ _ _ (by decide), reads_of_check _ _ _ _ _ _ (by decide), by decide, by decide,
    by decide, by decide, by decide, wit_reads_compare i, by decide +kernel, by decide, by decide, reads_of_check _ _ _ _ _ _ (by decide), by decide, by decide, by decide⟩
theorem wit_SystemRegisters (i : Instr) : Reads i probe [] (some 3) [] [] ∧ Reads i probe [1] none [5] [] ∧ isTeam probe.run.cur = true ∧ (curCtx probe).v = 0 ∧
    Reads i (placed 0 { probeTeam with v := 16 }) [1] none [5] [] ∧ (curCtx (placed 0 { probeTeam with v := 16 })).v ≠ 0 :=
  ⟨wit_reads_none i, reads_of_check _ _ _ _ _ _ (by decide), by decide, by decide, reads_of_check _ _ _ _ _ _ (by decide), by decide⟩

def firmware (inh : Bool) : State := placed 192 { freshCtx with phase := .running, pc := 0x200, tvec := 0x800, inh := inh, regs := [(1, 0x40), (2, 7)] }

theorem wit_SystemRegisters_firmware (i : Instr) : Reads i (firmware false) [] (some 3) [] [] ∧ Reads i (firmware false) [1] none [0x40] [] ∧
    isFw (firmware false).run.cur = true := ⟨reads_of_check _ _ _ _ _ _ (by decide), reads_of_check _ _ _ _ _ _ (by decide), by decide⟩
theorem wit_TrapsAndFaults (i : Instr) : Reads i probe [] none [] [] ∧ isTeam probe.run.cur = true ∧ Reads i (firmware false) [] none [] [] ∧
    isFw (firmware false).run.cur = true := ⟨wit_reads_nothing i, by decide, reads_of_check _ _ _ _ _ _ (by decide), by decide⟩
theorem wit_FirmwareCores (i : Instr) : Reads i (firmware false) [1] (some 3) [0x40] [] ∧ Reads i (firmware false) [1, 2] none [0x40, 7] [] ∧
    isFw (firmware false).run.cur = true ∧ Memory.wf (firmware false).dev = true ∧ Memory.wf (sramView (firmware false) 0) = true ∧
    (ctxAt (firmware false) 192).inh = false ∧ (ctxAt (firmware true) 192).inh = true ∧ Reads i (firmware true) [] none [] [] ∧
    ((0x40#64) + (0#12).signExtend 64 * BitVec.ofNat 64 (sizeBytes .d)).toNat % sizeBytes .d = 0 :=
  ⟨reads_of_check _ _ _ _ _ _ (by decide), reads_of_check _ _ _ _ _ _ (by decide), by decide, by decide, by decide, by decide, by decide,
    reads_of_check _ _ _ _ _ _ (by decide), by decide⟩
/-- Wherever the SRAM and the boot mailboxes stand, there are addresses of the SRAM, of a mailbox and of device memory. -/
theorem wit_FirmwareCores_addresses : (∃ va, sramOff va = some 0) ∧ (∃ va, sramOff va = none ∧ bootMailOff va = some (0, 0)) ∧
    (∃ va, sramOff va = none ∧ bootMailOff va = none) := by
  have at' : ∀ o n : Nat, o < 2 ^ 46 → ∃ va, ∀ base, base = n → offsetFrom base va = o := fun o n h =>
    ⟨BitVec.ofNat 64 ((n + o) % 2 ^ 46), fun b hb => by subst hb; simp only [offsetFrom, BitVec.toNat_ofNat]; omega⟩
  generalize hn : 64 * Config.sramAt = n at *
  have pair : ∀ (m o : Nat), o < 2 ^ 46 → m < 2 ^ 46 → ∃ va, offsetFrom n va = o ∧ offsetFrom (n + 2097152 + m) va = (o + 2 ^ 47 - (2097152 + m)) % 2 ^ 46 :=
    fun m o ho hm => ⟨BitVec.ofNat 64 ((n + o) % 2 ^ 46), by simp only [offsetFrom, BitVec.toNat_ofNat]; omega, by
      simp only [offsetFrom, BitVec.toNat_ofNat]; omega⟩
  have hk : Config.bootMailAt % ((2 ^ 46 - 2097152 - 64 * 192) / 64) < (2 ^ 46 - 2097152 - 64 * 192) / 64 := Nat.mod_lt _ (by decide)
  simp only [sramOff, bootMailOff, hn]
  generalize Config.bootMailAt % ((2 ^ 46 - 2097152 - 64 * 192) / 64) = k at *
  refine ⟨?_, ?_, ?_⟩
  · obtain ⟨va, h, -⟩ := pair 0 0 (by decide) (by decide)
    exact ⟨va, by simp [h]⟩
  · obtain ⟨va, h, g⟩ := pair (64 * k) (2097152 + 64 * k) (by omega) (by omega)
    refine ⟨va, ?_, ?_⟩
    · rw [h, if_neg (by omega)]
    · rw [g, show (2097152 + 64 * k + 2 ^ 47 - (2097152 + 64 * k)) % 2 ^ 46 = 0 by omega]; decide
  · by_cases hz : k = 0
    · obtain ⟨va, h, g⟩ := pair (64 * k) (2097152 + 12288) (by omega) (by omega)
      refine ⟨va, by rw [h, if_neg (by omega)], ?_⟩
      rw [g, if_neg (by omega)]
    · obtain ⟨va, h, g⟩ := pair (64 * k) 2097152 (by omega) (by omega)
      refine ⟨va, by rw [h, if_neg (by omega)], ?_⟩
      rw [g, if_neg (by omega)]

/-- A team in drain mode, whose branches point back and whose control queue is full. -/
def draining (d : Drain) : State :=
  placed 0 { probeTeam with drain := d, regs := [(1, 0x104)], qmin := [(0, 1)], qcap := [(0, 1)], ctlq := [{ kind := 0, payload := 0 }] }

theorem wit_DrainStubs (i : Instr) : Reads i probe [] none [] [] ∧ isTeam probe.run.cur = true ∧ (curCtx probe).mem = [] ∧
    (curCtx (placed 0 { probeTeam with drain := .save 1023 })).drain = .save 1023 ∧
    (curCtx (placed 0 { probeTeam with drain := .restore 0 })).drain = .restore 0 ∧
    (∃ y, mfind { probe with stubs := [(0, probeTeam)] }.stubs 0 = some y) := ⟨wit_reads_nothing i, by decide, by decide, by decide, by decide, ⟨_, rfl⟩⟩
theorem wit_DrainStubs_traps : (curCtx (draining (.save 1024))).drain = .save 1024 ∧ (curCtx (draining (.restore 1023))).drain = .restore 1023 ∧
    (encodeControl (.add 3 1 2)).isSome = true ∧ (0#14).toInt ≤ 0 ∧ (0#26).toInt ≤ 0 ∧
    (let x := curCtx (draining (.save 0))
     let at' := mget x.regs 1 0 + (0x3FFF#14).signExtend 64 * 4
     at'.toNat % 4 = 0 ∧ (endCheck x.loops at').2.toNat ≤ x.pc.toNat ∧ mfind x.busy 1 = none) ∧
    queueTakes (draining (.save 0)) 0 0 = false := by decide +kernel
theorem wit_CallsTimeAndPrivilege (i : Instr) :
    let g := placed 0 { probeTeam with v := 1 }
    Reads i probe [] none [] [] ∧ Reads i g [] none [] [] ∧ (curCtx g).v ≠ 0 ∧ Reads i probe [] (some 3) [] [] ∧ isTeam g.run.cur = true ∧
    Reads i probe [1] none [5] [] ∧ ovtLegal 0x115 = true ∧ ovtLegal 3 = false ∧ Reads i probe [1, 2] none [5, 7] [] ∧ (∀ l, accessThrough (curCtx probe) l = false) ∧
    (∀ l, accessThrough (ctxAt probe (otherBank 0)) l = false) ∧ (∀ l, requestThrough probe (agentOn 0) l = false) ∧ (7#64).toNat % 32 ≤ 16 ∧ Reads i probe [1, 8] none [5, 0x12] [] ∧ 16 < (0x12#64).toNat % 32 ∧
    Reads i (firmware false) [] none [] [] ∧ isFw (firmware false).run.cur = true :=
  ⟨wit_reads_nothing i, reads_of_check _ _ _ _ _ _ (by decide), by decide, wit_reads_none i, by decide, reads_of_check _ _ _ _ _ _ (by decide), by decide, by decide,
    wit_reads_compare i, fun _ => rfl, fun _ => rfl, fun _ => rfl, by decide, reads_of_check _ _ _ _ _ _ (by decide), by decide, reads_of_check _ _ _ _ _ _ (by decide), by decide⟩

/-- A team that has left a wait, and whose instruction's condition does not hold: r1 5, r9 names granule 0. -/
def left (w : Wait) : State := placed 0 { probeTeam with leftWait := w, regs := [(1, 5), (9, 0x100)], ctb := 0, lanes := { freshLanes with sects := [{ num := 1, hdr := 0, first := 8, stop := 20, trips := 1, full := false, last := false, landed := 0 }] } }
theorem wit_TokensAndWaits_left (i : Instr) (w : Wait) (h : w = .lwait ∨ w = .kwait ∨ w = .tag ∨ w = .ownw) :
    let x := curCtx (left w)
    Reads i (left w) [1] none [5] [] ∧ Reads i (left w) [9, 1] none [0x100, 5] [] ∧ x.leftWait = w ∧
    ¬ ((x.lanes.any = true ∧ x.lanes.num = 5) ∨ laneIdleBit x = true) ∧ ¬ ((mget x.k 0 0 - (5#64).extractLsb' 0 32).toNat < 2 ^ 31) ∧ x.ctb.getLsbD 0 = false ∧
    wbits 0x100 15 8 ≠ 0 ∧ wbits 0x100 7 0 + wbits 0x100 15 8 ≤ x.gran.length ∧ granuleOwner (left w) 0 0 ≠ wbits 5 1 0 := by
  rcases h with rfl | rfl | rfl | rfl <;>
  exact ⟨reads_of_check i _ _ _ _ _ (by decide), reads_of_check i _ _ _ _ _ (by decide), by decide⟩

/-- VNPU 0 with a translation table at 0x8000, whose one leaf maps page 0 (to host memory). -/
def mapped (s : State) : State := { s with xlate := { s.xlate with td := [(0, 0x8081)] }, dev := writeBytes s.dev 0x8000 (natLe 8 0x10011F) }

theorem wit_CallsTimeAndPrivilege_lock : walk (mapped probe) (7 - 7) 5 = .ok 0 0x10011F ∧ (mapped probe).mgmt.moving = [] ∧
    lockedCount (coreAt (mapped probe) 0).tlb < 192 ∧ loadsInto probe [2] = false ∧ loadsInto probe [2, 3] = false := by decide +kernel

theorem wit_SwitchPointsAndJumpTables (i : Instr) : Reads i probe [1, 5] (some 5) [5, 0x40] [] ∧ (5#13).toNat ≤ (5#64).toNat ∧ (5#64).toNat < (6#13).toNat ∧
    ((0x40#64) + 4 * 5).toNat % 4 = 0 ∧ (∃ u, ∀ f, readNow probe 0 0x40 4 f = f u 0) ∧ Reads i probe [1, 2] (some 2) [5, 7] [] ∧ ((7#64) + 4 * 5).toNat % 4 ≠ 0 ∧
    Reads i probe [] none [] [] ∧ (curCtx probe).swpLatch = none ∧ (curCtx probe).hdr.nsw ≤ (0#20).toNat ∧ Reads i (firmware false) [] none [] [] ∧
    isTeam (firmware false).run.cur = false :=
  ⟨reads_of_check _ _ _ _ _ _ (by decide), by decide, by decide, by decide, ⟨_, fun _ => rfl⟩, reads_of_check _ _ _ _ _ _ (by decide), by decide,
    wit_reads_nothing i, by decide, by decide, reads_of_check _ _ _ _ _ _ (by decide), by decide⟩

def switching (l : Option Nat) : State := placed 0 { probeTeam with hdr := { noHeader with nsw := 1, swtab := 0x40 }, sched := 2, swpLatch := l }

theorem wit_SwitchPointTaken (i : Instr) (l : Option Nat) (hl : l = none ∨ l = some 0 ∨ l = some 4) :
    Reads i (switching l) [] none [] [] ∧ isTeam (switching l).run.cur = true ∧ (curCtx (switching l)).swpLatch = l ∧
    (0#20).toNat < (curCtx (switching l)).hdr.nsw ∧ schedOf (curCtx (switching l)).hdr (clusterAt (switching l) 0).level = 0 ∧ (curCtx (switching l)).sched = 2 ∧
    (∃ s1 s2 s3 s4, (∀ f, readNow (switching l) 0 0x40 8 f = f s1 0) ∧ (∀ f, readNow s1 0 0x48 8 f = f s2 0) ∧ (∀ f, readNow s2 0 0x50 8 f = f s3 0) ∧
      (∀ f, readNow s3 0 0x58 8 f = f s4 0) ∧ s4.run.cur = 0 ∧ (ctxAt s4 0).ctlq = [] ∧ (ctxAt s4 0).lanes.sects = [] ∧ (ctxAt s4 0).lanes.retiring = []) ∧
    (curCtx (switching l)).ctlq = [] ∧ (curCtx (switching l)).lanes.sects = [] ∧ (curCtx (switching l)).lanes.retiring = [] ∧
    (let s := placed 0 { probeTeam with ctlq := [{ kind := 0, payload := 0 }], swpLatch := some 4 }; (curCtx s).ctlq ≠ []) := by
  rcases hl with rfl | rfl | rfl <;>
  exact ⟨reads_of_check _ _ _ _ _ _ (by decide), by decide, by decide, by decide, by decide, by decide, ⟨_, _, _, _, fun _ => rfl, fun _ => rfl, fun _ => rfl,
    fun _ => rfl, by decide +kernel, by decide +kernel, by decide +kernel, by decide +kernel⟩, by decide, by decide, by decide, by decide⟩

/-! ## Lanes -/

/-- A team inside lane section 1, whose lanes hold their number plus 1 in register 1. -/
def laneTeam : Ctx :=
  { probeTeam with lanes := { freshLanes with regs := (List.range 64).map (fun i => (256 * i + 1, BitVec.ofNat 32 (i + 1))), pos := 8,
                                              sects := [{ num := 1, hdr := 0, first := 8, stop := 20, trips := 1, full := false, last := false, landed := 0 }] } }
def laneProbe : State := placed 0 laneTeam

/-- Legal fields of a word of each op, of the longest bound. -/
def fieldsFor (op : Nat) : LaneFields :=
  let f := { laneFieldsOf 0 with lat := 15, a := 1, d := 3 }
  let g := if op ≤ 0x18 then { f with f1 := 6, f2 := 6 } else if op = 0x2B then { f with f2 := 1 } else
    if 0x33 ≤ op ∧ op ≤ 0x35 then { f with f1 := 7, f2 := 7 } else f
  let h := if op ∈ [0x1B, 0x1C, 0x1D, 0x60, 0x62, 0x63, 0x64, 0x65, 0x70, 0x72] then { g with a := 0 } else g
  if op ∈ [0x51, 0x53, 0x55, 0x60, 0x61, 0x62, 0x63, 0x65, 0x70, 0x71] then { h with d := 0 } else h

/-- Every op of R345 has a word that may issue at `laneProbe`, the last of its section, and in both modes. -/
theorem wit_LaneReady : ∀ op < 0x80, (laneForm op).isSome = true → LaneReady laneProbe op (fieldsFor op) := by
  have legal : ∀ op < 0x80, (laneForm op).isSome = true → laneLegal op (fieldsFor op) = true ∧ laneMinBound op false (fieldsFor op) ≤ 16 ∧
    (fieldsFor op).lat.toNat + 1 = 16 := by decide
  intro op h m
  obtain ⟨l, b, n⟩ := legal op h m
  exact ⟨⟨_, _, rfl, by decide, n ▸ b⟩, l, by decide⟩

def laneAfter (op : Nat) (mk : LaneFields → Instr) (i r : Nat) : Lane := laneValue (curCtx (stateAfter laneProbe (mk (fieldsFor op)))).lanes i r

/-- R250: 2^−126 − 2^−150 is tiny after rounding, though the subnormal grid takes it to 2^−126. -/
theorem test_tiny_after_rounding : roundMag fmtF32 { mode := 0, u := 0, full := true, ovt := 0 } false (2 ^ 24 - 1) 1 (-150) = (0x00800000, flUF ||| flNX) := by decide
/-- R250: FSPEC's subnormal result is flushed with UF. -/
theorem test_fspec_flushes : fspecOut false (0x80400001, flUF ||| flNX) 0x80400000 = (0x80000000, flUF) := by decide

theorem test_vadd : laneAfter 0x01 .vadd 63 3 = 64 := by decide +kernel
theorem test_vsub_from_itself : laneAfter 0x02 (fun f => .vsub { f with b := 1 }) 63 3 = 0 := by decide +kernel
theorem test_vlid : laneAfter 0x1C .vlid 63 3 = 63 := by decide +kernel
theorem test_vrot : laneAfter 0x41 (fun f => .vrot { f with imm := 1 }) 63 3 = 1 := by decide +kernel
theorem test_vred_sum : laneAfter 0x44 (fun f => .vred { f with f1 := 6, f2 := 6 }) 5 3 = 2080 := by decide +kernel
theorem test_vscan_sum : laneAfter 0x45 (fun f => .vscan { f with f1 := 6, f2 := 6 }) 2 3 = 6 := by decide +kernel
/-- R236: 1.0 + 1.0 in f32. -/
theorem test_fadd : laneAfter 0x20 (fun f => .fadd { f with a := 0, b := 0 }) 0 3 = 0 ∧
    (imageOfNat (addF 0 { mode := 0, u := 0, full := true, ovt := 0x115 } (inputF 0 true 0x3F800000) (inputF 0 true 0x3F800000)).1).toNat = 0x40000000 := by
  decide +kernel
theorem test_vst_of_one_lane :
    let s := placed 0 { laneTeam with lanes := { laneTeam.lanes with q := [(0, 0x8000000000000000)] } }
    scratchBytes (stateAfter s (.vst { fieldsFor 0x51 with b := 1, a := 0, pred := 1 })) 0 252 4 = [64, 0, 0, 0] := by decide +kernel
theorem test_section_ends : (curCtx (stateAfter laneProbe (.vlid (fieldsFor 0x1C)))).lanes.sects = [] := by decide +kernel
theorem test_illegal_lane_word : (mget (vnpuAt (stateAfter laneProbe (.illegalLaneWord 0)) 0).tf 0 []).take 2 = [0x22, 0] := by decide +kernel

theorem wit_LaneIntegerWords : LaneReady laneProbe 0x01 (fieldsFor 0x01) ∧ LaneReady laneProbe 0x10 (fieldsFor 0x10) :=
  ⟨wit_LaneReady _ (by decide) (by decide), wit_LaneReady _ (by decide) (by decide)⟩
theorem wit_LaneCompareSelectAndMove : LaneReady laneProbe 0x18 (fieldsFor 0x18) ∧
    (let s := placed 0 { laneTeam with ctlq := [{ kind := 3, payload := 5 }] }
     LaneReady s 0x1D (fieldsFor 0x1D) ∧ poppable s s.run.cur = { kind := 3, payload := 5 } :: []) :=
  ⟨wit_LaneReady _ (by decide) (by decide), ⟨⟨_, _, rfl, by decide, by decide⟩, by decide, by decide⟩, rfl⟩
theorem wit_LaneFloatResults : LaneReady laneProbe 0x20 (fieldsFor 0x20) ∧ LaneReady laneProbe 0x2C (fieldsFor 0x2C) :=
  ⟨wit_LaneReady _ (by decide) (by decide), wit_LaneReady _ (by decide) (by decide)⟩
/-- The largest finite number of each format (its own encoding), and a magnitude that overflows and one that does not. -/
theorem wit_LaneFloatResults_arithmetic :
    let r : Rnd := { mode := 0, u := 0, full := true, ovt := 0x115 }
    decodeF fmtF32 0x7F7FFFFF = .fin false 0xFFFFFF 104 ∧ 0x7F7FFFFF < 2 ^ fmtBits fmtF32 ∧ r.full = true ∧
    (roundMag fmtF32 r false 1 3 0).2 &&& flOF = 0 ∧ (roundMag fmtF32 r false 1 1 128).2 &&& flOF ≠ 0 ∧
    7 % 2 ≠ 0 ∧ (convert fmtI8 r (.fin false 127 0)).2 &&& flSAT = 0 ∧ (convert fmtI8 r (.fin false 128 0)).2 &&& flSAT ≠ 0 ∧
    fmtF32 ≠ fmtE4M3 := by decide +kernel
theorem wit_LaneConversionAndBlockWords : LaneReady laneProbe 0x34 (fieldsFor 0x34) := wit_LaneReady _ (by decide) (by decide)
theorem wit_LaneCrossWords : LaneReady laneProbe 0x47 (fieldsFor 0x47) := wit_LaneReady _ (by decide) (by decide)
/-- Addresses of the lanes' words end where the allotment ends. -/
theorem wit_LaneMemory : LaneReady laneProbe 0x50 { fieldsFor 0x50 with a := 0, imm := 0x1F00 } ∧
    (∀ i < 64, (0x1F00 + 4 * i) % 4 = 0 ∧ 0x1F00 + 4 * i + 4 ≤ 4096 * (curCtx laneProbe).gran.length ∧ granuleOwner laneProbe 0 ((0x1F00 + 4 * i) / 4096) = 0) ∧
    LaneReady laneProbe 0x51 { fieldsFor 0x51 with a := 0, imm := 0x1F00 } ∧ (curCtx laneProbe).gran.Nodup ∧ Memory.wf (coreAt laneProbe 0).scratch = true ∧
    (∀ i < 64, columnAddr i (laneValue laneTeam.lanes i 2).toNat + 4 ≤ 4096 * (curCtx laneProbe).gran.length) :=
  ⟨⟨⟨_, _, rfl, by decide, by decide⟩, by decide, by decide⟩, by decide, ⟨⟨_, _, rfl, by decide, by decide⟩, by decide, by decide⟩, by decide, by decide,
    by decide⟩
theorem wit_LaneMasksAndSystem :
    let s := placed 0 { laneTeam with ctlq := [{ kind := 0, payload := 5 }], lanes := { laneTeam.lanes with masks := List.replicate 8 (BitVec.allOnes 64) } }
    LaneReady s 0x60 (fieldsFor 0x60) ∧ poppable s s.run.cur = { kind := 0, payload := 5 } :: [] ∧ (curCtx s).lanes.masks.length = 8 ∧ (∃ t u r, (curCtx s).lanes.masks = t :: u :: r) ∧
    LaneReady laneProbe 0x61 (fieldsFor 0x61) ∧ (curCtx laneProbe).lanes.masks.length < 2 ∧ LaneReady laneProbe 0x65 (fieldsFor 0x65) ∧
    (curCtx laneProbe).lanes.masks = [] ++ [BitVec.allOnes 64] ∧ LaneReady laneProbe 0x72 (fieldsFor 0x72) ∧ msorted 0 (curCtx laneProbe).lanes.lst = true :=
  ⟨⟨⟨_, _, rfl, by decide, by decide⟩, by decide, by decide⟩, by decide, by decide, ⟨_, _, _, rfl⟩, wit_LaneReady _ (by decide) (by decide), by decide,
    wit_LaneReady _ (by decide) (by decide), by decide, wit_LaneReady _ (by decide) (by decide), by decide⟩
theorem wit_LaneWordFaults : (curCtx probe).lanes.sects = [] ∧ laneParts (.vadd (fieldsFor 1)) = some (1, fieldsFor 1) ∧
    (let s := placed 0 { laneTeam with lanes := { laneTeam.lanes with pos := 12 } }; ∃ t r, (curCtx s).lanes.sects = t :: r ∧ t.stop < (curCtx s).lanes.pos + 12) ∧
    (∃ t r, (curCtx laneProbe).lanes.sects = t :: r ∧ (curCtx laneProbe).lanes.pos + 12 ≤ t.stop) ∧
    laneLegal 0x20 { fieldsFor 0x20 with pred := 9 } = false ∧
    (∃ t r, (curCtx laneProbe).lanes.sects = t :: r ∧ (1#4).toNat + 1 < laneMinBound 0x20 t.full { fieldsFor 0x20 with lat := 1 }) ∧
    LaneReady laneProbe 0x1D (fieldsFor 0x1D) ∧ poppable laneProbe 0 = [] ∧ LaneReady laneProbe 0x60 (fieldsFor 0x60) ∧
    (curCtx laneProbe).lanes.masks.length < 8 ∧
    (let s := placed 0 { laneTeam with ctlq := [{ kind := 1, payload := 5 }] }
     LaneReady s 0x1D (fieldsFor 0x1D) ∧ LaneReady s 0x60 (fieldsFor 0x60) ∧ poppable s 0 = { kind := 1, payload := 5 } :: []) :=
  ⟨by decide, by decide, ⟨_, _, rfl, by decide⟩, ⟨_, _, rfl, by decide⟩, by decide, ⟨_, _, rfl, by decide⟩, wit_LaneReady _ (by decide) (by decide), by decide,
    wit_LaneReady _ (by decide) (by decide), by decide, ⟨⟨_, _, rfl, by decide, by decide⟩, by decide, by decide⟩,
    ⟨⟨_, _, rfl, by decide, by decide⟩, by decide, by decide⟩, rfl⟩
/-- An MPUSH with no token on a full stack. -/
theorem wit_LaneWordFaults_full :
    let s := placed 0 { laneTeam with lanes := { laneTeam.lanes with masks := List.replicate 8 (BitVec.allOnes 64) } }
    LaneReady s 0x60 (fieldsFor 0x60) ∧ poppable s 0 = [] ∧ 8 ≤ (curCtx s).lanes.masks.length :=
  ⟨⟨⟨_, _, rfl, by decide, by decide⟩, by decide, by decide⟩, by decide, by decide⟩
/-- R413: a token appended in this cycle cannot be popped in it. -/
theorem test_token_of_the_same_cycle :
    let s := stateAfter probe (.tmask 1)
    (curCtx s).ctlq.length = 1 ∧ poppable s 0 = [] ∧ (poppable (nextCycle s 0) 0).length = 1 := by decide +kernel
/-- R439: lane 0's address is no multiple of 4; the last lane's word ends 4 bytes outside; the granule belongs to engine work. -/
theorem wit_LaneWordFaults_checks :
    let at' := fun (op imm : Nat) => { fieldsFor op with a := 0, imm := BitVec.ofNat 32 imm }
    let lent := modCore laneProbe 0 fun k => { k with owner := mput k.owner 0 1 }
    LaneReady laneProbe 0x50 (at' 0x50 1) ∧ laneActive laneTeam.lanes 0 0 = true ∧ (1 + 4 * 0) % 4 ≠ 0 ∧
    LaneReady laneProbe 0x51 (at' 0x51 0x1F04) ∧ laneActive laneTeam.lanes 0 63 = true ∧ 4096 * (curCtx laneProbe).gran.length < 0x1F04 + 4 * 63 + 4 ∧
    (∀ j < 63, ¬ 4096 * (curCtx laneProbe).gran.length < 0x1F04 + 4 * j + 4) ∧
    LaneReady lent 0x54 (at' 0x54 0) ∧ granuleOwner lent 0 0 ≠ 0 ∧ LaneReady lent 0x55 (at' 0x55 0) ∧ LaneReady lent 0x52 (fieldsFor 0x52) ∧
    LaneReady lent 0x53 (fieldsFor 0x53) ∧ columnAddr 0 1 / 4096 = 0 :=
  ⟨⟨⟨_, _, rfl, by decide, by decide⟩, by decide, by decide⟩, by decide, by decide, ⟨⟨_, _, rfl, by decide, by decide⟩, by decide, by decide⟩, by decide, by decide,
    by decide, ⟨⟨_, _, rfl, by decide, by decide⟩, by decide, by decide⟩, by decide, ⟨⟨_, _, rfl, by decide, by decide⟩, by decide, by decide⟩,
    ⟨⟨_, _, rfl, by decide, by decide⟩, by decide, by decide⟩, ⟨⟨_, _, rfl, by decide, by decide⟩, by decide, by decide⟩, by decide⟩

def sectionOf (kind : BitVec 2) : HeaderFields := { headerFieldsOf 0xB40004104C000000 with kind := kind }

theorem test_section_header_word : isHeader 0xB40004104C000000 = true ∧ (headerFieldsOf 0xB40004104C000000).num = 1 ∧
    (headerFieldsOf 0xB40004104C000000).length = 65 ∧ (headerFieldsOf 0xB40004104C000000).full = true ∧
    (headerFieldsOf 0xB40004104C000000).last = true := by decide
/-- A section of a header alone. -/
def emptySection (kind : BitVec 2) : HeaderFields := { num := 1, length := 2, kind := kind, full := false, last := false, reserved := 0 }
def tokened (k : Nat) (p : Word) : State := placed 0 { probeTeam with ctlq := [{ kind := k, payload := p }] }
theorem wit_SectionHeaders :
    (∀ k ∈ ([0, 1, 2] : List (BitVec 2)), headerBad freshLanes (sectionOf k) = false ∧ headerBad freshLanes (emptySection k) = false) ∧ headerBad freshLanes (sectionOf 3) = true ∧
    freshLanes.masks.headD (BitVec.allOnes 64) ≠ 0 ∧ 2 < (sectionOf 0).length.toNat ∧ (curCtx probe).lanes = freshLanes ∧ poppable probe 0 = [] ∧
    poppable (tokened 2 0) 0 = { kind := 2, payload := 0 } :: [] ∧ poppable (tokened 2 1) 0 = { kind := 2, payload := 1 } :: [] ∧ (1#64).getLsbD 0 = true ∧ (0#64).getLsbD 0 = false ∧
    poppable (tokened 1 0) 0 = { kind := 1, payload := 0 } :: [] ∧ poppable (tokened 1 2) 0 = { kind := 1, payload := 2 } :: [] ∧ (2#64).setWidth 32 ≠ 0#32 ∧ (0#64).setWidth 32 = 0#32 ∧
    ([0#64] : List (BitVec 64)).headD (BitVec.allOnes 64) = 0 := by decide +kernel
/-- Operands of the arithmetic: 4 has a root; a block of 32 whose scales are 1; a divisor of each kind. -/
theorem wit_LaneFloatResults_roots : (sqrtF 0 { mode := 0, u := 0, full := true, ovt := 0 } (.fin false 4 0)).2 &&& flOF = 0 := by decide +kernel
theorem wit_LaneConversionAndBlockWords_values :
    decodeF 2 0x3C00 = .fin false 1024 (-10) ∧ inputF 0 true 0x7FC00000 = .nan ∧ inputF 0 true 0x7F800000 = .inf false ∧
    inputF 0 true 0x40000000 = .fin false 8388608 (-22) ∧ inputF 0 true 0 = .fin false 0 (-149) ∧
    (List.replicate 32 0x3F800000).length = 32 ∧ (∀ x ∈ List.replicate 32 0x3F800000, x < 2 ^ 32) ∧ legalScale 0x3F80 = true ∧ legalScale 0 = false ∧
    0x3F803F80 / 65536 < 65536 ∧ 0x3F800000 < 2 ^ 32 := by
  decide +kernel

/-! ## Engines -/

/-- A team of eight granules, the ranges of whose commands the engine `o` owns: granules 1 to 3. -/
def engineTeam : Ctx := { probeTeam with gran := [8, 9, 10, 11, 12, 13, 14, 15, 16, 17, 18, 19] }
/-- Cluster 0's VL has reached its value (R272). -/
def railsUp (s : State) : State := { s with clusters := [(0, { freshCluster with vl := 400 })] }
def owned (o : Nat) (l : List Nat) : State := railsUp (modCore (placed 0 engineTeam) 0 fun k => { k with owner := l.map fun g => (8 + g, o) })

/-- A command's words: ranges A and B by first granule and number, next owners 0. -/
def ranges (wa : Word) (af an bf bn : Nat) : EngineFields :=
  { flags := 0, wa := wa, wb := BitVec.ofNat 64 (af * 2 ^ 56 + an * 2 ^ 48 + bf * 2 ^ 40 + bn * 2 ^ 32) }

theorem namedSet_load (e : EngineFields) : namedSet (.mwl e) = none ∧ namedSet (.mwa e) = none := ⟨rfl, rfl⟩

/-- `MatrixReady`, as a check. -/
def matrixCheck (s : State) (i : Instr) (unit : Nat) (useA useB : Bool) : Bool :=
  !wordBad 0 (partsOf i).2.2 0 useA useB && decide ((headCmd s s.run.cur 0 i).steps = 0) && mayStart s s.run.cur && !matrixWaits s s.run.cur unit i &&
  lockFree s (runOf s s.run.cur (headCmd s s.run.cur 0 i)) && ownersOk s s.run.cur 0 (partsOf i).2.2 useA useB &&
  (match namedSet i with | some a => !heldByEvicted s s.run.cur (physSet (curCtx s) a) | none => true)

theorem matrixReady_of_check (s : State) (i : Instr) (unit : Nat) (useA useB : Bool) (h : matrixCheck s i unit useA useB = true) :
    MatrixReady s i unit useA useB := by
  simp only [matrixCheck, Bool.and_eq_true, Bool.not_eq_true', decide_eq_true_eq] at h
  obtain ⟨⟨⟨⟨⟨⟨h1, h0⟩, h2⟩, h3⟩, h4⟩, h5⟩, h6⟩ := h
  exact ⟨h1, h0, h2, h3, h4, h5, fun a ha => by simpa [ha] using h6⟩

theorem wit_AccumulatorPortAndWeights_port :
    let clear := ranges 0x0400000000000000 0 0 0 0
    let port := ranges 0x03F8000000000000 2 1 0 0
    MatrixReady (railsUp probe) (.macl clear) 3 false false ∧ maclCheck clear probeTeam = none ∧
    MatrixReady (owned 1 [2]) (.masv port) 3 true false ∧ MatrixReady (owned 1 [2]) (.mars port) 3 true false ∧ portCheck port engineTeam = none ∧
    wbits port.wa 57 51 = 127 ∧ gaf port + gan port ≤ engineTeam.gran.length ∧ engineTeam.gran.Nodup ∧ Memory.wf (coreAt (owned 1 [2]) 0).scratch = true :=
  ⟨matrixReady_of_check _ _ _ _ _ (by decide +kernel), by decide, matrixReady_of_check _ _ _ _ _ (by decide +kernel),
    matrixReady_of_check _ _ _ _ _ (by decide +kernel), by decide, by decide, by decide, by decide, by decide⟩
theorem test_masv_row : (let s := modSet (owned 1 [2]) 0 0 fun a => { a with ent := [(128 * 127 + 127, 0x12345678)] }
    scratchBytes (stateAfter s (.masv (ranges 0x03F8000000000000 2 1 0 0))) 0 (8192 + 508) 4) = [0x78, 0x56, 0x34, 0x12] := by decide +kernel

def weightLoad (fmt : Nat) : EngineFields := ranges (BitVec.ofNat 64 (fmt * 2 ^ 60)) 1 4 6 (if fmt = 7 then 1 else 0)

theorem wit_AccumulatorPortAndWeights_loads : loadCheck (weightLoad 5) = none ∧ loadCheck (weightLoad 7) = none ∧ planeBytes 5 = 0 ∧ planeBytes 7 ≠ 0 ∧
    MatrixReady (owned 1 [1, 2, 3, 4, 6]) (.mwl (weightLoad 7)) 0 true true ∧ MatrixReady (owned 1 [1, 2, 3, 4]) (.mwa (weightLoad 5)) 0 true false ∧
    (placeTile (coreAt (owned 1 [1]) 0) 0 { bank := 0, cur := false, fmt := 5, data := [], scales := [] }).isSome = true ∧ fmtWidth 5 = 8 ∧ fmtWidth 1 = 16 :=
  ⟨by decide, by decide, by decide, by decide, matrixReady_of_check _ _ _ _ _ (by decide +kernel), matrixReady_of_check _ _ _ _ _ (by decide +kernel),
    by decide +kernel, by decide, by decide⟩

def oneTile : Tile := { bank := 0, cur := false, fmt := 3, data := List.replicate 16384 0, scales := [] }
def tiled : State := modCore (owned 1 [1, 2]) 0 fun k => { k with tiles := [oneTile] }
def streamOf : EngineFields := ranges 0x3000000000000000 1 1 0 0
def epilogueOf : EngineFields := ranges 0x1000000000000000 1 1 2 1

theorem wit_StreamAndEpilogue : MatrixReady tiled (.mst streamOf) 1 true false ∧ (rowScales (wbits streamOf.wa 63 60) != 0) = false ∧
    lastTile (coreAt tiled 0) 0 = some oneTile ∧ unitOf tiled 0 0 = none ∧ mstCheck tiled streamOf engineTeam = none ∧
    MatrixReady (owned 1 [1, 2]) (.mep epilogueOf) 2 true true ∧ epilogueOf.wa.getLsbD 41 = false ∧ epilogueOf.wa.getLsbD 43 = false ∧
    mepCheck (owned 1 [1, 2]) epilogueOf engineTeam = none ∧ gaf epilogueOf + gan epilogueOf ≤ engineTeam.gran.length ∧ engineTeam.gran.Nodup ∧
    Memory.wf (coreAt (owned 1 [1, 2]) 0).scratch = true ∧ (owned 1 [1, 2]).run.stuck = false :=
  ⟨matrixReady_of_check _ _ _ _ _ (by decide +kernel), by decide, by decide +kernel, by decide +kernel, by decide +kernel,
    matrixReady_of_check _ _ _ _ _ (by decide +kernel), by decide, by decide, by decide +kernel, by decide, by decide, by decide, by decide⟩

/-- A CPG record pair at 0 and 64: two elements of 4 bytes from range B at 8192 to range A at 4096; device records name address 0x10000. -/
def record (base : Nat) : List Byte := natLe 8 base ++ natLe 4 2 ++ natLe 4 1 ++ natLe 4 1 ++ natLe 4 4 ++ natLe 4 0 ++ natLe 4 0 ++ [2] ++ List.replicate 31 0
def copying (src dst : Nat) : State :=
  let s := modCore (owned 2 [1, 2]) 0 fun k => { k with scratch := writeBytes [] (4096 * 8) (record src ++ record dst) }
  let t := { engineTeam with linked := true, nteams := 2 }
  setCtx (modCore (setCtx s 0 t) 1 fun k => { k with owner := [(9, 2), (10, 2)] }) 2 { t with team := 1 }

def copyOf (n : Nat) (f : BitVec 6) (useA useB : Bool) (op : Nat) : EngineFields :=
  { ranges (BitVec.ofNat 64 (64 * 2 ^ 24 + n)) (if useA then 1 else 0) (if useA then 1 else 0) (if useB then 2 else 0) (if useB then 1 else 0) with
    flags := if op = 0x15 then f else 0 }

/-- `CopyReady` for the command that takes its records, as a check. -/
def copyCheck (s : State) (i : Instr) (e : EngineFields) (op : Nat) (mem : Bool) : Bool :=
  match takeCopy s s.run.cur op mem e (headCmd s s.run.cur 1 i) with
  | .error _ => false
  | .ok q =>
    !wordBad 1 e (if op = 0x15 then 1 else 0) (copyUses op mem).1 (copyUses op mem).2 && decide (op = 0x14 ∨ op = 0x16 ∨ wbits e.wa 23 0 = 0) &&
    decide ((headCmd s s.run.cur 1 i).walk = []) && mayStart s s.run.cur && decide (unitOf s (coreOf s.run.cur) 4 = none) && !peerFrozen s s.run.cur op e &&
    lockFree s (runOf s s.run.cur q) && copyOwners s s.run.cur op mem e q && !overlapFault op (copyWalks op q)

theorem copyReady_of_check (s : State) (i : Instr) (e : EngineFields) (op : Nat) (mem : Bool) (h : copyCheck s i e op mem = true) :
    ∃ q, CopyReady s i e op mem q := by
  unfold copyCheck at h
  split at h
  · cases h
  · rename_i q hq
    simp only [Bool.and_eq_true, Bool.not_eq_true', decide_eq_true_eq] at h
    obtain ⟨⟨⟨⟨⟨⟨⟨⟨h1, h2⟩, h3⟩, h4⟩, h5⟩, h6⟩, h7⟩, h8⟩, h9⟩ := h
    exact ⟨q, h1, h2, h3, hq, h4, h5, h6, h7, h8, h9⟩

theorem wit_CopyCommands :
    (∃ q, CopyReady (copying 0x10000 4096) (.cpl (copyOf 0 0 true false 0x11)) (copyOf 0 0 true false 0x11) 0x11 false q) ∧
    (∃ q, CopyReady (copying 8192 0x10000) (.cpw (copyOf 0 0 false true 0x12)) (copyOf 0 0 false true 0x12) 0x12 false q) ∧
    (∃ q, CopyReady (copying 8192 4096) (.cpg (copyOf 0 0 true true 0x13)) (copyOf 0 0 true true 0x13) 0x13 false q) ∧
    (∃ q, CopyReady (copying 8192 4096) (.cpx (copyOf 1 0 true true 0x14)) (copyOf 1 0 true true 0x14) 0x14 false q) ∧
    (∃ q, CopyReady (copying 8192 4096) (.cpf (copyOf 0 0 true false 0x15)) (copyOf 0 0 true false 0x15) 0x15 false q) ∧
    (∃ q, CopyReady (copying 8192 0x10000) (.cpf (copyOf 0 1 false false 0x15)) (copyOf 0 1 false false 0x15) 0x15 true q) ∧
    (∃ q, CopyReady (copying 8192 4096) (.cpr (copyOf 1 0 true true 0x16)) (copyOf 1 0 true true 0x16) 0x16 false q) ∧
    (∃ q, CopyReady (copying 0x10000 0x20000) (.cph (copyOf 0 0 false false 0x17)) (copyOf 0 0 false false 0x17) 0x17 false q) := by
  refine ⟨?_, ?_, ?_, ?_, ?_, ?_, ?_, ?_⟩ <;> exact copyReady_of_check _ _ _ _ _ (by decide +kernel)

def twoElements : Walk := { base := 0x100, nx := 2, ny := 1, nz := 1, xstr := 4, ystr := 0, zstr := 0, esz := 2, blk := 0, sbase := 0, systr := 0, szstr := 0 }
def copyJob (op : Nat) : CopyJob :=
  { c := 0, peer := 0, op := op, src := .own, dst := .own, a := twoElements, b := { twoElements with base := 4096 * 12 - 8 } }

theorem wit_ScratchpadCopyMovesElements :
    let j := copyJob 0x13
    let s := owned 2 []
    let q := headCmd s 0 1 .brk
    let u := runOf s 0 { q with snap := writeBytes [] 0 (scratchBytes s 0 0 (4096 * 12)) }
    let f := runOf s 0 { q with walk := List.replicate 8 1 }
    (ctxAt s j.c).phase = .running ∧ (ctxAt s j.c).drain = .off ∧ s.run.stuck = false ∧ j.dst = .own ∧ j.src = .own ∧ (copyJob 0x15).op = 0x15 ∧ 8 ≤ f.cmd.walk.length ∧ j.a.blk = 0 ∧ j.a.esz ≤ 3 ∧ 0 < j.a.nx ∧ 0 < j.b.nx ∧
    u.cmd.pos = 0 ∧ u.cmd.begun = 0 ∧ u.cmd.sc = 0 ∧ u.ctx = j.c ∧ engineTeam.gran.Nodup ∧ Memory.wf (coreAt s 0).scratch = true ∧
    (∀ k < walkCount j.a, 0 ≤ elemAt j.a k ∧ (elemAt j.a k).toNat + 4 ≤ 4096 * engineTeam.gran.length) ∧
    (∀ k < walkCount j.a, ∀ m < walkCount j.a, (elemAt j.a k).toNat + 4 ≤ (elemAt j.b m).toNat ∨ (elemAt j.b m).toNat + 4 ≤ (elemAt j.a k).toNat) ∧
    (∀ k < walkCount j.a, 0 ≤ elemAt j.b k ∧ (elemAt j.b k).toNat + 4 ≤ 4096 * engineTeam.gran.length) ∧
    (∀ k < walkCount j.a, ∀ m < walkCount j.a, k ≠ m → (elemAt j.b k).toNat + 4 ≤ (elemAt j.b m).toNat ∨ (elemAt j.b m).toNat + 4 ≤ (elemAt j.b k).toNat) := by
  decide +kernel

/-- Two teams of a linked launch; one input of 64 bytes each, an all-reduce of 32-bit sums. -/
def sumOf : EngineFields := ranges (BitVec.ofNat 64 (6 * 2 ^ 60 + 2 ^ 29)) 1 1 2 1
def colTeam (t : Nat) (g : List Nat) : Ctx := { probeTeam with gran := g, linked := true, nteams := 2, launch := 1, team := t }
def colState : State :=
  let s := setCtx (setCtx State.reset 0 (colTeam 0 [0, 1, 2])) 2 (colTeam 1 [0, 1, 2])
  let o := modCore (modCore s 0 fun k => { k with owner := [(1, 3), (2, 3)] }) 1 fun k => { k with owner := [(1, 3), (2, 3)] }
  let l : Launch := { v := 0, q := 0, seq := 0, run := 0, image := 0, args := 0, arglen := 0, linked := true, phasel := 0, eclass := 0, trips := [], doneaddr := 0,
                      hdr := noHeader, nteams := 2, next := 2, ended := [], retired := 0, faulted := false, epoch := 0, cids := [], merged := 0, final := none }
  { o with launches := [(1, l)], run := { o.run with inputs := [], cur := 0 } }
def colWait (t ctx : Nat) (data : List Byte) : ColWait :=
  { launch := 1, cid := 0, inst := 0, team := t, ctx := ctx, cmd := headCmd (placed 0 (colTeam t [])) 0 2 (.clar sumOf), code := 0x23, data := data, done := false, bad := false }
def colFull : State := { colState with collectives := [colWait 0 0 (List.replicate 64 1), colWait 1 2 (List.replicate 64 2)] }

theorem wit_CollectiveCommands : clCheck colState (ctxAt colState 0) 0x23 sumOf = none ∧ mayStart colState 0 = true ∧ colState.collectives = [] ∧
    lockFree colState (runOf colState 0 (headCmd colState 0 2 (.clar sumOf))) = true ∧ ownersOk colState 0 2 sumOf true true = true := by
  decide +kernel
theorem wit_CollectiveOutputs :
    (colFull.collectives.find? (fun w => w.launch == 1 && w.cid == 0 && !w.done && instanceFull colFull 1 0 w.inst)) = some (colWait 0 0 (List.replicate 64 1)) ∧
    colFull.run.arg.flag = false ∧ colFull.run.arg.flag2 = false ∧
    (let ws := instanceParts colFull 1 0 0
     ws.any (fun w => !clAgree (colWait 0 0 []) w) = false ∧ ws.map (·.ctx) = [0, 2] ∧ ∀ w ∈ ws, w.bad = false) ∧
    (ctxAt colFull 0).gran.Nodup ∧ 4096 * gaf sumOf + 64 ≤ 4096 * (ctxAt colFull 0).gran.length ∧ Memory.wf (coreAt colFull 0).scratch = true ∧
    coreOf 0 ≠ coreOf 2 ∧ clFmt sumOf = fmtI32 ∧ clOp sumOf = 0 ∧ clBytes sumOf = 64 ∧ clRootM sumOf = 0 ∧ 64 / 4 % 2 = 0 := by decide +kernel
theorem test_clar_sum : scratchBytes (stateAfter colFull (.collectiveInstanceMatch 1 0)) 2 (4096 + 60) 4 = [3, 3, 3, 3] := by decide +kernel
theorem wit_SpillReleaseAndMatch :
    let o : AccOwner := { v := 0, launch := 9, team := 0, bank := 0, evicted := true }
    let sv : Saved := { ctx := { probeTeam with launch := 9, accs := [0] }, core := 0, bank := 0, bytes := [], stub := false, tiles := [], sets := [], cmds := [],
                        epi := [], charge := 0, placing := false }
    let s := { modSet probe 0 0 (fun a => { a with owner := some o }) with saves := [(1, sv)] }
    let u := runOf probe 0 { headCmd probe 0 0 (.mep epilogueOf) with steps := 1 }
    heldByEvicted s 0 0 = true ∧ (setAt s 0 0).owner = some o ∧ (vnpuAt s 0).resetting = false ∧ saveOf s o = some (1, sv) ∧
    u.released = false ∧ u.cmd.cmd = .mep epilogueOf ∧ rowCount epilogueOf ≤ rowsRead u ∧ colFull.run.arg.flag = false := by decide +kernel

/-- A matrix command that is over, in unit 3: it gives range A to the copy engine and signals counter 5. -/
def overCmd : EngineFields := { ranges 0 1 1 2 1 with wb := (ranges 0 1 1 2 1).wb ||| 0x8000000#64 ||| 0x40000000#64 ||| 0x2800000#64 }
theorem wit_EngineCompletionSignals :
    let u := runOf (owned 1 [1, 2]) 0 (headCmd (owned 1 [1, 2]) 0 0 (.macl overCmd))
    let s := modCore (owned 1 [1, 2]) 0 fun k => { k with units := [(3, u)] }
    unitOf s 0 3 = some u ∧ commandDone s 3 u = true ∧ u.cmd.trap26 = false ∧ (partsOf u.cmd.cmd).1 = 0 ∧ (partsOf u.cmd.cmd).2.1 < 0x10 ∧
    gaf overCmd + gan overCmd ≤ engineTeam.gran.length ∧ ken overCmd = true ∧ ksel overCmd = 5 ∧ nxa overCmd = 1 := by decide +kernel
theorem test_completion_signals :
    let u := runOf (owned 1 [1, 2]) 0 (headCmd (owned 1 [1, 2]) 0 0 (.macl overCmd))
    let t := stateAfter (modCore (owned 1 [1, 2]) 0 fun k => { k with units := [(3, u)] }) (.engineCommandComplete 0 3)
    mget (ctxAt t 0).k 5 0 = 1 ∧ granuleOwner t 0 1 = 1 ∧ granuleOwner t 0 2 = 0 ∧ (ctxAt t 0).ev = true := by decide +kernel
theorem wit_EngineCommandsEnd :
    let i : Instr := .unassignedEngineCommand 0 0x3F (ranges 0 0 0 0 0)
    let q := headCmd probe 0 0 i
    let s := placed 0 { probeTeam with cmdq := [(0, [q])] }
    mget (curCtx s).cmdq 0 [] = q :: [] ∧ q.cmd = i := by decide +kernel
theorem test_unassigned_is_recorded :
    let i : Instr := .unassignedEngineCommand 0 0x3F (ranges 0 0 0 0 0)
    let t := stateAfter (placed 0 { probeTeam with cmdq := [(0, [headCmd probe 0 0 i])] }) i
    (mget (vnpuAt t 0).tf 0 []).take 2 = [1, 2] ∧ mget (curCtx t).cmdq 0 [] = [] := by decide +kernel

/-! ## Events: rings, queues, launches -/

/-- Page 0 of VNPU 0, held by a translation buffer: device frame 1. -/
def cached : TlbEntry := { v := 0, size := 0, vpn := 0, leaf := 0x10001F, set := 0, locked := false }
/-- A running module: firmware runs, frame 0 has started, both dies hold page 0 of VNPU 0, no input waits. -/
def running : State :=
  let s := mapped { State.reset with run := { State.reset.run with inputs := [] }, frame := { freshFrame with started := true }, fw := { freshFirmware with mode := .running } }
  { s with xlate := { s.xlate with l2 := [(0, [cached]), (6, [cached])] } }
def argued (s : State) (a : EventArg) : State := { s with run := { s.run with arg := a } }
def withRing (r : Ring) (q : LQueue) : State := { running with vnpus := [(0, { freshVnpu with rings := [(0, r)], queues := [(0, q)] })] }
def packetOf (ty : Nat) (hw1 hw2 : Nat) (payload : List Byte) : Packet :=
  { ring := 0, unit := 0, ty := ty, seq := 5, data := natLe 1 ty ++ natLe 1 (1 + payload.length / 16) ++ natLe 2 5 ++ natLe 4 hw1 ++ natLe 8 hw2 ++ payload }
def enabledRing : Ring := { freshRing with en := true }
def enabledQueue : LQueue := { freshQueue with en := true, rmask := 1 }
def queued (p : Packet) : State := withRing enabledRing { enabledQueue with packets := [p] }

theorem wit_RingAndQueueRegisters :
    (ringAt running 0 0).en = false ∧ (0x108#64).getLsbD 8 = true ∧ wbits 0x108 3 0 ≤ 8 ∧ (0#64).toNat % (4096 * 2 ^ wbits 0x108 3 0) = 0 ∧
    ¬ (wbits 0x109 3 0 ≤ 8) ∧ (vnpuAt running 0).resetting = false ∧ (ringAt (withRing enabledRing enabledQueue) 0 0).en = true ∧
    ((0x100#64).setWidth 32 - enabledRing.head).toNat ≤ 256 * 2 ^ enabledRing.size ∧ 256 * 2 ^ enabledRing.size < ((0x101#64).setWidth 32 - enabledRing.head).toNat ∧
    noContract running 0 = false ∧ (queueAt running 0 0).en = false ∧ popcount64 0xFF ≤ 8 ∧ 8 < popcount64 0x1FF ∧
    (∀ p < 16, p ≠ 0 → (queueAt running 0 p).rmask &&& 0xFF = 0) := by decide
theorem test_tail_beyond_the_ring : (ringAt (stateAfter (withRing enabledRing enabledQueue) (.tailWrite 0 0 0x101)) 0 0).code = 2 := by decide +kernel

/-- A ring of two units whose first holds a NOP of one unit. -/
def fed (b : List Byte) : State :=
  let s := withRing { enabledRing with tail := 1 } enabledQueue
  { s with dev := writeBytes s.dev 0x4000 b }
def nopBytes : List Byte := [1, 1, 5, 0] ++ List.replicate 12 0
theorem wit_RingsAndMergeUnits :
    let s := fed nopBytes
    mergeLive s 0 0 = true ∧ visitOrder (queueAt s 0 0) = [0] ∧ (ringAt s 0 0).en = true ∧ (ringAt s 0 0).stop = false ∧
    (ringAt s 0 0).head ≠ (ringAt s 0 0).tail ∧ (ringAt s 0 0).header = [] ∧
    (∃ s1, feReadIn true (feDie 0) 62 0 16 0 s = .ok (s1, nopBytes)) ∧ headerCode (ringAt s 0 0) nopBytes = none ∧
    pktLen nopBytes ≤ ((ringAt s 0 0).tail - (ringAt s 0 0).head).toNat ∧ (∀ s1 x, readUnits 0 0 x (pktLen nopBytes - 1) 1 s1 = (s1, [], none)) ∧ pktType nopBytes = 1 ∧
    payloadBits nopBytes = false ∧ addressBad nopBytes = false ∧ noContract s 0 = false ∧
    headerCode (ringAt s 0 0) ([0, 1, 5, 0] ++ List.replicate 12 0) = some 0x04 :=
  by
    repeat' apply And.intro
    all_goals first
      | decide +kernel
      | exact ⟨_, rfl⟩
      | exact fun _ _ => rfl
theorem test_packet_taken : ((queueAt (stateAfter (fed nopBytes) (.packetTake 0 0)) 0 0).packets.map fun p => (p.ty, p.seq)) = [(1, 5)] := by decide +kernel

/-- A COPY of 16 bytes. -/
def copyPacket : Packet := packetOf 8 0 0 (natLe 8 0x40 ++ natLe 8 0x80 ++ natLe 4 16 ++ List.replicate 12 0)
theorem wit_QueuePacketEffects :
    queueGoes (queued (packetOf 6 0 0 [])) 0 0 = true ∧ queueGoes (withRing enabledRing { freshQueue with packets := [packetOf 6 0 0 []], head := .waiting }) 0 0 = true ∧
    queueLive (queued (packetOf 1 0 0 [])) 0 0 = true ∧ (queueAt (queued (packetOf 1 0 0 [])) 0 0).packets = packetOf 1 0 0 [] :: [] ∧
    (let w := packetOf 4 0 0x40 (List.replicate 16 0)
     (∃ s1, feReadIn false (feDie 0) 62 0 8 0x40 (queued w) = .ok (s1, List.replicate 8 0)) ∧ waitHolds w.data 0 = true ∧
     waitHolds (packetOf 4 1 0x40 (List.replicate 16 0)).data 0 = false ∧ (queueAt (queued w) 0 0).head = .idle) ∧
    (queueAt (withRing enabledRing { enabledQueue with packets := [packetOf 4 0 0x40 (List.replicate 16 0)], head := .waiting }) 0 0).head = .waiting ∧
    queueQuiet (queued (packetOf 6 0 0 [])) 0 0 = true ∧
    queueQuiet (withRing enabledRing { enabledQueue with packets := [packetOf 6 0 0 []], copies := [(packetOf 8 0 0 [], 0)] }) 0 0 = false ∧
    (∃ s1, feStore (feDie 0) 0 (natLe 8 0) 0x40 (queued (packetOf 7 0 0x40 [])) = .ok s1) ∧
    pktHw2 (packetOf 5 0x80 0 (List.replicate 16 0)).data = 0 ∧ nbits (pktHw1 (packetOf 5 0x80 0 (List.replicate 16 0)).data) 7 7 = 1 ∧
    (queued copyPacket).run.arg.flag3 = false ∧ (∃ s1, packetPieces (feDie 0) 0 copyPacket ((queued copyPacket).run.pace + 1) 0 (queued copyPacket) = .ok (s1, 16)) ∧
    copyLen copyPacket = 16 ∧
    (let s := argued (withRing enabledRing { enabledQueue with packets := [packetOf 1 0 0 []], copies := [(copyPacket, 0)] }) { noArg with flag3 := true }
     (queueAt s 0 0).copies.find? (fun e => !packetMoved e) = some (copyPacket, 0) ∧ s.run.arg.flag3 = true ∧
     ∃ s1, packetPieces (feDie 0) 0 copyPacket (s.run.pace + 1) 0 s = .ok (s1, 16)) ∧
    [(copyPacket, 16)].any packetMoved = true ∧
    (bucketAt running (feDie 0) 63 0).held = [] ∧ (∀ e ∈ running.run.ledger, e.1 ≠ running.run.agent) ∧
    (let s : State := { running with run := { running.run with ledger := [(running.run.agent, .began 3)] } }; s.run.ledger = (s.run.agent, .began 3) :: []) :=
  ⟨by decide +kernel, by decide +kernel, by decide +kernel, by decide +kernel, ⟨⟨_, rfl⟩, by decide, by decide, by decide +kernel⟩, by decide +kernel, by decide +kernel, by decide +kernel, ⟨_, rfl⟩,
    by decide, by decide, by decide +kernel, ⟨_, rfl⟩, by decide, ⟨by decide +kernel, by decide +kernel, _, rfl⟩, by decide, by decide +kernel, by decide +kernel, rfl⟩

def launchRecord (flags trip0 : Nat) : List Byte :=
  List.replicate 18 0 ++ natLe 1 flags ++ List.replicate 5 0 ++ natLe 4 trip0 ++ natLe 4 1 ++ natLe 4 1 ++ natLe 4 1 ++ List.replicate 24 0
/-- An image header at address 0: magic, format 1.0, one spatial dimension. -/
def launchImage : List Byte := natLe 4 0x494B4847 ++ natLe 4 0x10000 ++ [0, 1] ++ List.replicate 118 0
def withHeader (s : State) : State := { s with dev := writeBytes s.dev 0x4000 launchImage }
def launchOne : Launch := launchOf 0 0 5 0 (launchRecord 0 2) (headerOf launchImage)
def indirect (ph : IndPhase) : Indirect := { packet := packetOf 3 0 0x100 [], run := 0, before := [], phase := ph, record := launchRecord 0 1, teams := 0, status := 0 }

theorem wit_LaunchesStartAndComplete :
    let s := withHeader (queued (packetOf 2 0 0 (launchRecord 0 2)))
    headOf s 0 0 2 = some (packetOf 2 0 0 (launchRecord 0 2)) ∧ mayLaunch s 0 0 = true ∧
    (∃ s1 h, checkLaunch s (feDie 0) 0 (launchRecord 0 2) = (s1, .ok h)) ∧ (∃ s1, checkLaunch s (feDie 0) 0 (launchRecord 2 2) = (s1, .reject 0x07)) ∧
    (∃ s1, checkLaunch s (feDie 0) 0 (launchRecord 0 0) = (s1, .empty)) ∧ headOf (queued (packetOf 3 0 0x100 (launchRecord 0 1))) 0 0 3 ≠ none ∧
    (let r := withRing enabledRing { enabledQueue with ind := some (indirect .ready) }
     (queueAt r 0 0).ind = some (indirect .ready) ∧ (indirect .ready).phase = .ready ∧ (ctxAt r 200).phase = .empty) ∧
    (let r := setCtx (withRing enabledRing { enabledQueue with ind := some (indirect .running) }) 200 { freshCtx with phase := .halted, regs := [(2, 1)] }
     (ctxAt r 200).phase = .halted ∧ (ctxAt r 200).v = 0 ∧ (ctxAt r 200).launch = 0 ∧ mget (ctxAt r 200).regs 2 0 = 1) ∧
    (let r := setCtx running 200 { freshCtx with phase := .running, count := 4096 }
     r.run.arg.flag = false ∧ (ctxAt r 200).phase = .running ∧ 4096 ≤ (ctxAt r 200).count) ∧
    (let e : EndedTeam := { ph := 0, vc := [], killed := false }
     let l := { launchOne with next := 2, ended := [(0, e), (1, e)], retired := 2 }
     let r := { running with launches := [(1, l)] }
     msorted 0 r.launches = true ∧ launchAt r 1 = some l ∧ launchOver r 1 = true ∧ l.doneaddr = 0 ∧
     ∃ s1, feStore (feDie 0) 0 (recordBytes r 0 0 0 5 2) 0x40 r = .ok s1) :=
  ⟨by decide +kernel, by decide +kernel, ⟨_, _, rfl⟩, ⟨_, rfl⟩, ⟨_, rfl⟩, by decide +kernel, ⟨by decide +kernel, rfl, by decide +kernel⟩, by decide +kernel,
    by decide +kernel, ⟨by decide +kernel, by decide +kernel, by decide +kernel, by decide +kernel, ⟨_, rfl⟩⟩⟩
theorem test_launch_of_two_teams :
    (stateAfter (withHeader (queued (packetOf 2 0 0 (launchRecord 0 2)))) (.launch 0 0)).launches.map (fun e => (e.1, e.2.nteams)) = [(1, 2)] := by decide +kernel

/-- A launch of VNPU 0 that is to end with STATUS 1. -/
theorem wit_LaunchesStartAndComplete_final :
    let r := { running with launches := [(1, { launchOne with final := some (1, 0) })] }
    msorted 0 r.launches = true ∧ (∃ x, launchAt r 1 = some x ∧ x.final = some (1, 0)) := ⟨by decide +kernel, _, rfl, rfl⟩

/-! ## Events: frames, teams -/

def contractOf (cl : Nat) : Contract := { bytes := [1, BitVec.ofNat 8 cl] ++ List.replicate 6 0 ++ [1, 0, 0, 0] ++ List.replicate 52 0, emax := 0 }
def owned1 : Window := { defaultWindow with owner := 1 }

theorem wit_DestroyAndGuestReset : (queueAt running 0 0).busy = false ∧
    (let s := withRing enabledRing { enabledQueue with busy := true }
     (queueAt s 0 0).busy = true ∧ launchesOf s 0 0 = [] ∧ launchesOf { s with launches := [(1, launchOne)] } 0 0 ≠ [] ∧
     launchOver { s with launches := [(1, launchOne)] } 1 = false) ∧
    (vnpuAt running 1).resetting = false ∧ running.mgmt.moving = [] ∧ msorted 0 running.launches = true ∧
    (vnpuAt { running with vnpus := [(1, { freshVnpu with resetting := true })] } 1).resetting = true ∧
    (let s := { running with frame := { running.frame with view := [owned1] }, contracts := { freshContracts with inForce := [(1, contractOf 1)] } }
     windowAt s 0 = some owned1 ∧ classAWindow s 0 owned1 = true ∧ owned1.owner = 1 ∧ windowActive s owned1 = true) := by decide +kernel

theorem wit_WindowsAndDispatch_windows :
    (let s := setCtx running 0 { probeTeam with phase := .stopped }
     windowAt s 0 = some defaultWindow ∧ 0 ∈ windowCores defaultWindow ∧ windowActive s defaultWindow = true ∧ (ctxAt s 0).phase = .stopped ∧
     mayResume s 0 = true ∧ (ctxAt s 0).linked = false ∧ (ctxAt s 0).drain = .off) ∧
    (let s := setCtx running 0 { probeTeam with v := 1 }
     s.run.arg.nums = [] ∧ (ctxAt s 0).phase = .running ∧ servedHere s 0 = false) ∧
    (let s := { setCtx running 0 probeTeam with frame := { freshFrame with view := [owned1] }, contracts := { freshContracts with inForce := [(1, contractOf 1)] } }
     windowAt s 0 = some owned1 ∧ s.run.arg.flag = false ∧ classAWindow s 0 owned1 = true ∧ (ctxAt s 0).phase = .running ∧ serves s 0 owned1 0 = false) := by
  decide +kernel
theorem wit_WindowsAndDispatch_dispatch :
    let s := { withRing enabledRing enabledQueue with launches := [(1, launchOne)] }
    windowAt s 0 = some defaultWindow ∧ s.frame.started = true ∧ windowActive s defaultWindow = true ∧ s.fw.mode ≠ .dead ∧
    (∀ e ∈ s.launches, e.2.linked = false) ∧ mfind s.frame.holds 0 = none ∧ (bankOrder s 0 defaultWindow).find? (offerable s) = some 0 ∧
    (ctxAt s 0).phase = .empty ∧ search s 0 defaultWindow 0 = some (0, 0, 1) ∧ launchAt s 1 = some launchOne ∧ nextEvicted s 1 = none := by decide +kernel
theorem wit_TablesAreValidatedAndFramesBegin : running.contracts.busy = false ∧ running.frame.busy = false ∧ running.fw.mode ≠ .dead ∧
    (let r := [1] ++ List.replicate 63 0
     let s : State := { running with numVFs := 1, contracts := { freshContracts with busy := true, submitted := r } }
     s.contracts.busy = true ∧ s.fw.mode ≠ .dead ∧ contractCheck s s.contracts.submitted = 0) ∧ inert running = false ∧ ({ running with fw := { freshFirmware with mode := .recovery } } : State).fw.mode = .recovery ∧
    ({ running with frame := { freshFrame with busy := true } } : State).frame.busy = true ∧
    ({ running with contracts := { freshContracts with busy := true } } : State).contracts.busy = true ∧
    contractCheck running [] = 1 ∧ frameCheck { running with frame := { freshFrame with submitted := (100, []) } } = (0, 0) ∧
    ({ running with frame := { freshFrame with submitted := (99, []) } } : State).frame.submitted.1 < 100 ∧
    10000 < ({ running with frame := { freshFrame with submitted := (10001, []) } } : State).frame.submitted.1 ∧
    (∀ e ∈ running.launches, e.2.linked = false) := by decide +kernel
theorem wit_EnergyAndQuota_exhausted :
    let b : Bucket := { rate := 5, depth := 1000, level := 128, mode := 1, exh := 0, trapped := false, held := [] }
    let s := { setCtx running 191 { probeTeam with v := 1 } with buckets := [(bucketKey 0 0 1, b), (bucketKey 0 1 1, { b with mode := 2 }), (bucketKey 0 2 1, { b with mode := 3, trapped := true })] }
    let t := setCtx running 0 { probeTeam with pend26 := true }
    bucketAt s 0 0 1 = b ∧ admits b 256 = false ∧ engineRuns s = false ∧ (bucketAt s 0 1 1).mode = 2 ∧ (bucketAt s 0 1 1).trapped = false ∧ (bucketAt s 0 2 1).trapped = true ∧
    (ctxAt s 191).phase ≠ .empty ∧ holds26 s 191 = false ∧ seqReady t 0 = true ∧ (ctxAt t 0).drain = .off ∧ (ctxAt t 0).pend27 = false ∧ (ctxAt t 0).pend26 = true ∧
    settleBank t (coreOf 0) = t ∧
    (let h : List HeldReq := [{ who := .turn (.seq 0), ctx := 0, charge := 130 }, { who := .turn (.seq 2), ctx := 2, charge := 130 }]
     let r : State := { running with buckets := [(1, { b with held := h })] }
     msorted 0 r.buckets = true ∧ mfind r.buckets 1 = some { b with held := h } ∧ mfind (stateAfter r .regulatorTick).buckets 1 = some { b with level := 3, held := h.drop 1 }) := by
  repeat' apply And.intro
  all_goals decide +kernel
theorem wit_EnergyAndQuota :
    let s := { setCtx running 191 { probeTeam with v := 1 } with vnpus := [(1, { freshVnpu with exhausted := true })] }
    let b : Bucket := { rate := 5, depth := 1000, level := 128, mode := 1, exh := 0, trapped := false, held := [] }
    (vnpuAt s 1).exhausted = true ∧ (ctxAt s 191).v = 1 ∧ (ctxAt s 191).phase = .running ∧ (ctxAt (setCtx s 191 { probeTeam with v := 1, phase := .stopped, stopAt := 1 }) 191).stopAt = s.tick.toNat + 1 ∧ (ctxAt s 191).drain = .off ∧ inClassA s 191 = false ∧
    admits b 128 = true ∧ admits { b with mode := 0 } 256 = false ∧ s.run.arg.n = 0 ∧ (ctxAt s 191).launch = s.run.arg.n ∧ isRunning s 190 = false ∧ isRunning s 191 = true ∧
    msorted 0 ({ running with buckets := [(1, b)] } : State).buckets = true ∧ b.held = [] := by decide +kernel
theorem probe_linked (x : Ctx) (h : x.linked = false) : ∀ d, (ctxAt (setCtx running 0 x) d).linked = false := by
  intro d
  simp only [setCtx, ctxAt]
  by_cases hd : d = 0
  · subst hd; exact h
  · have : mget (mput running.ctxs 0 x) d freshCtx = freshCtx := by
      have e : running.ctxs = [] := by decide +kernel
      rw [e]
      simp [mput, mget, mfind, Ne.symm hd]
    rw [this]
    rfl
theorem wit_TeamsLoadWaitAndRetire :
    (let s := withHeader (setCtx running 0 { probeTeam with phase := .loading, loadDue := true })
     (ctxAt s 0).loadDue = true ∧ (ctxAt s 0).phase = .loading ∧ (ctxAt s 0).fault = none ∧
     ∃ s1, loadSteps (setCtx s 0 { atEntry (ctxAt s 0) (entrySched s 0) with fault := none }) 0 = .ok s1) ∧
    blockingWait .kwait = true ∧
    (let s := { setCtx running 0 { probeTeam with wait := .ended, launch := 1 } with launches := [(1, { launchOne with next := 2 })] }
     endedAtPop (ctxAt s 0) = false ∧ retireReady s 0 = true ∧ launchAt s 1 = some { launchOne with next := 2 }) :=
  ⟨⟨by decide +kernel, by decide +kernel, by decide +kernel, ⟨_, rfl⟩⟩, by decide, by decide +kernel⟩
theorem wit_EvictionSavesAndRestoreGivesBack :
    let x := { probeTeam with phase := .stopped, evict := true, hdr := { noHeader with ndr := 1, drtab := 0x40, ctext := 0x80 } }
    let s := setCtx { running with dev := writeBytes running.dev 0x4040 (natLe 4 0 ++ natLe 4 0x1000 ++ natLe 4 0x20) } 0 x
    let t := setCtx running 0 { probeTeam with phase := .stopped, evict := true }
    let sv : Saved := { ctx := probeTeam, core := 0, bank := 0, bytes := [], stub := false, tiles := [], sets := [], cmds := [], epi := [], charge := 0, placing := true }
    s.run.arg.flag = false ∧ (ctxAt s 0).phase = .stopped ∧ (ctxAt s 0).evict = true ∧ (ctxAt s 0).drain = .off ∧ evictReady s 0 = true ∧ (stubOf s 0).2 = some 0x20 ∧ (stubOf s 0).1.run.stuck = false ∧
    evictReady t 0 = true ∧ (stubOf t 0).2 = none ∧ (stubOf t 0).1.run.stuck = false ∧
    (let r := { setCtx running 0 { probeTeam with phase := .loading } with saves := [(1, sv)] }
     mfind r.saves 1 = some sv ∧ msorted 0 r.saves = true ∧ (ctxAt r 0).phase = .loading ∧ sv.placing = true ∧ (ctxAt r 0).launch = sv.ctx.launch ∧
     (ctxAt r 0).team = sv.ctx.team ∧ sv.stub = false) := by decide +kernel

/-! ## Events: power, translation, memory, links -/

def withCluster (p : Cluster) : State := { running with clusters := [(11, p)] }

theorem wit_ClusterLevelsMoveInSteps :
    (clusterAt running 11).gstate = 0 ∧ clustersHeld running = false ∧ running.pwrCap < (argued running { noArg with n := 361 }).run.arg.n ∧
    (let p := clusterAt (withCluster { freshCluster with level := 0, freq := 9 }) 11; targetFreq running p < p.freq) ∧
    (let p := { freshCluster with level := 6, freq := 8, vc := 400 }; p.freq ≤ targetFreq running p ∧ p.vc < levelVc running p.level) ∧
    (let p := { freshCluster with level := 6, freq := 8, vc := levelVc running 6 }; p.freq < targetFreq running p ∧ levelVc running p.level ≤ p.vc) ∧
    (let p := { freshCluster with level := 0, freq := targetFreq running { freshCluster with level := 0 }, vc := levelVc running 0 + 1 }
     p.freq = targetFreq running p ∧ levelVc running p.level < p.vc) ∧
    clustersHeld { running with railsOff := true } = true ∧ clustersHeld { running with fw := { running.fw with mode := .recovery } } = true ∧
    11 < (argued running { noArg with nums := List.replicate 12 126 }).run.arg.nums.length := by decide +kernel
theorem test_ramp_goes_down_by_25_mhz : (clusterAt (stateAfter (withCluster { freshCluster with level := 0, freq := 9 }) (.levelRampStep 11)) 11).freq = 8 := by
  decide +kernel
theorem wit_DroopSlopeAndGating :
    let p := { freshCluster with stretch := 6 }
    (clusterAt running 11).stretch = 0 ∧ p.stretch ≠ 0 ∧ (clusterAt (withCluster { freshCluster with throttle := 1 }) 11).throttle ≤ 1 ∧
    8 < targetFreq running { freshCluster with level := 6 } ∧ (1#64).getLsbD 0 = true ∧ inAnyWindow running 11 = true ∧
    (let s := { running with frame := { freshFrame with view := [] } }; inAnyWindow s 11 = false ∧ anyRetiring s = false ∧ s.fw.upd ≠ 3 ∧ s.fw.upd ≠ 4) ∧
    running.fw.mode ≠ .recovery ∧ (clusterAt running 11).gstate = 0 ∧ (∀ c ∈ coresOfCluster 11, coreRetiring running c = false) ∧
    (∃ c ∈ coresOfCluster 11, coreRetiring (modCore running 95 fun k => { k with frozen := true }) c = true) ∧
    (clusterAt (withCluster { freshCluster with gstate := 3 }) 11).gstate = 3 ∧ (clusterAt (withCluster { freshCluster with gstate := 1 }) 11).gstate = 1 ∧
    clusterQuiet (withCluster { freshCluster with gstate := 1 }) 11 = true ∧ (clusterAt (withCluster { freshCluster with gstate := 2 }) 11).gstate = 2 ∧
    (clusterAt (withCluster { freshCluster with gstate := 4 }) 11).gstate = 4 ∧
    clustersHeld (withCluster { freshCluster with gstate := 4 }) = false := by decide +kernel
theorem test_droop_response : let t := stateAfter running (.droopAlarm 11)
    (clusterAt t 11).stretch = 6 ∧ (clusterAt t 11).throttle = 0 ∧ (clusterAt (nextCycle t 11) 11).throttle = 64 := by
  decide +kernel

def pageFault : OutFault := { id := 0, v := 0, ctx := 0, unit := 0, engine := false, lane := false, va := 0x4000, kind := 0, malf := false, src := 0 }
def heldFault : SeqFault := { id := 0, va := 0x4000, answered := false, switched := false }

theorem wit_TranslationsAndPageFaults :
    inert running = false ∧ (1#64).getLsbD 0 = true ∧ running.xlate.tiBusy = false ∧ ({ running with xlate := { running.xlate with tiBusy := true } } : State).xlate.tiBusy = true ∧
    tiPending running 0 = false ∧ tdEn 0x10082 = true ∧ wbits (tdReg { running with xlate := { running.xlate with td := [(0, 0x8081), (1, 0x10082), (2, 2)] } } 0 0 2) 31 0 =
      2 ^ tdB 0x8081 ∧
    lockedMode running 0 = false ∧ wbits 5 63 48 = 0 ∧ walk running 0 5 = .ok 0 0x10011F ∧ lockedCount (coreAt running 95).tlb < 192 ∧
    (let s := setCtx running 0 probeTeam; isTeam 0 = true ∧ (ctxAt s 0).phase = .running ∧ (ctxAt s 0).drain = .off ∧ (ctxAt s 0).fault = none) ∧
    (let s := { running with xlate := { running.xlate with unposted := [pageFault] } }
     s.xlate.unposted = pageFault :: [] ∧ (s.xlate.pfqTail - s.xlate.pfqHead).toNat < 128 * 2 ^ wbits s.xlate.pfqBase 3 0 ∧ Memory.wf s.host = true) ∧
    (let s := { setCtx running 0 { probeTeam with fault := some heldFault } with xlate := { running.xlate with outstanding := [pageFault] } }
     inert s = false ∧ s.xlate.outstanding.find? (fun g => g.id == wbits 0 31 0) = some pageFault ∧ (ctxAt s 0).phase ≠ .empty ∧ (0#64).getLsbD 32 = false ∧
     (ctxAt s 0).fault = some heldFault ∧ heldFault.id = pageFault.id) := by decide +kernel

def pendOf (k : AccKind) (mt : Nat) (pl : PendAt) : Pend :=
  { kind := k, va := 0x40, pa := 0x4040, mt := mt, home := 0, rc := false, sy := false, bytes := 8, value := 7, compare := 0, dst := 3, ord := .plain, pc := 0x100,
    place := pl, result := 9 }
def withPend (p : Pend) : State := setCtx running 0 { probeTeam with mem := [p] }

theorem wit_PendingAccessesAreServedAndReturn :
    (let p := pendOf .load 0 .atSlice
     pendAt (ctxAt (withPend p) 0) 0 = some p ∧ olderSameLine (ctxAt (withPend p) 0) 0 p = false ∧ lostLine (withPend p) p.pa = false ∧ isAtomicKind p.kind = false) ∧
    pendAt (ctxAt (withPend (pendOf .store 1 .atSlice)) 0) 0 = some (pendOf .store 1 .atSlice) ∧
    isAtomicKind (.amo .fadd) = true ∧ running.run.arg.nums = [] ∧ returnsKind (pendOf .load 0 .done).kind = true ∧ returnsKind .store = false ∧
    pendAt (ctxAt (withPend (pendOf .load 0 .done)) 0) 0 = some (pendOf .load 0 .done) ∧ (pendOf .load 0 .done).dst < 60 ∧
    pendAt (ctxAt (withPend (pendOf .load 2 .atSlice)) 0) 0 = some (pendOf .load 2 .atSlice) ∧
    unreachable { withPend (pendOf .load 2 .atSlice) with ports := [(0, { freshPort with state := 2 })] } = false ∧
    (let s := argued (withPend (pendOf .load 2 .away)) { noArg with n := 0, m := 0 }
     (pendOf .load 2 .away).place = .away ∧ s.run.arg.write = false ∧ s.run.arg.flag = false ∧ s.run.arg.flag2 = false ∧
     ∀ e ∈ s.ctxs, ∀ q ∈ e.2.mem, q.place ≠ .behind 0) := by decide +kernel
theorem test_reply_writes_the_register : mget (ctxAt (stateAfter (withPend (pendOf .load 0 .done)) (.memoryReply 0 0)) 0).regs 3 0 = 9 := by decide +kernel
theorem test_store_reaches_memory : readLe (stateAfter (withPend (pendOf .store 0 .atSlice)) (.sliceAccess 0 0)).dev 0x4040 8 = 7 := by decide +kernel

/-- A flit of team 1, port 2, and what the relay slice holds of team 0. -/
def someFlit : Flit := { team := 1, port := 2, value := 9 }
def relayed : RelayFlit := { v := 0, launch := 1, team := 0, port := 3, flit := someFlit }
def flitTeam : Ctx := { probeTeam with linked := true, nteams := 2, launch := 1 }
def flitState : State :=
  { setCtx (setCtx running 0 { flitTeam with tx := [(3, [someFlit])] }) 2 { flitTeam with team := 1 } with launches := [(1, { launchOne with next := 2 })] }
theorem wit_FlitsFramesAndPatrol :
    (flitState.run.arg.flag = false ∧ mget (ctxAt flitState 0).tx 3 [] = someFlit :: [] ∧ flitState.relay.any (sameRoute relayed) = false ∧
     flitGo flitState (ctxAt flitState 0).launch someFlit = .to 2 ∧ flitGo { flitState with launches := [] } (ctxAt flitState 0).launch someFlit = .gone) ∧
    (let s := argued { flitState with relay := [relayed] } { noArg with flag := true }
     s.run.arg.flag = true ∧ s.relay = relayed :: [] ∧ flitGo s relayed.launch relayed.flit = .to 2) ∧
    (argued running { noArg with n := spareFrame - 1 }).run.arg.n < spareFrame ∧ mfind running.mgmt.remap (spareFrame - 1) = none ∧ freeSpare running < 256 ∧
    Memory.wf running.dev = true ∧ mfind [(0, ((7 : Nat), (1#256)))] 0 = some (7, 1#256) ∧
    (argued running { noArg with scrub := .clean }).run.arg.scrub = .clean ∧ (argued running { noArg with scrub := .corrected }).run.arg.scrub = .corrected ∧
    (argued running { noArg with scrub := .uncorrectable }).run.arg.scrub = .uncorrectable := by decide +kernel
def remapped (l : SMap (Nat × BitVec 256)) : State := { running with mgmt := { running.mgmt with remap := l } }
/-- Every spare frame is taken; a frame found none then, and one is free again. -/
theorem wit_FlitsFramesAndPatrol_full :
    let used := (List.range 256).map fun i => (i + 1, (i, 0#256))
    mfind (remapped used).mgmt.remap 0 = none ∧ 256 ≤ freeSpare (remapped used) ∧
    mfind (remapped ((0, (256, 1#256)) :: used)).mgmt.remap 0 = some (256, 1#256) ∧ 256 ≤ freeSpare (remapped ((0, (256, 1#256)) :: used)) ∧
    mfind (remapped [(0, (256, 1#256))]).mgmt.remap 0 = some (256, 1#256) ∧ freeSpare (remapped [(0, (256, 1#256))]) < 256 := by decide +kernel
/-- R49: a move of the frame that fails stops. -/
theorem test_a_failing_frame_stops_its_move :
    let mv : Move := { v := 0, vpn16 := 0, size := 0, dest := 1, pa := 0x4000, driver := true, stop := false }
    let s := argued { running with mgmt := { running.mgmt with moving := [mv] } } { noArg with n := 1 }
    ((stateAfter s .frameRemap).mgmt.moving.map (·.stop)) = [true] := by decide +kernel
/-- R234: a second error of a frame without a spare. -/
theorem test_a_second_failing_line : (mfind (stateAfter (argued (remapped ((0, (256, 1#256)) :: (List.range 256).map fun i => (i + 1, (i, 0#256)))) { noArg with n := 0, off := 2 })
    .frameRemap).mgmt.remap 0) = some (256, 3#256) := by decide +kernel

theorem wit_HostWindowAndRemoteAccesses :
    lostLine running 0x10000 = false ∧ Memory.wf running.dev = true ∧ bar4Open 0x003DFFFFFFFF 8 = false ∧
    (argued running { noArg with write := true }).run.arg.write = true ∧ running.run.arg.write = false ∧ running.run.arg.flag = false ∧
    (let p := pendOf .load 1 .away
     let s := argued (withPend p) { noArg with flag := true }
     s.run.arg.flag = true ∧ s.run.arg.len = 0 ∧ pendAt (ctxAt s s.run.arg.n) s.run.arg.m = some p ∧ p.mt = 1 ∧ p.place ≠ .done) ∧
    (let s := argued running { noArg with flag := true, len := 3 }; s.run.arg.len ≠ 0 ∧ hostWaiter s s.run.arg = some (.turn (.mem 0))) ∧
    noContract running 1 = true ∧ noContract running 0 = false ∧ pageMoving running 0 0x4000 = false ∧
    (let mv : Move := { v := 0, vpn16 := 0, size := 0, dest := 1, pa := 0x4000, driver := true, stop := false }
     pageMoving { running with mgmt := { running.mgmt with moving := [mv] } } 0 0x4000 = true) := by decide +kernel
/-- Wherever the firmware regions lie, there is an address below 256 MiB outside them. -/
theorem open_address : ∃ k < 3, ∀ o < 2 ^ 26, inFwRegion (k * 2 ^ 26 + o) = false := by
  have shut : ∀ d k o, o < 2 ^ 26 → Config.fwRegion d % 3967 ≠ k → fwOffset d (k * 2 ^ 26 + o) = none := by
    intro d k o h hk
    simp only [fwOffset, fwBase]
    exact if_neg (by omega)
  have pick : ∀ a b : Nat, ∃ k < 3, a ≠ k ∧ b ≠ k := fun a b => by
    by_cases h0 : a = 0 ∨ b = 0
    · by_cases h1 : a = 1 ∨ b = 1
      · exact ⟨2, by decide, by omega, by omega⟩
      · exact ⟨1, by decide, by omega, by omega⟩
    · exact ⟨0, by decide, by omega, by omega⟩
  obtain ⟨k, hk, h0, h1⟩ := pick (Config.fwRegion 0 % 3967) (Config.fwRegion 1 % 3967)
  refine ⟨k, hk, fun o ho => ?_⟩
  have e0 := shut 0 k o ho h0
  have e1 := shut 1 k o ho h1
  generalize k * 2 ^ 26 + o = pa at *
  simp [inFwRegion, List.range, List.range.loop, e0, e1]
theorem wit_HostWindowAndRemoteAccesses_open : ∃ pa, bar4Open pa 8 = true ∧ outOfReach pa = false ∧ pa % 2 ^ 46 = pa ∧ pageMoving running 0 pa = false ∧
    lostLine running pa = false ∧ lostLine (remapped [(pa / 16384, (7, 1#256))]) pa = true ∧ outOfReach spareBase = true ∧
    (let mv : Move := { v := 0, vpn16 := 0, size := 0, dest := 1, pa := pa, driver := true, stop := false }
     pageMoving { running with mgmt := { running.mgmt with moving := [mv] } } 0 pa = true) := by
  obtain ⟨k, hk, h⟩ := open_address
  have h0 := h 0 (by decide)
  have h7 := h 7 (by decide)
  have e : k = 0 ∨ k = 1 ∨ k = 2 := by omega
  refine ⟨k * 2 ^ 26 + 0, ?_, ?_, by omega, ?_, ?_, ?_, by simp [outOfReach], ?_⟩
  · simp only [bar4Open, h0, show k * 2 ^ 26 + 0 + 8 - 1 = k * 2 ^ 26 + 7 by omega, h7]; simp; omega
  · simp only [outOfReach, h0]; rcases e with rfl | rfl | rfl <;> decide
  · rfl
  · rfl
  · rcases e with rfl | rfl | rfl <;> decide +kernel
  · rcases e with rfl | rfl | rfl <;> decide +kernel

def ringOf2 (p : Port) : State := { running with mgmt := { running.mgmt with modcfg := 0x41 }, ports := [(0, p)] }
def goodFlit : List Byte := List.replicate 256 0
def farFlit : List Byte := natLe 8 (2 ^ 38) ++ List.replicate 240 0 ++ natLe 8 8342527299893474475

theorem wit_LinksAndMigration :
    let up := { freshPort with state := 2, lanes := 16 }
    ringOn running = false ∧ (0x45#64).getLsbD 0 = true ∧ 1 ≤ wbits 0x45 7 5 ∧ wbits 0x45 7 5 ≤ 4 ∧ wbits 0x45 4 2 < wbits 0x45 7 5 ∧
    (let s := ringOf2 up
     ringOn s = true ∧ (portAt s 0).state = 2 ∧ flitBad s goodFlit = false ∧ flitSeq goodFlit = ((portAt s 0).rxGood + 1) % 1024 ∧
     flitBad s farFlit = false ∧ flitDest farFlit ≠ modId s ∧ flitBad s (List.replicate 256 1) = true ∧ (portAt s 0).sparesTx ≠ 0 ∧ (portAt s 0).sparesRx ≠ 0) ∧
    flitSeq goodFlit ≠ ((portAt (ringOf2 { up with rxGood := 5 }) 0).rxGood + 1) % 1024 ∧
    (let s := ringOf2 { up with queues := [(3, [farFlit])], sparesTx := 0, sparesRx := 0 }
     (portAt s 0).replay.length < 512 ∧ nextClass (portAt s 0) = some 3 ∧ mget (portAt s 0).queues 3 [] = farFlit :: [] ∧ (portAt s 0).sparesTx = 0 ∧ (portAt s 0).sparesRx = 0 ∧
     (portAt s 0).lanes = 16) ∧ (portAt (ringOf2 { up with state := 3 }) 0).state = 3 ∧ (portAt (ringOf2 { up with state := 1 }) 0).state = 1 ∧ inert running = false ∧
    (argued (ringOf2 { up with state := 3 }) { noArg with m := 16 }).run.arg.m ≠ 0 ∧
    (let s := { running with mgmt := { running.mgmt with linkPending := [(0, true)] } }; ∀ e ∈ s.mgmt.linkPending, e.1 = 0) := by decide +kernel
theorem test_good_flit_is_counted : (portAt (stateAfter (argued (ringOf2 { freshPort with state := 2 }) { noArg with data := goodFlit }) .flitReceive) 0).rxGood = 0 := by
  decide +kernel

/-- Page 0 of VNPU 0 may move: bit 10 of its leaf. -/
def movable : State := let s := ringOf2 { freshPort with state := 2 }; { s with dev := writeBytes s.dev 0x8000 (natLe 8 0x10041F) }
theorem wit_LinksAndMigration_moves :
    running.mgmt.migStatus ≠ 1 ∧ running.fw.mode ≠ .dead ∧ (match moveCheck running 0 0 2 0 with | .error n => n == 4 | .ok _ => false) = true ∧ (match moveCheck movable 0 0 2 0 with | .error n => n == 2 | .ok _ => false) = true ∧
    (match moveCheck movable 0 0 0 1 with | .error _ => false | .ok r => r == (0x8000, 0x10041F)) = true ∧
    inert running = false ∧ running.mgmt.ucieFailed.getLsbD 15 = false := by decide +kernel
/-- The move of page 0; ending, it may be stopped, done, or have to wait for an access to the page. -/
def moving (stop : Bool) (a : EventArg) : State :=
  argued { movable with mgmt := { movable.mgmt with moving := [{ v := 0, vpn16 := 0, size := 0, dest := 1, pa := 0x4000, driver := true, stop := stop }] } } a
def heldRequest : Event := { i := .remoteRequest, arg := { noArg with msg := { noArg.msg with pa := 0x4040 } } }
theorem wit_LinksAndMigration_done :
    (∃ mv, (moving true noArg).mgmt.moving = [mv] ∧ oldAccess (moving true noArg) mv = false ∧ moveStops (moving true noArg) mv = true) ∧
    (∃ mv, (moving false { noArg with m := 5 }).mgmt.moving = [mv] ∧ oldAccess (moving false noArg) mv = false ∧ moveStops (moving false noArg) mv = false ∧
      heldForPage mv heldRequest = true) ∧
    leafEntry (moving false noArg) 0 0 0 = some 0x8000 ∧ (moving false noArg).run.arg.flag = false ∧ (moving false noArg).run.arg.flag3 = false ∧
    (moving true { noArg with flag := true }).run.arg.flag = true ∧ leafMT 0x10021F ≠ 0 ∧ leafMT 0x10C01F = 0 ∧ wbits 0x10C01F 15 14 = 3 ∧
    running.mgmt.remap = [] ∧ Memory.wf running.dev = true ∧
    (∃ mv, (moving false noArg).mgmt.moving = [mv] ∧ oldAccess (setCtx (moving false noArg) 0 { probeTeam with mem := [pendOf .load 0 .atSlice] }) mv = true) :=
  ⟨⟨_, rfl, by decide +kernel, by decide +kernel⟩, ⟨_, rfl, by decide +kernel, by decide +kernel, by decide +kernel⟩, by decide +kernel, by decide, by decide, by decide,
    by decide, by decide, by decide, by decide, by decide +kernel, ⟨_, rfl, by decide +kernel⟩⟩
/-- R48, R217: the leaf here names the new home and its frame; the access that waited for the page goes on there. -/
theorem test_page_has_moved :
    let s := moving false { noArg with m := 5 }
    let t := stateAfter { s with run := { s.run with inputs := [heldRequest] } } .pageMigrationDone
    readLe t.dev 0x8000 8 = 0x504E1F ∧ (t.out.pages.map fun p => (p.dest, p.leaf)) = [(1, 0x504C1F)] ∧
    (t.out.remote.map fun r => (r.dest, r.pa)) = [(1, 5 * 16384 + 0x40)] ∧ t.run.inputs = [] ∧ t.mgmt.migStatus = 5 := by decide +kernel
/-- R50: the third move within 1 ms pins the page. -/
theorem wit_LinksAndMigration_pinned :
    let s := moving false noArg
    3 ≤ (recentMoves { s with mgmt := { s.mgmt with moves := [(moveKey 0 0, [0, 0])] } } (moveKey 0 0)).length := by decide +kernel
theorem wit_ErrorsAndRetirements_counts :
    let k := unitKey noArg
    let s := { running with mgmt := { running.mgmt with transientAt := [(k, List.replicate 15 0)] } }
    running.mgmt.threshold = 16 ∧ (mget s.mgmt.transientAt k []).length = 15 ∧
    s.tick.toNat ≤ (mget s.mgmt.transientAt k []).reverse.getD 14 0 + 360000000000 ∧ (mget running.mgmt.transientAt k []).length < 15 ∧
    (mget s.mgmt.transientAt k []).reverse.getD 14 0 + 360000000000 < ({ s with tick := 360000000001 } : State).tick.toNat ∧
    ({ running with fw := { running.fw with mode := .dead } } : State).fw.mode = .dead ∧ spareFrame - 1 < spareFrame := by decide +kernel
theorem test_sixteenth_error_is_lasting :
    let k := unitKey noArg
    let s := { running with mgmt := { running.mgmt with transientAt := [(k, List.replicate 15 0)] } }
    ((stateAfter s .lastingError).run.inputs.map fun e => (e.i, e.arg.flag)) = [(.transientThreshold, true)] := by decide +kernel
theorem wit_ErrorsAndRetirements :
    running.run.arg.flag = false ∧ running.run.arg.flag2 = false ∧ running.run.arg.flag3 = false ∧ running.fw.mode ≠ .dead ∧
    (argued running { noArg with flag := true, n := 95 }).run.arg.flag = true ∧ (coreAt running 95).absent = false ∧ (coreAt running 95).frozen = false ∧
    (coreAt (modCore running 95 fun k => { k with absent := true }) 95).absent = true ∧
    (coreAt (modCore running 95 fun k => { k with frozen := true }) 95).frozen = true ∧ inClassAWindow running 95 = false ∧
    (let u := runOf (owned 1 [1, 2]) 0 (headCmd (owned 1 [1, 2]) 0 0 (.macl overCmd))
     (coreAt (modCore running 95 fun k => { k with units := [(3, u)] }) 95).units ≠ []) ∧ spareUsed running 11 = 0 ∧ spareUsed running (slicePool 1) = 0 ∧
    mget running.mgmt.sliceMap 95 0 < 1000 ∧ spareUsed { running with mgmt := { running.mgmt with spareUsed := [(slicePool 1, 1)] } } (slicePool 1) ≠ 0 := by
  decide +kernel

/-! ## Events: registers, resets, firmware; steps -/

theorem wit_HostRegisterAccesses :
    (argued running { noArg with flag3 := true }).run.arg.flag3 = true ∧ (argued running { noArg with len := 8 }).run.arg.flag3 = false ∧
    (argued running { noArg with len := 8 }).run.arg.len = 8 ∧ (16 : Nat) ≠ 0 ∧ running.numVFs < 16 ∧ running.fw.mode = .running ∧ (1#64).getLsbD 0 = true ∧
    running.contracts.busy = false ∧ ({ running with fw := { running.fw with mode := .recovery } } : State).fw.mode = .recovery ∧ (0 : Nat) < 0x600000 ∧ (0 : Nat) ≠ 8 ∧
    1 ≤ ({ running with numVFs := 16 } : State).numVFs ∧ (ringAt { running with numVFs := 16 } 16 63).en = false := by decide +kernel
theorem wit_ResetsLeave : running.run.arg.flag = false ∧ (argued running { noArg with flag := true }).run.arg.flag = true ∧ running.fw.mode = .running ∧
    ({ running with fw := { running.fw with mode := .recovery } } : State).fw.mode = .recovery := by decide
theorem test_vf_limit : (stateAfter (argued running { noArg with len := 8 }) (.registerWrite 0 7 0x10 16)).numVFs = 16 ∧
    (stateAfter (argued running { noArg with len := 8 }) (.registerWrite 0 7 0x10 17)).numVFs = 0 := by decide +kernel

/-- A bank image of no payload, format 1.0, version 5. -/
def imageHeader : List Byte := natLe 4 0x47464B50 ++ natLe 4 0x10001 ++ natLe 4 5 ++ List.replicate 8 0 ++ natLe 4 0 ++ List.replicate 40 0
def flashed (a : Nat) (s : State) : State := { s with fw := { s.fw with flash := writeBytes [] a imageHeader, mode := .rom } }

theorem wit_BootChoosesABank : running.fw.mode ≠ .rom ∧ (flashed 0x200000 running).fw.mode = .rom ∧ selector (flashed 0x200000 running).fw.flash = 0 ∧
    flashReason (flashed 0x1200000 running) 0 = 1 ∧ flashReason (flashed 0 running) 1 = 1 := by decide +kernel
/-- A bank with this header passes all checks but that of its signature. -/
theorem bank_passes (s : State) (m : Memory) (a len : Nat) (k : keyGood s = true) (h : Config.verifies (readBytes m a (576 + bankPlen m a)) = true)
    (x : headerGood m a len = true ∧ readLe m (a + 6) 2 = 1 ∧ bankRollback m a = false ∧ s.fw.counter ≤ bankVer m a) : bankReason s m a len = 0 := by
  simp [bankReason, k, h, x]
/-- The opaque signature check (log 15) decides the rest: where it accepts the key, the banks and the module header, either bank boots. -/
theorem wit_BootChoosesABank_signed (h : ∀ b, Config.verifies b = true) (k : ∀ b, Config.sha512 b = Config.romKeyDigest) :
    flashReason (flashed 0x200000 running) 0 = 0 ∧ flashReason (flashed 0x1200000 running) 1 = 0 ∧
    (keyGood (flashed 0x200000 running) && Config.verifies (readBytes (flashed 0x200000 running).fw.flash 0x10000 0x100000)) = true :=
  ⟨bank_passes _ _ _ _ (by simp [keyGood, k]) (h _) (by decide +kernel), bank_passes _ _ _ _ (by simp [keyGood, k]) (h _) (by decide +kernel), by simp [keyGood, k, h]⟩
/-- Where it accepts what has a bank's length alone, the module header fails. -/
theorem wit_BootChoosesABank_unsigned (h : ∀ b, Config.verifies b = (b.length == 576)) (k : ∀ b, Config.sha512 b = Config.romKeyDigest) :
    flashReason (flashed 0x200000 running) 0 = 0 ∧
    (keyGood (flashed 0x200000 running) && Config.verifies (readBytes (flashed 0x200000 running).fw.flash 0x10000 0x100000)) = false := by
  have p : bankPlen (flashed 0x200000 running).fw.flash (bankAt 0) = 0 := by decide +kernel
  refine ⟨bank_passes _ _ _ _ (by simp [keyGood, k]) ?_ (by decide +kernel), ?_⟩
  · rw [h, p]
    decide +kernel
  · have e : ∀ m a n, (readBytes m a n).length = n := fun m a n => by
      induction n generalizing a with
      | zero => rfl
      | succ n ih => exact congrArg (· + 1) (ih (a + 1))
    rw [h, e, show ((1048576 : Nat) == 576) = false from rfl, Bool.and_false]

def mailing (f : Firmware → Firmware) : State := { running with fw := f { running.fw with mailBusy := true } }

theorem wit_MailboxCommands :
    (mailing id).fw.mailBusy = true ∧ (mailing fun f => { f with mode := .recovery }).fw.mode = .recovery ∧ (mailing id).fw.pendc = false ∧
    (let s := mailing fun f => { f with pendc := true, fwver := 64 }; s.fw.pendc = true ∧ s.fw.rolled = false ∧ s.fw.fwver - s.fw.counter ≤ 64) ∧
    64 < (mailing fun f => { f with fwver := 65 }).fw.fwver - (mailing id).fw.counter ∧
    (let s := mailing fun f => { f with latched := List.replicate 8 0 ++ natLe 8 1 }; cmdArg s 0 = 1 ∧ cmdArg s 0 ∉ s.fw.passed ∧ cmdArg s 0 ≠ s.fw.bank) ∧
    (mailing id).fw.upd = 0 ∧ (mailing id).fw.staged = none ∧ bankReason (mailing id) [] 0 0 = 1 ∧ (mailing id).fw.mode ≠ .dead ∧ (mailing id).fw.failover = .none ∧
    (mailing fun f => { f with mode := .dead }).fw.mode = .dead ∧ running.fw.mailBusy = false ∧ (mailing fun f => { f with failover := .failed false }).fw.failover ≠ .none ∧ (mailing id).fw.mode = .running ∧ (argued (mailing id) { noArg with n := 1, m := 9 }).run.arg.n ≠ 2 := by
  decide +kernel
/-- STAGE of an image at 0x40, of 576 bytes, and of one at 0x80, where there is none. -/
def staging (a : Nat) : State :=
  { mailing (fun f => { f with latched := List.replicate 8 0 ++ natLe 8 a ++ natLe 8 576 ++ natLe 8 1 }) with dev := writeBytes [] 0x40 imageHeader }
def stagedImage (a : Nat) : Memory :=
  regionGet (regionPut (staging a) (activeDie (staging a)) stagingHalf (servedMemory (staging a)) (cmdArg (staging a) 0) (cmdArg (staging a) 1)) (activeDie (staging a))
    stagingHalf (cmdArg (staging a) 1)
/-- With the firmware regions (log 21) in the second 64 MiB. -/
theorem staged_image (r : Config.fwRegion = fun _ => 1) : stagedImage 0x40 = writeBytes [] 0 imageHeader ∧ stagedImage 0x80 = [] := by
  have e : ∀ d, fwBase d = 2 ^ 26 := fun d => by simp [fwBase, r]
  have o : fwOffset = fun die pa => if 2 ^ 26 ≤ pa ∧ pa < 2 ^ 27 ∧ lineDie (lineOf pa) = die then
      some (((lineOf pa - 2 ^ 20) / 32 * 16 + (lineOf pa - 2 ^ 20) % 16) * 64 + pa % 64) else none := by funext d a; simp [fwOffset, e]
  have p : fwAddr = fun die off => (if lineDie (2 ^ 20 + off / 64 / 16 * 32 + off / 64 % 16) = die then 2 ^ 20 + off / 64 / 16 * 32 + off / 64 % 16
      else 2 ^ 20 + off / 64 / 16 * 32 + off / 64 % 16 + 16) * 64 + off % 64 := by funext d a; simp [fwAddr, e]
  unfold stagedImage regionGet regionPut
  rw [o, p]
  decide +kernel
theorem wit_MailboxCommands_image (r : Config.fwRegion = fun _ => 1) :
    headerGood (stagedImage 0x40) 0 576 = true ∧ readLe (stagedImage 0x40) (0 + 6) 2 = 1 ∧ bankRollback (stagedImage 0x40) 0 = false ∧
    (staging 0x40).fw.counter ≤ bankVer (stagedImage 0x40) 0 ∧ headerGood (stagedImage 0x80) 0 576 = false := by
  rw [(staged_image r).1, (staged_image r).2]
  decide +kernel
theorem wit_MailboxCommands_stage (h : ∀ b, Config.verifies b = true) (k : ∀ b, Config.sha512 b = Config.romKeyDigest) (r : Config.fwRegion = fun _ => 1) :
    cmdArg (staging 0x40) 1 = 576 ∧ (staging 0x40).fw.mailBusy = true ∧ bankReason (staging 0x40) (stagedImage 0x40) 0 576 = 0 ∧
    bankReason (staging 0x80) (stagedImage 0x80) 0 576 = 1 :=
  have x := wit_MailboxCommands_image r
  ⟨by decide +kernel, by decide +kernel, bank_passes _ _ _ _ (by simp [keyGood, k]) (h _) ⟨x.1, x.2.1, x.2.2.1, x.2.2.2.1⟩, by simp [bankReason, x.2.2.2.2]⟩
theorem wit_LiveUpdateAndTakeover :
    (let s := mailing fun f => { f with staged := some 1, lastStageOk := true, standby := true }
     s.fw.mailBusy = true ∧ s.fw.mode = .running ∧ s.fw.upd = 0 ∧ s.fw.staged = some 1 ∧ s.fw.lastStageOk = true ∧ 1 ≠ s.fw.bank ∧ s.fw.standby = true ∧
     s.fw.failover = .none ∧ anyRetiring s = false ∧ s.run.arg.flag = false ∧ s.run.arg.nums = [] ∧ importOk (stateTable (setUpd s 2)) = true) ∧
    (let s := mailing fun f => { f with upd := 3, staged := some 1, quiesced := true }; s.fw.upd = 3 ∧ s.fw.quiesced = true ∧ s.fw.failover = .none ∧ s.fw.staged = some 1 ∧ takeoverClear s = true) ∧
    (mailing fun f => { f with upd := 4 }).fw.upd = 4 ∧
    (let s := { mailing (fun f => { f with upd := 3, quiesced := true }) with tick := 500000 }; s.fw.quiesced = true ∧ s.fw.quiesceStart + 500000 ≤ s.tick.toNat ∧
      ({ s with tick := 499999 } : State).tick.toNat < s.fw.quiesceStart + 500000) ∧ (mailing id).fw.quiesced = false ∧
    (let s := mailing fun f => { f with standby := true }; anyRetiring s = false ∧ anyRetiring (modCore s 95 fun k => { k with frozen := true }) = true) ∧
    (let s := argued (mailing fun f => { f with upd := 4 }) { noArg with n := 1 }; ¬ (s.run.arg.flag = true ∨ s.run.arg.n = 1 ↔ s.fw.chardActive = true) ∧ s.fw.standby = false) ∧
    (let s := mailing fun f => { f with standby := true }; (s.run.arg.flag = true ∨ s.run.arg.n = 1 ↔ s.fw.chardActive = true) ∧ s.fw.standby = true ∧ s.fw.upd = 0) ∧
    (let s := mailing fun f => { f with failover := .failed true, upd := 3, quiesced := true }; s.fw.failover = .failed true ∧ s.fw.quiesced = true ∧ takeoverClear s = true) ∧
    (mailing id).fw.standby = false ∧ (mailing fun f => { f with mode := .dead }).fw.mode ≠ .running ∧
    (let s := mailing fun f => { f with failover := .failed false, upd := 3, quiesced := true }; s.fw.failover = .failed false ∧ takeoverClear s = true) := by decide +kernel
theorem wit_AttestationAnswers : (mailing id).fw.mode ≠ .dead ∧ (mailing fun f => { f with mode := .dead }).fw.mode = .dead ∧
    (mailing fun f => { f with quiesced := true }).fw.quiesced = true ∧ (mailing id).fw.quiesced = false ∧
    (mailing fun f => { f with idok := false }).fw.idok = false ∧ (mailing fun f => { f with idok := true }).fw.idok = true := by decide

theorem wit_ControlWordsRoundTrip : (Instr.jtab 1 2 8191).wf = true ∧ encodeControl (.jtab 1 2 8191) ≠ none ∧ (Instr.extr 1 2 63 0).wf = true := by decide
theorem wit_LaneWordsAndCommandsRoundTrip : (Instr.vadd (fieldsFor 1)).wf = true ∧ laneParts (.vadd (fieldsFor 1)) = some (1, fieldsFor 1) ∧
    commandParts (.macl overCmd) = some (0, 5, overCmd) := by decide

/-- The word of ADD r3, r1, r2 at the PC of a team in the running module; a header at its lane position. -/
def fetching (lane : Bool) : State :=
  let x := { probeTeam with pc := 0x100, lanes := { laneTeam.lanes with sects := if lane then laneTeam.lanes.sects else [], pos := if lane then 8 else 0 } }
  let s := modCore (setCtx { running with dev := writeBytes running.dev 0x4000 (leBytes 8 0xB40004104C000000 ++ leBytes 8 0x1C00000000000000 ++ leBytes 4 0) } 0 x) 0
    fun k => { k with tlb := [probePage] }
  { s with dev := writeBytes s.dev 0x4100 (leBytes 4 0x04302040) }

/-- The start of a turn. -/
def beginning (t : Turn) (s : State) : State := began (.turn t) { s with run := { s.run with rota := [t] } }
theorem wit_StepRunsTheDecodedInstruction :
    (let s := { fetching false with run := { running.run with rota := [.seq 0] } }
     let rs := settleBank (beginning (.seq 0) s) (coreOf 0)
     s.run.inputs = [] ∧ s.railsOff = false ∧ (clusterAt s (clusterOf (coreOf 0))).clocked = true ∧ s.run.rota = .seq 0 :: [] ∧ seqReady rs 0 = true ∧ (ctxAt rs 0).pend26 = false ∧ (ctxAt rs 0).pend27 = false ∧
     (ctxAt rs 0).fault = none ∧ (ctxAt rs 0).pc.toNat % 4 = 0 ∧
     (∃ s1, fetch4 rs 0 false 0x100 = (s1, .ok [0x40, 0x20, 0x30, 0x04]) ∧ s1.run.stuck = false) ∧
     ∃ i, decodeControlBytes [0x40, 0x20, 0x30, 0x04] = .ok (i, [])) ∧
    (let s := { fetching false with run := { running.run with rota := [.lanes 0] } }
     lanesReady s 0 = true ∧ halfIssue s 0 = false ∧ (ctxAt s 0).laneFault = none ∧ (ctxAt s 0).lanes.pos % 4 = 0 ∧
     (∃ s1, fetchWords (beginning (.lanes 0) s) 0 true 0 2 = (s1, .ok (leBytes 8 0xB40004104C000000)) ∧ s1.run.stuck = false) ∧
     ∃ i, decodeItemBytes (leBytes 8 0xB40004104C000000) = .ok (i, [])) ∧
    (let s := { fetching true with run := { running.run with rota := [.lanes 0] } }
     let h := leBytes 8 0x1C00000000000000
     lanesReady s 0 = true ∧ halfIssue s 0 = false ∧ (ctxAt s 0).laneFault = none ∧ (ctxAt s 0).lanes.pos = 8 ∧
     (∃ s1, fetchWords (beginning (.lanes 0) s) 0 true 8 2 = (s1, .ok h) ∧ s1.run.stuck = false ∧
       ∃ s2, fetch4 s1 0 true 16 = (s2, .ok [0, 0, 0, 0]) ∧ s2.run.stuck = false) ∧
     decodeHeaderBytes h = .error .notAHeader ∧ ∃ i, decodeItemBytes (h ++ [0, 0, 0, 0]) = .ok (i, [])) := by
  repeat' apply And.intro
  all_goals first
    | decide +kernel
    | rfl
    | exact ⟨_, rfl⟩
    | exact ⟨_, rfl, by decide +kernel⟩
    | skip
  refine ⟨(fetchWords (beginning (.lanes 0) { fetching true with run := { running.run with rota := [.lanes 0] } }) 0 true 8 2).1, by decide +kernel, by decide +kernel,
    (fetch4 (fetchWords (beginning (.lanes 0) { fetching true with run := { running.run with rota := [.lanes 0] } }) 0 true 8 2).1 0 true 16).1, by decide +kernel,
    by decide +kernel⟩
theorem wit_StepRunsTheDecodedInstruction_turns :
    (∃ s1, turnOf .beat (beginning .beat { running with run := { running.run with rota := [.beat] } }) = (s1, none)) ∧ running.run.stuck = false ∧
    (stall running).run.stuck = true := ⟨⟨_, rfl⟩, by decide +kernel, by decide +kernel⟩
theorem wit_StepRunsTheDecodedInstruction_inputs :
    (let e : Event := { i := .frameBoundary, arg := noArg }; e.i.wf = true ∧ EventArg.fits e.i e.arg = true) ∧ (Instr.guestReset 0).wf = false := by decide
theorem wit_EveryInstructionGoesOn : ∀ e more, State.reset.run.inputs = e :: more → e.i.wf = true ∧ EventArg.fits e.i e.arg = true := by
  intro e more h
  cases h
  decide
theorem wit_StepsKeepMemoriesCanonical : memoriesCanonical State.reset = true ∧ ∃ t, step State.reset = .next t := ⟨by decide, ⟨_, rfl⟩⟩

/-! ## Further cases: arithmetic of the array, events -/

/-- A pass of a stream of rows of format `fa` whose first values are `x`, through a tile of format `fw` whose first values are `w`. -/
def passing (fa fw : Nat) (x w : List Byte) : State × EngineFields × Tile :=
  let s := owned 1 [1, 2]
  (modCore s 0 fun k => { k with scratch := writeBytes [] (9 * 4096) x }, ranges (BitVec.ofNat 64 (fa * 2 ^ 60)) 1 1 0 0,
    { bank := 0, cur := true, fmt := fw, data := w ++ List.replicate (16384 - w.length) 0, scales := [] })

/-- 1.0 in BF16 meets 1.0, an infinity, two infinities and a NaN; elsewhere zeros meet zeros. -/
theorem wit_StreamAndEpilogue_values :
    (passing 5 5 [] []).2.2.data.length = 16384 ∧ wbits (passing 1 1 [] []).2.1.wa 63 60 = fmtBF16 ∧ wbits (passing 3 4 [] []).2.1.wa 63 60 = fmtE4M3 ∧
    (fMul (decodeF 1 0x3F80) (decodeF 1 0x3F80)).1 = .fin false 16384 (-14) ∧ (fMul (decodeF 1 0x7F80) (decodeF 1 0x3F80)).1 = .inf false ∧
    (fMul (decodeF 1 0xFF80) (decodeF 1 0x3F80)).1 = .inf true ∧ (fMul (decodeF 1 0x7FC0) (decodeF 1 0x3F80)).1 = .nan ∧
    pow2 ((-50) + 50) ≤ (1 * (16384 : Rat) * pow2 (-14)).abs ∧ (1 * (16384 : Rat) * pow2 (-14)).abs < pow2 ((-50) + 51) ∧
    gBits fmtI8 0 = 0 ∧ (∃ m, decodeF 0 (0#32).toNat = .fin false 0 m) ∧ decodeF 0 0x7F800000 = .inf false ∧ decodeF 0 0x7FC00000 = .nan ∧
    ({ freshSet with kindInt := true } : AccSet).kindInt = true ∧ (∀ k < 128, decodeF 0 (mget ({ freshSet with kindInt := false } : AccSet).ent k 0).toNat ≠ .nan) := by
  repeat' apply And.intro
  all_goals first
    | decide +kernel
    | exact ⟨_, rfl⟩
/-- R265: the product of 2 and 3 goes to the entry of column 0. -/
theorem test_int8_pass : (let p := passing 5 5 [2] [3]; (mget (passOf p.1 0 p.2.1 p.2.2 0 0 freshSet).1.ent 0 0).toNat) = 6 := by decide +kernel

theorem wit_QueuePacketEffects_polls :
    let w := packetOf 4 1 0x40 (List.replicate 16 0)
    let q := fun (n : Nat) => withRing enabledRing { enabledQueue with packets := [w], head := .waiting, nextPoll := n }
    let s := q 100
    (queueAt (q 0) 0 0).nextPoll ≤ (q 0).tick.toNat ∧ s.tick.toNat < (queueAt s 0 0).nextPoll ∧ tryAgain s = false ∧
    tryAgain { s with run := { s.run with ledger := [(s.run.agent, .began 0)] } } = true ∧ (∃ s1, feReadIn false (feDie 0) 62 0 8 0x40 (q 0) = .ok (s1, List.replicate 8 0)) := by
  repeat' apply And.intro
  all_goals first
    | decide +kernel
    | exact ⟨_, rfl⟩
/-- R125: the launch that started first gets its record first. -/
theorem wit_LaunchesStartAndComplete_order :
    let x := { launchOne with final := some (1, 0) }
    let s := { running with launches := [(1, x), (2, x)], nextLaunch := 3 }
    launchAt s 2 = some x ∧ earlierEnded s 2 x = true ∧ earlierEnded s 1 x = false := by decide +kernel
theorem wit_DestroyAndGuestReset_standing :
    let p := packetOf 2 0 0 (launchRecord 0 2)
    let s := { withRing enabledRing { enabledQueue with packets := [p], head := .begun } with launches := [(1, launchOne)], nextLaunch := 2 }
    (queueAt s 0 0).busy = false ∧ (queueAt s 0 0).packets = p :: [] ∧ (queueAt s 0 0).ind = none ∧ (queueAt s 0 0).head = .begun ∧ p.ty = 2 ∧
    msorted 0 s.launches = true ∧ 1 ≠ s.nextLaunch ∧ launchAt s 1 = some launchOne ∧ launchOver s 1 = false := by decide +kernel
/-- VNPU 0 has a resident team with a granule and an accumulator set, a saved one, and an owner's set; context 2 is another VNPU's. -/
theorem wit_DestroyAndGuestReset_teams :
    let sv : Saved := { ctx := { probeTeam with launch := 1 }, core := 0, bank := 0, bytes := [], stub := false, tiles := [], sets := [], cmds := [], epi := [],
                        charge := 0, placing := false }
    let b : Bucket := { rate := 5, depth := 1000, level := 128, mode := 1, exh := 0, trapped := false, held := [] }
    let x := setCtx (setCtx running 0 { probeTeam with launch := 1 }) 2 { probeTeam with v := 1, launch := 7 }
    let s := modSet { x with launches := [(1, launchOne)], saves := [(1, sv)], buckets := [(1, b)] } 0 0 fun a =>
      { a with owner := some { v := 0, launch := 1, team := 0, bank := 0, evicted := false } }
    msorted 0 s.ctxs = true ∧ msorted 0 s.saves = true ∧ msorted 0 s.buckets = true ∧ (ctxAt s 0).launch = 1 ∧ launchAt s 1 = some launchOne ∧ launchOne.v = 0 ∧
    mfind s.saves 1 = some sv ∧ sv.ctx.launch = 1 ∧ (ctxAt s 0).v = 0 ∧ (ctxAt s 0).phase ≠ .empty ∧ Memory.wf (coreAt s 0).scratch = true ∧ 1 ∈ (ctxAt s 0).gran ∧
    (∃ o, (setAt s 0 0).owner = some o ∧ o.v = 0) ∧ (vnpuAt s 0).eused ≤ cap48 ∧ mfind s.buckets 1 = some b ∧ s.run.ledger = [] ∧
    (∀ e ∈ s.ctxs, e.2.mem = []) ∧ launchAt s (ctxAt s 2).launch = none := by
  repeat' apply And.intro
  all_goals decide +kernel
theorem wit_WindowsAndDispatch_dead :
    let s := setCtx { running with fw := { running.fw with mode := .dead } } 0 { probeTeam with phase := .stopped }
    windowAt s 0 = some defaultWindow ∧ windowActive s defaultWindow = true ∧ s.fw.mode = .dead ∧ (ctxAt s 0).phase = .stopped := by decide +kernel
theorem wit_DroopSlopeAndGating_cycles :
    let at' := fun (n : Nat) (slow : Bool) (h : Nat) => clusterAt (withCluster { freshCluster with stretch := n, slow := slow, throttle := h }) 11
    ((at' 6 false 0).slow = false ∧ 0 < (at' 6 false 0).stretch) ∧ ((at' 6 true 64).slow = true ∧ 0 < (at' 6 true 64).stretch) ∧ (at' 0 false 64).stretch = 0 ∧
    (∀ g ∈ [0, 1, 2], (clusterAt (withCluster { freshCluster with gstate := g }) 11).gstate ≤ 2) ∧ clustersHeld (withCluster { freshCluster with gstate := 2 }) = false := by decide +kernel
/-- A port retrained to width 8, that comes up, or goes down beside a port that is up. -/
theorem wit_LinksAndMigration_training :
    let p := { freshPort with state := 3, lanes := 8, width := 8, queues := [(3, [farFlit])], replay := [farFlit] }
    let s := fun (m : Nat) => argued { ringOf2 p with ports := [(0, p), (1, { freshPort with state := 2, lanes := 16 })] } { noArg with m := m }
    (portAt (s 16) 0).state = 3 ∧ min (s 16).run.arg.m (portAt (s 16) 0).width ≠ 0 ∧ min (s 0).run.arg.m (portAt (s 0) 0).width = 0 ∧ (s 0).run.arg.n < 2 ∧
    portUp (s 0) 1 = true ∧ farFlit ∈ (portAt (s 0) 0).replay ∧ flitDest farFlit ≠ modId (s 0) := by decide +kernel
/-- The last core of cluster 11 is frozen and empty: its cluster's spare is free, or is used, when the cluster gives up that core, or core 94 for it, which holds a team or none. -/
theorem wit_ErrorsAndRetirements_end :
    let frozen := fun (c : Nat) (x : Ctx) (used : Nat) (l : List Nat) =>
      let s := setCtx (argued running { noArg with n := c, flag3 := true }) 190 x
      modCore (l.foldl (fun t j => modCore t j fun k => { k with absent := true }) { s with mgmt := { s.mgmt with spareUsed := [(11, used)], pending := [(95, true)] } }) c
        fun k => { k with frozen := true }
    let a := frozen 95 freshCtx 0 []
    let b := frozen 95 freshCtx 1 []
    let d := frozen 94 freshCtx 1 []
    let e := frozen 94 { probeTeam with v := 1 } 1 []
    let f := { e with frame := { e.frame with view := [owned1] }, contracts := { freshContracts with inForce := [(1, contractOf 1)] } }
    (∀ s ∈ [a, b, d, e, f], s.fw.mode ≠ .dead ∧ s.run.arg.flag3 = true) ∧ (coreAt a 95).frozen = true ∧ coreEmpty a 95 = true ∧ (coreAt a 95).absent = false ∧ spareUsed a 11 = 0 ∧
    inGuard a 95 = false ∧ spareUsed b 11 ≠ 0 ∧ givenUp b 95 = some 95 ∧ givenUp d 94 = some 95 ∧ coreEmpty d 94 = true ∧ coreEmpty d 95 = true ∧ holdsClassA d 95 = false ∧
    coreEmpty e 95 = false ∧ holdsClassA e 95 = false ∧ givenUp f 94 = some 95 ∧ holdsClassA f 95 = true ∧ (coreAt (frozen 95 freshCtx 0 [95]) 95).absent = true := by decide +kernel

end Sys2Proof.Tests
end

section
/-!
The course of an instruction that retires outside drain mode: which context it leaves, and what its charge of energy touches (R7, R159 to R161, R333, R373).
-/
namespace Sys2Proof.Machine

open Sys2Proof

/-! ### Energy charges -/

/-- From s to t nothing changes but what a charge to context c touches: its ECNT, its VNPU's energy, the device's overhead, and the events that an exhausted quota asks for. -/
structure OnlyCharged (s t : State) (c : Nat) : Prop where
  run : ∃ l, t.run = { s.run with inputs := s.run.inputs ++ l }
  rest : { t with run := s.run, ctxs := s.ctxs, vnpus := s.vnpus, overhead := s.overhead } = s
  own : { ctxAt t c with ecnt := (ctxAt s c).ecnt } = ctxAt s c
  others : ∀ j, j ≠ c → ctxAt t j = ctxAt s j
  vnpus : ∀ w, w ≠ (ctxAt s c).v → vnpuAt t w = vnpuAt s w
  energy : { vnpuAt t (ctxAt s c).v with eused := (vnpuAt s (ctxAt s c).v).eused, exhausted := (vnpuAt s (ctxAt s c).v).exhausted } = vnpuAt s (ctxAt s c).v

/-- A charge changes no more of its VNPU than the energy it has used, and whether that has exhausted its quota. -/
theorem chargeVnpu_own (s : State) (v n : Nat) :
    { vnpuAt (chargeVnpu s v n) v with eused := (vnpuAt s v).eused, exhausted := (vnpuAt s v).exhausted } = vnpuAt s v := by
  have used : ∃ s1 : State, s1 = (if v = 0 then s else modVnpu s v fun x => { x with eused := min (x.eused + n) cap48 }) ∧
      { vnpuAt s1 v with eused := (vnpuAt s v).eused, exhausted := (vnpuAt s v).exhausted } = vnpuAt s v := by
    refine ⟨_, rfl, ?_⟩
    split
    · rfl
    · simp
  obtain ⟨s1, e, h⟩ := used
  unfold chargeVnpu
  simp only [← e]
  split
  · split
    · simpa using h
    · exact h
  · exact h

theorem chargeVnpu_onlyCharged (s : State) (c n : Nat) : OnlyCharged s (chargeVnpu s (ctxAt s c).v n) c := by
  obtain ⟨l, hrun, hrest, hother⟩ := chargeVnpu_frame s (ctxAt s c).v n
  have hctx : ∀ j, ctxAt (chargeVnpu s (ctxAt s c).v n) j = ctxAt s j := fun j => (congrArg (ctxAt · j) hrest :)
  exact ⟨⟨l, hrun⟩, congrArg (fun t => { t with ctxs := s.ctxs, overhead := s.overhead }) hrest, by rw [hctx], fun j _ => hctx j, hother, chargeVnpu_own _ _ _⟩

theorem setCtx_ecnt_onlyCharged (s : State) (c : Nat) (e : Word) : OnlyCharged s (setCtx s c { ctxAt s c with ecnt := e }) c :=
  ⟨⟨[], by simp⟩, rfl, by simp, fun _ hj => ctxAt_setCtx_other _ _ _ _ hj, fun _ _ => rfl, rfl⟩

theorem OnlyCharged.trans {s t u : State} {c : Nat} (h : OnlyCharged s t c) (g : OnlyCharged t u c) : OnlyCharged s u c := by
  have hv : (ctxAt t c).v = (ctxAt s c).v := (congrArg Ctx.v h.own :)
  obtain ⟨⟨l, hl⟩, hrest, hown, hothers, hvnpus, henergy⟩ := h
  obtain ⟨⟨m, hm⟩, grest, gown, gothers, gvnpus, genergy⟩ := g
  rw [hv] at gvnpus genergy
  refine ⟨⟨l ++ m, by rw [hm, hl]; simp⟩, ?_, ?_, fun j hj => (gothers j hj).trans (hothers j hj), fun w hw => (gvnpus w hw).trans (hvnpus w hw), ?_⟩
  · exact (congrArg (fun q : State => { q with run := s.run, ctxs := s.ctxs, vnpus := s.vnpus, overhead := s.overhead }) grest).trans hrest
  · exact (congrArg (fun q : Ctx => { q with ecnt := (ctxAt s c).ecnt }) gown).trans hown
  · exact (congrArg (fun q : Vnpu => { q with eused := (vnpuAt s (ctxAt s c).v).eused, exhausted := (vnpuAt s (ctxAt s c).v).exhausted }) genergy).trans henergy

/-- R161: wherever the charge goes, to overhead, to the VNPU of a prologue, or to a team and its VNPU, nothing else changes. -/
theorem chargeCtx_onlyCharged (s : State) (c i n : Nat) : OnlyCharged s (chargeCtx s c i n) c := by
  unfold chargeCtx
  dsimp only
  split
  · exact ⟨⟨[], by simp⟩, rfl, rfl, fun _ _ => rfl, fun _ _ => rfl, rfl⟩
  · split
    · exact chargeVnpu_onlyCharged s c _
    · have h := setCtx_ecnt_onlyCharged s c (ecntAdd (ctxAt s c).ecnt (weight s i * n))
      exact h.trans (by simpa using chargeVnpu_onlyCharged (setCtx s c { ctxAt s c with ecnt := ecntAdd (ctxAt s c).ecnt (weight s i * n) }) c (weight s i * n))

/-! ### The written register and the retirement -/

/-- What the write of v to register d makes of a context: s0 discards, a send port sends (R333). -/
def writtenCtx (x : Ctx) (d : Nat) (v : Word) : Ctx :=
  if d = 0 then x
  else if 60 ≤ d then
    { x with tx := mput x.tx (d - 60) (mget x.tx (d - 60) [] ++ [{ team := wbits (mget x.mdst (d - 60) 0) 23 0, port := wbits (mget x.mdst (d - 60) 0) 25 24, value := v }]) }
  else { x with regs := mput x.regs d v }

/-- What retiring to `next` makes of a context outside drain mode (R373), its charge aside. -/
def retiredCtx (x : Ctx) (next : Word) : Ctx :=
  { x with pc := (endCheck x.loops next).2, loops := (endCheck x.loops next).1, wait := .none, leftWait := .none, count := x.count + 1 }

@[simp] theorem setCtx_setCtx (s : State) (c : Nat) (x y : Ctx) : setCtx (setCtx s c x) c y = setCtx s c y := by simp [setCtx]

theorem writeReg_setCtx (s : State) (c d : Nat) (x : Ctx) (v : Word) : writeReg (setCtx s c x) c d v = setCtx s c (writtenCtx x d v) := by
  unfold writeReg writtenCtx
  split
  · rfl
  · split <;> simp [sendFlit, modCtx]

theorem retire_setCtx (s0 s : State) (c : Nat) (x : Ctx) (next : Word) (h : x.drain = .off) :
    retire s0 (setCtx s c x) c next = chargeCtx (setCtx s c (retiredCtx x next)) c 0 1 := by
  rw [retire_off _ _ _ _ (by simpa using h)]
  simp [retiredCtx, drainTick, h]

@[simp] theorem writtenCtx_drain (x : Ctx) (d : Nat) (v : Word) : (writtenCtx x d v).drain = x.drain := by
  unfold writtenCtx
  split
  · rfl
  · split <;> rfl

/-- Outside drain mode an instruction that writes d stores its context once, and charges it. -/
theorem wrote_eq (s : State) (tk : SMap Nat) (d : Reg) (v next : Word) (h : (curCtx s).drain = .off) :
    wrote s tk d v next = chargeCtx (setCtx s s.run.cur (retiredCtx (writtenCtx (takeFlits (curCtx s) tk) d.toNat v) next)) s.run.cur 0 1 := by
  unfold wrote modCtx
  rw [writeReg_setCtx, retire_setCtx]
  · rfl
  · rw [writtenCtx_drain]; exact h

/-- Up to the register, the flits and the PC with the loop stack, the context is as it was. -/
theorem retired_written_frame (x : Ctx) (tk : SMap Nat) (d : Nat) (v next : Word) :
    let y := retiredCtx (writtenCtx (takeFlits x tk) d v) next
    { y with regs := x.regs, rx := x.rx, tx := x.tx, pc := x.pc, loops := x.loops, wait := x.wait, leftWait := x.leftWait, count := x.count } = x := by
  unfold writtenCtx
  dsimp only
  split
  · rfl
  · split <;> rfl


/-- What the write leaves of the registers and the send ports (R333). -/
theorem writtenCtx_reg_other (x : Ctx) (d r : Nat) (v : Word) (h : r ≠ d) : mget (writtenCtx x d v).regs r 0 = mget x.regs r 0 := by
  unfold writtenCtx
  split
  · rfl
  · split
    · rfl
    · exact mget_mput_other _ _ _ _ _ h

theorem writtenCtx_regs_of_no_register (x : Ctx) (d : Nat) (v : Word) (h : d = 0 ∨ 60 ≤ d) : (writtenCtx x d v).regs = x.regs := by
  unfold writtenCtx
  split
  · rfl
  · rw [if_pos (by omega)]

theorem writtenCtx_reg_same (x : Ctx) (d : Nat) (v : Word) (h0 : d ≠ 0) (h : d < 60) : mget (writtenCtx x d v).regs d 0 = v := by
  simp [writtenCtx, h0, Nat.not_le.mpr h]

theorem writtenCtx_tx_of_no_port (x : Ctx) (d : Nat) (v : Word) (h : d < 60) : (writtenCtx x d v).tx = x.tx := by
  unfold writtenCtx
  split
  · rfl
  · rw [if_neg (by omega)]

theorem writtenCtx_tx_other (x : Ctx) (d n : Nat) (v : Word) (h : d ≠ 60 + n) : mget (writtenCtx x d v).tx n [] = mget x.tx n [] := by
  unfold writtenCtx
  split
  · rfl
  · split
    · exact mget_mput_other _ _ _ _ _ (by omega)
    · rfl

theorem writtenCtx_tx_same (x : Ctx) (n : Nat) (v : Word) :
    (mget (writtenCtx x (60 + n) v).tx n []).map (·.value) = (mget x.tx n []).map (·.value) ++ [v] := by
  simp [writtenCtx]

/-- Settles O2: outside drain mode the instruction stores its context once (`wrote_eq`), and is charged (`chargeCtx_onlyCharged`). -/
theorem registerInstructionFrame : Obligations.RegisterInstructionFrame := by
  unfold Obligations.RegisterInstructionFrame
  intro s tk d v next hdrain _
  rw [wrote_eq s tk d v next hdrain]
  obtain ⟨⟨l, hrun⟩, hrest, hown, hothers, hvnpus, henergy⟩ :=
    chargeCtx_onlyCharged (setCtx s s.run.cur (retiredCtx (writtenCtx (takeFlits (curCtx s) tk) d.toNat v) next)) s.run.cur 0 1
  generalize chargeCtx _ s.run.cur 0 1 = t at *
  have hctx := retired_written_frame (curCtx s) tk d.toNat v next
  have hv : (retiredCtx (writtenCtx (takeFlits (curCtx s) tk) d.toNat v) next).v = (curCtx s).v := (congrArg Ctx.v hctx :)
  rw [ctxAt_setCtx] at hown hvnpus henergy
  rw [hv] at hvnpus henergy
  have hregs : (ctxAt t s.run.cur).regs = (writtenCtx (takeFlits (curCtx s) tk) d.toNat v).regs := (congrArg Ctx.regs hown :)
  have htx : (ctxAt t s.run.cur).tx = (writtenCtx (takeFlits (curCtx s) tk) d.toNat v).tx := (congrArg Ctx.tx hown :)
  have hdev : t.dev = s.dev := (congrArg State.dev hrest :)
  have hhost : t.host = s.host := (congrArg State.host hrest :)
  dsimp only
  rw [hregs, htx]
  refine ⟨fun r hr => writtenCtx_reg_other _ _ _ _ hr, fun h => writtenCtx_regs_of_no_register _ _ _ h,
    fun h => writtenCtx_reg_same _ _ _ (by omega) (by omega), fun h => writtenCtx_tx_of_no_port _ _ _ h, fun n h => writtenCtx_tx_other _ _ _ _ h, ?_, ?_,
    fun j hj => (hothers j hj).trans (ctxAt_setCtx_other _ _ _ _ hj), hvnpus, henergy, ⟨l, hrun⟩, fun _ => by rw [hdev], fun _ => by rw [hhost], ?_⟩
  · intro n hn
    rw [hn]
    exact writtenCtx_tx_same _ _ _
  · exact (congrArg (fun q : Ctx => { q with
      regs := (curCtx s).regs, rx := (curCtx s).rx, tx := (curCtx s).tx, pc := (curCtx s).pc, loops := (curCtx s).loops, wait := (curCtx s).wait,
      leftWait := (curCtx s).leftWait, count := (curCtx s).count, ecnt := (curCtx s).ecnt }) hown).trans
      (congrArg (fun q : Ctx => { q with ecnt := (curCtx s).ecnt }) hctx)
  · exact congrArg (fun q : State => { q with ctxs := s.ctxs }) hrest

end Sys2Proof.Machine
end

section
/-!
GETS and SETS: what they answer once their operands are at hand, and what each system register reads and takes (R379, R400).
-/
namespace Sys2Proof.Machine

open Sys2Proof

/-! ### The instructions -/

/-- An instruction with its operands at hand that reads none of them has what it needs. -/
theorem reads_without_sources {i : Instr} {s : State} {srcs : List Reg} {d : Option Reg} {vs : List Word} {tk : SMap Nat} (h : Reads i s srcs d vs tk) :
    Reads i s [] d [] [] where
  drain := h.drain
  prologue := h.prologue
  noSend := by simp
  dest := h.dest
  landed r hr := h.landed r (List.mem_append_right _ (by simpa using hr))
  values := by unfold sources; split <;> rfl

/-- GETS of a register that software may read, but for a firmware core's CYCLE, which draws a free value. -/
theorem execGets_of_read {d : Reg} {imm : BitVec 14} {s : State} {tk : SMap Nat} {v : Word} (h : Reads (.gets d imm) s [] (some d) [] tk)
    (hv : sysRead s s.run.cur imm.toNat = some v) (hfree : imm.toNat = 1 → isTeam s.run.cur = true) :
    exec (.gets d imm) s = .next (wrote s tk d v (nextPc s)) := by
  have hkeep : (decide (imm.toNat = 1) && !isTeam s.run.cur) = false := by
    by_cases h1 : imm.toNat = 1
    · simp [hfree h1]
    · simp [h1]
  exact congrArg Host.Outcome.next (ctl_res h (by simp [hv, hkeep]))

theorem execGets_of_unreadable {d : Reg} {imm : BitVec 14} {s : State} {tk : SMap Nat} (h : Reads (.gets d imm) s [] (some d) [] tk)
    (hv : sysRead s s.run.cur imm.toNat = none) : exec (.gets d imm) s = .next (takeTrap s s.run.cur 0x01 0) :=
  congrArg Host.Outcome.next (ctl_trap h (by simp [hv]))

/-- R378, R400: the cause with which SETS of register r traps, if it does; the value it was given plays no part. -/
def setsCause (s : State) (c r : Nat) : Option Nat :=
  if r = 2 ∨ (0x20 ≤ r ∧ r ≤ 0x27) then (if privileged s c then none else some 0x02)
  else if r = 9 ∨ (0x18 ≤ r ∧ r ≤ 0x1B) ∨ (isFw c = true ∧ 0x100 ≤ r ∧ r ≤ 0x104) then none
  else some 0x01

theorem sysWrite_error_iff (s : State) (c r : Nat) (v : Word) (cause : Nat) : sysWrite s c r v = .error cause ↔ setsCause s c r = some cause := by
  unfold sysWrite setsCause
  dsimp only
  split
  next h => split <;> simp [*]
  next hecnt =>
    split
    next h => simp [h]
    next h9 =>
      split
      next h => simp [h]; omega
      next hmdst =>
        split
        next h =>
          cases hp : privileged s c
          · simp [h]
          · simp only [Bool.not_true, Bool.false_eq_true, if_false, if_true, h, or_true, and_self]
            split <;> simp
        next hq =>
          split
          next hfw =>
            split
            case h_6 _ h0 h1 h2 h3 h4 =>
              have hr : r ≠ 0x100 ∧ r ≠ 0x101 ∧ r ≠ 0x102 ∧ r ≠ 0x103 ∧ r ≠ 0x104 := ⟨h0, h1, h2, h3, h4⟩
              have : ¬ (0x100 ≤ r ∧ r ≤ 0x104) := by omega
              simp [hecnt, h9, hmdst, hq, this]
            all_goals simp [hfw]
          next hfw => simp [hecnt, h9, hmdst, hq, hfw]

theorem execSets_of_write {a : Reg} {imm : BitVec 14} {s t : State} {v : Word} {tk : SMap Nat} (h : Reads (.sets a imm) s [a] none [v] tk)
    (hw : sysWrite s s.run.cur imm.toNat v = .ok t) : exec (.sets a imm) s = .next (went s t tk (nextPc s)) := by
  show execSets a imm s = _
  unfold execSets
  cases h0 : sysWrite s s.run.cur imm.toNat 0 with
  | error cause =>
    have : sysWrite s s.run.cur imm.toNat v = .error cause := by rw [sysWrite_error_iff] at h0 ⊢; exact h0
    rw [this] at hw
    cases hw
  | ok t0 => exact congrArg Host.Outcome.next (ctl_done (n := none) h (by simp [val0, hw]))

theorem execSets_of_trap {a : Reg} {imm : BitVec 14} {s : State} {v : Word} {tk : SMap Nat} {cause : Nat} (h : Reads (.sets a imm) s [a] none [v] tk)
    (hc : setsCause s s.run.cur imm.toNat = some cause) : exec (.sets a imm) s = .next (takeTrap s s.run.cur cause 0) := by
  have hport : ¬ 60 ≤ a.toNat := Nat.not_le.mpr (h.noSend a (by simp))
  show execSets a imm s = _
  unfold execSets
  rw [(sysWrite_error_iff _ _ _ 0 _).mpr hc]
  exact congrArg Host.Outcome.next (ctl_trap (reads_without_sources h) (by simp [hport]))

/-! ### The registers -/

theorem isFw_of_isTeam {c : Nat} (h : isTeam c = true) : isFw c = false := by
  simp only [isTeam, isFw, decide_eq_true_eq, decide_eq_false_iff_not] at h ⊢
  omega

/-- R378: of the teams those of VNPU 0 are privileged. -/
theorem privileged_of_team {s : State} {c : Nat} (h : isTeam c = true) : privileged s c = decide ((ctxAt s c).v = 0) := by
  simp [privileged, h, isFw_of_isTeam h, Bool.beq_eq_decide_eq]

/-- Above 9 the registers stand in ranges. -/
theorem sysRead_of_nine_lt (s : State) (c r : Nat) (h : 9 < r) : sysRead s c r =
    if 0x10 ≤ r ∧ r ≤ 0x13 then some (acstOf s c (r - 0x10))
    else if 0x18 ≤ r ∧ r ≤ 0x1B then some (mget (ctxAt s c).mdst (r - 0x18) 0)
    else if 0x20 ≤ r ∧ r ≤ 0x27 then some (qcfgWord (ctxAt s c) (r - 0x20))
    else if isFw c then fwReg (ctxAt s c) r
    else none := by
  unfold sysRead
  dsimp only
  iterate 10 rw [if_neg (by omega)]

theorem sysRead_acst {s : State} {c r : Nat} (h : 0x10 ≤ r ∧ r ≤ 0x13) : sysRead s c r = some (acstOf s c (r - 0x10)) := by
  rw [sysRead_of_nine_lt s c r (by omega), if_pos h]

theorem sysRead_mdst {s : State} {c r : Nat} (h : 0x18 ≤ r ∧ r ≤ 0x1B) : sysRead s c r = some (mget (ctxAt s c).mdst (r - 0x18) 0) := by
  rw [sysRead_of_nine_lt s c r (by omega), if_neg (by omega), if_pos h]

theorem sysRead_qcfg {s : State} {c r : Nat} (h : 0x20 ≤ r ∧ r ≤ 0x27) : sysRead s c r = some (qcfgWord (ctxAt s c) (r - 0x20)) := by
  rw [sysRead_of_nine_lt s c r (by omega), if_neg (by omega), if_neg (by omega), if_pos h]

/-- Every other number is a firmware core's register, or none. -/
theorem sysRead_elsewhere {s : State} {c r : Nat} (h : (9 < r ∧ r < 0x10) ∨ (0x13 < r ∧ r < 0x18) ∨ (0x1B < r ∧ r < 0x20) ∨ 0x27 < r) :
    sysRead s c r = if isFw c then fwReg (ctxAt s c) r else none := by
  rw [sysRead_of_nine_lt s c r (by omega), if_neg (by omega), if_neg (by omega), if_neg (by omega)]

theorem fwReg_above (x : Ctx) (r : Nat) (h : 0x104 < r) : fwReg x r = none := by
  unfold fwReg
  split
  case h_6 => rfl
  all_goals omega

/-- ESTAT: HC in bit 1, INH in bit 0. -/
theorem fwReg_estat (x : Ctx) : fwReg x 0x104 = some ((if x.hc then 2 else 0) + (if x.inh then 1 else 0)) := by
  unfold fwReg
  cases x.hc <;> cases x.inh <;> rfl

theorem sysWrite_ecnt {s : State} {c : Nat} (v : Word) (hp : privileged s c = true) :
    sysWrite s c 2 v = .ok (setCtx s c { ctxAt s c with ecnt := v &&& 0x8000FFFFFFFFFFFF#64 }) := by
  unfold sysWrite
  dsimp only
  rw [if_pos rfl, if_pos hp]

theorem sysWrite_mdst {s : State} {c r : Nat} (v : Word) (h : 0x18 ≤ r ∧ r ≤ 0x1B) :
    sysWrite s c r v = .ok (setCtx s c { ctxAt s c with mdst := mput (ctxAt s c).mdst (r - 0x18) (v &&& 0x83FFFFFF#64) }) := by
  unfold sysWrite
  dsimp only
  rw [if_neg (by omega), if_neg (by omega), if_pos h]

/-- R400: a queue's minimum and capacity are written together, or neither. -/
theorem sysWrite_queue {s : State} {c r : Nat} (v : Word) (h : 0x20 ≤ r ∧ r ≤ 0x27) (hp : privileged s c = true) :
    sysWrite s c r v =
      if wbits v 25 16 = 0 ∨ wbits v 25 16 < wbits v 9 0 ∨ 1024 < minSum s c (r - 0x20) (wbits v 9 0) then .ok s
      else .ok (setCtx s c { ctxAt s c with qmin := mput (ctxAt s c).qmin (r - 0x20) (wbits v 9 0), qcap := mput (ctxAt s c).qcap (r - 0x20) (wbits v 25 16) }) := by
  unfold sysWrite
  dsimp only
  rw [if_neg (by omega), if_neg (by omega), if_neg (by omega), if_pos h, if_neg (by simp [hp])]

/-! ### The obligation -/

theorem getsReadsSystemRegisters : Claims.GetsReadsSystemRegisters := by
  intro d imm s tk
  dsimp only
  intro h hteam
  have reads : ∀ r v, sysRead s s.run.cur r = some v → imm.toNat = r → exec (.gets d imm) s = .next (wrote s tk d v (nextPc s)) := by
    rintro r v hv rfl
    exact execGets_of_read h hv fun _ => hteam
  refine ⟨reads 0 _ rfl, reads 1 _ (by simp [sysRead, hteam]), reads 2 _ rfl, reads 3 _ rfl, reads 4 _ rfl, reads 9 _ rfl, fun hr => reads _ _ (sysRead_acst hr) rfl,
    reads 5 _ rfl, reads 6 _ rfl, reads 7 _ rfl, reads 8 _ rfl, fun hr => reads _ _ (sysRead_mdst hr) rfl, fun hr => reads _ _ (sysRead_qcfg hr) rfl, fun hr => ?_⟩
  exact execGets_of_unreadable h (by rw [sysRead_elsewhere hr, isFw_of_isTeam hteam]; rfl)

theorem setsWritesSystemRegisters : Claims.SetsWritesSystemRegisters := by
  intro a imm s v tk
  dsimp only
  intro h hteam
  have hpriv : privileged s s.run.cur = decide ((curCtx s).v = 0) := privileged_of_team hteam
  refine ⟨fun hr hv => ?_, fun hr => ?_, fun hr => ?_, fun hr hv => ?_, fun hr hv => ?_, fun hr => ?_⟩
  · exact execSets_of_write h (by rw [hr, sysWrite_ecnt v (by rw [hpriv]; simpa using hv)]; rfl)
  · exact execSets_of_write h (by rw [hr]; rfl)
  · exact execSets_of_write h (sysWrite_mdst v hr)
  · have hw := sysWrite_queue v hr (s := s) (c := s.run.cur) (by rw [hpriv]; simpa using hv)
    split
    next hbad => exact execSets_of_write h (by rw [hw, if_pos hbad])
    next hgood => exact execSets_of_write h (by rw [hw, if_neg hgood]; rfl)
  · exact execSets_of_trap h (by rw [setsCause, if_pos hr, hpriv]; simp [hv])
  · exact execSets_of_trap h (by rw [setsCause, if_neg (by omega), if_neg (by simp [isFw_of_isTeam hteam]; omega)])

theorem firmwareCoreRegisters : Claims.FirmwareCoreRegisters := by
  intro d a imm s v tk
  dsimp only
  intro hfw
  constructor
  · intro h
    have reads : ∀ r v, r ≠ 1 → sysRead s s.run.cur r = some v → imm.toNat = r → exec (.gets d imm) s = .next (wrote s tk d v (nextPc s)) := by
      rintro r v hr hv rfl
      exact execGets_of_read h hv fun h1 => absurd h1 hr
    have fw : ∀ r, 0x27 < r → sysRead s s.run.cur r = fwReg (curCtx s) r := fun r hr => by
      rw [sysRead_elsewhere (by omega), if_pos hfw]; rfl
    refine ⟨reads 0 _ (by decide) rfl, reads 0x100 _ (by decide) (fw _ (by decide)), reads 0x101 _ (by decide) (fw _ (by decide)), reads 0x102 _ (by decide) (fw _ (by decide)),
      reads 0x103 _ (by decide) (fw _ (by decide)), reads 0x104 _ (by decide) ((fw _ (by decide)).trans (fwReg_estat _)), fun hr => ?_⟩
    exact execGets_of_unreadable h ((fw _ (by omega)).trans (fwReg_above _ _ hr))
  · intro h
    have writes : ∀ r t, sysWrite s s.run.cur r v = .ok t → imm.toNat = r → exec (.sets a imm) s = .next (went s t tk (nextPc s)) := by
      rintro r t hw rfl
      exact execSets_of_write h hw
    refine ⟨writes 0x100 _ ?_, writes 0x101 _ ?_, writes 0x102 _ ?_, writes 0x103 _ ?_, writes 0x104 _ ?_, fun hr => ?_⟩
    case refine_6 => exact execSets_of_trap h (by rw [setsCause, if_neg (by omega), if_neg (by omega)])
    all_goals simp [sysWrite, hfw]; rfl

/-- Settles O43: the answer of GETS is `sysRead`, that of SETS `sysWrite` or the trap of `setsCause`. -/
theorem systemRegisters : Obligations.SystemRegisters := by
  unfold Obligations.SystemRegisters
  exact ⟨getsReadsSystemRegisters, setsWritesSystemRegisters, firmwareCoreRegisters⟩

end Sys2Proof.Machine
end

section
/-!
The host's register accesses: where each write the statement names is sent (R3, R31, R32, R63, R87, R98, R166).
-/
namespace Sys2Proof.Machine

open Sys2Proof

theorem coresStay_of_cores {s t : State} (h : t.cores = s.cores) : coresStay s t := fun k => by simp [coreAt, h]

theorem teamsStay_refl (s : State) : teamsStay s s := ⟨rfl, fun _ => rfl, rfl, rfl⟩

theorem fnExists_zero (s : State) : fnExists s 0 = true := rfl

/-- R31: a function above NumVFs does not exist. -/
theorem fnExists_of_numVFs_lt {s : State} {fn : Nat} (h0 : fn ≠ 0) (h : s.numVFs < fn) : fnExists s fn = false := by
  simp [fnExists, h0, Nat.not_le.mpr h]

theorem fnExists_of_le_numVFs {s : State} {fn : Nat} (h : fn ≤ s.numVFs) (hr : s.fw.mode = .running) : fnExists s fn = true := by
  simp [fnExists, h, hr]

/-! ### The accesses -/

theorem registerRead_gives {s : State} {fn bar off : Nat} {w : Word} {P : State → Prop} (h : s.run.arg.flag3 = true)
    (hP : P { s with out := { s.out with read := BitVec.ofNat 64 (hostRead s fn bar off) } }) : gives (.registerWrite fn bar off w) s P :=
  ⟨_, by show execRegisterWrite fn bar off w s = _; simp [execRegisterWrite, h], hP⟩

section writes
variable {s : State} {w : Word} {off : Nat} {P : State → Prop} (h : s.run.arg.flag3 = false) (hlen : s.run.arg.len = 8)
include h

theorem absentWrite_gives {fn bar : Nat} (hfn : fnExists s fn = false) (hP : P s) : gives (.registerWrite fn bar off w) s P :=
  ⟨s, by show execRegisterWrite fn bar off w s = _; simp [execRegisterWrite, h, hfn], hP⟩

theorem configWrite_gives (hP : P (configWrite s off w)) : gives (.registerWrite 0 7 off w) s P :=
  ⟨_, by show execRegisterWrite 0 7 off w s = _; simp [execRegisterWrite, h, fnExists_zero], hP⟩

include hlen

theorem bar0Write_gives (hP : P (bar0Write s off 8 w)) : gives (.registerWrite 0 0 off w) s P :=
  ⟨_, by show execRegisterWrite 0 0 off w s = _; simp [execRegisterWrite, h, hlen, fnExists_zero], hP⟩

theorem guestWrite_gives {fn : Nat} (h0 : fn ≠ 0) (hfn : fnExists s fn = true) (hP : P (guestWrite s fn off 8 w)) : gives (.registerWrite fn 0 off w) s P :=
  ⟨_, by show execRegisterWrite fn 0 off w s = _; simp [execRegisterWrite, h, hlen, hfn, h0], hP⟩

end writes

/-! ### The registers -/

/-- R31: NumVFs keeps its value at one above TotalVFs. -/
theorem configWrite_numVFs (s : State) (w : Word) : configWrite s 0x10 w = if w.toNat ≤ 16 then { s with numVFs := w.toNat } else s := rfl

/-- R63: outside recovery and the boot ROM a write of function 0's BAR0 goes by its offset. -/
theorem bar0Write_running {s : State} {off n : Nat} {w : Word} (hr : s.fw.mode = .running) (h8 : off ≠ 0x08) : bar0Write s off n w =
    if 0x100000 ≤ off ∧ off < 0x200000 then stageWrite s off n w
    else if off % 8 ≠ 0 then s
    else if off < 0x100000 then mgmtWrite s off w
    else if off < 0x300000 then
      (if off < 0x201100 ∧ off % 0x100 < 0x60 then tdWrite s ((off - 0x200000) / 0x100) (off % 0x100 / 0x20) (off % 0x20 / 8) w else s)
    else if off < 0x310000 then powerWrite s off w
    else s := by
  unfold bar0Write
  rw [if_neg h8, if_neg (by simp [hr])]

theorem bar0Write_recovery {s : State} {off n : Nat} {w : Word} (hr : s.fw.mode = .recovery) (h8 : off ≠ 0x08) : bar0Write s off n w = s := by
  unfold bar0Write
  rw [if_neg h8, if_pos (.inl hr)]

theorem bar0Write_svcreq {s : State} {n : Nat} {w : Word} (hr : s.fw.mode = .running) :
    bar0Write s 0 n w = modMgmt s fun m => { m with pend := keepBit m.pend w 0 } := bar0Write_running hr (by decide)

theorem bar0Write_ctCtl {s : State} {n : Nat} {w : Word} (hr : s.fw.mode = .running) :
    bar0Write s 0x100040 n w = if w.getLsbD 0 then after s (execCtCtlGo s) else s := bar0Write_running hr (by decide)

/-- R166: PWR_CAP keeps its value at one outside 150 to 420. -/
theorem bar0Write_pwrCap {s : State} {n : Nat} {w : Word} (hr : s.fw.mode = .running) :
    bar0Write s 0x30F000 n w = if 150 ≤ wbits w 8 0 ∧ wbits w 8 0 ≤ 420 then { s with pwrCap := wbits w 8 0 } else s := bar0Write_running hr (by decide)

/-- R98: the base register of ring r. -/
theorem guestWrite_ringBase {s : State} {v r n : Nat} {w : Word} (hr : r < 64) : guestWrite s v (0x1000 * r) n w =
    modRing s v r fun x => if x.en then x else { x with base := w &&& 0xFFFFFFFFF000#64 } := by
  have hring : 0x1000 * r / 0x1000 = r := by omega
  have hreg : 0x1000 * r % 0x1000 = 0 := by omega
  unfold guestWrite
  rw [if_neg (by omega), if_neg (by omega), if_pos (by omega), hring, hreg]
  rfl

@[simp] theorem ringAt_modRing (s : State) (v r : Nat) (f : Ring → Ring) : ringAt (modRing s v r f) v r = f (ringAt s v r) := by
  simp [ringAt, modRing]

/-- R88: what CT_CTL submits, outside recovery. -/
theorem ctCtlGo_busy {s : State} (hr : s.fw.mode = .running) (hb : s.contracts.busy = false) :
    (after s (execCtCtlGo s)).contracts.busy = true ∧ teamsStay s (after s (execCtCtlGo s)) := by
  have hi : inert s = false := by simp [inert, hr]
  simp only [execCtCtlGo, hb, hi, Bool.or_self, Bool.false_eq_true, if_false, after]
  exact ⟨rfl, rfl, fun _ => rfl, rfl, rfl⟩

/-- Settles O22: each write is sent to its register, and what that register takes is read off. -/
theorem hostRegisterAccesses : Obligations.HostRegisterAccesses := by
  unfold Obligations.HostRegisterAccesses
  intro s fn bar off v r w
  dsimp only
  constructor
  · intro h
    refine registerRead_gives h ⟨rfl, fun h0 hfn => ?_⟩
    simp [hostRead, fnExists_of_numVFs_lt h0 hfn]
  · intro h hlen
    refine ⟨fun h0 hfn => absentWrite_gives h (fnExists_of_numVFs_lt h0 hfn) rfl, configWrite_gives h ?_, fun hr => bar0Write_gives h hlen ?_,
      fun hr hgo hb => bar0Write_gives h hlen ?_, fun hr hw => bar0Write_gives h hlen ?_, fun hr _ h8 => bar0Write_gives h hlen (bar0Write_recovery hr h8),
      fun hr h1 hv hring hen => guestWrite_gives h hlen (by omega) (fnExists_of_le_numVFs hv hr) ?_⟩
    · rw [configWrite_numVFs]
      split
      · exact ⟨rfl, teamsStay_refl s⟩
      · exact ⟨rfl, teamsStay_refl s⟩
    · rw [bar0Write_pwrCap hr]
      split
      · exact ⟨rfl, teamsStay_refl s⟩
      · exact ⟨rfl, teamsStay_refl s⟩
    · rw [bar0Write_ctCtl hr, if_pos hgo]
      exact ctCtlGo_busy hr hb
    · rw [bar0Write_svcreq hr]
      exact ⟨by simp [modMgmt, keepBit, hw], teamsStay_refl s⟩
    · rw [guestWrite_ringBase hring]
      exact ⟨by simp [hen], teamsStay_refl s⟩

end Sys2Proof.Machine
end

section
/-!
What the service of a pending access leaves alone: the charges, the regulation points and the slice's own lines (R152 to R155, R161, R228).
-/
namespace Sys2Proof.Machine

open Sys2Proof

/-- From s to t the memories, the management function's state (with the map of remapped frames), and every context's pending accesses and registers stay. -/
structure AccessesStay (s t : State) : Prop where
  dev : t.dev = s.dev
  host : t.host = s.host
  mgmt : t.mgmt = s.mgmt
  mem : ∀ j, (ctxAt t j).mem = (ctxAt s j).mem
  regs : ∀ j, (ctxAt t j).regs = (ctxAt s j).regs

theorem AccessesStay.refl (s : State) : AccessesStay s s := ⟨rfl, rfl, rfl, fun _ => rfl, fun _ => rfl⟩

theorem AccessesStay.trans {s t u : State} (h : AccessesStay s t) (g : AccessesStay t u) : AccessesStay s u :=
  ⟨g.dev.trans h.dev, g.host.trans h.host, g.mgmt.trans h.mgmt, fun j => (g.mem j).trans (h.mem j), fun j => (g.regs j).trans (h.regs j)⟩

/-- A state that differs in none of the tables concerned. -/
theorem accessesStay_of_fields {s t : State} (hdev : t.dev = s.dev) (hhost : t.host = s.host) (hmgmt : t.mgmt = s.mgmt) (hctxs : t.ctxs = s.ctxs) :
    AccessesStay s t :=
  ⟨hdev, hhost, hmgmt, fun _ => by simp only [ctxAt, hctxs], fun _ => by simp only [ctxAt, hctxs]⟩

theorem modCtx_accessesStay {s : State} {c : Nat} {f : Ctx → Ctx} (hmem : (f (ctxAt s c)).mem = (ctxAt s c).mem)
    (hregs : (f (ctxAt s c)).regs = (ctxAt s c).regs) : AccessesStay s (modCtx s c f) where
  dev := rfl
  host := rfl
  mgmt := rfl
  mem j := by
    by_cases h : j = c
    · subst h; simpa using hmem
    · rw [ctxAt_modCtx_other _ _ _ _ h]
  regs j := by
    by_cases h : j = c
    · subst h; simpa using hregs
    · rw [ctxAt_modCtx_other _ _ _ _ h]

/-! ### Charges -/

theorem chargeVnpu_accessesStay (s : State) (v n : Nat) : AccessesStay s (chargeVnpu s v n) := by
  obtain ⟨_, _, hrest, _⟩ := chargeVnpu_frame s v n
  exact accessesStay_of_fields (congrArg State.dev hrest :) (congrArg State.host hrest :) (congrArg State.mgmt hrest :) (congrArg State.ctxs hrest :)

theorem OnlyCharged.accessesStay {s t : State} {c : Nat} (h : OnlyCharged s t c) : AccessesStay s t where
  dev := (congrArg State.dev h.rest :)
  host := (congrArg State.host h.rest :)
  mgmt := (congrArg State.mgmt h.rest :)
  mem j := by
    by_cases hj : j = c
    · subst hj; exact (congrArg Ctx.mem h.own :)
    · rw [h.others j hj]
  regs j := by
    by_cases hj : j = c
    · subst hj; exact (congrArg Ctx.regs h.own :)
    · rw [h.others j hj]

/-! ### Regulation points -/

/-- R155: a trap marks its team, and counts and signals at its VNPU. -/
theorem budgetTrap_accessesStay (s : State) (v c : Nat) (engine : Bool) : AccessesStay s (budgetTrap s v c engine) := by
  have count : AccessesStay s (trapCount s v) := accessesStay_of_fields (by simp [trapCount]) (by simp [trapCount]) (by simp [trapCount]) (by simp [trapCount])
  have notice : AccessesStay (trapCount s v) (trapNotice (trapCount s v) v c engine) := by
    unfold trapNotice
    split
    · split
      · exact accessesStay_of_fields rfl rfl rfl rfl
      · exact modCtx_accessesStay rfl rfl
    · exact .refl _
  exact (count.trans notice).trans (accessesStay_of_fields rfl rfl rfl rfl)

theorem bucketArrive_accessesStay (s : State) (die point v : Nat) (who : Agent) (ctx charge : Nat) :
    AccessesStay s (bucketArrive s die point v who ctx charge).1 := by
  have level : ∀ b, AccessesStay s (setBucket s die point v b) := fun _ => accessesStay_of_fields rfl rfl rfl rfl
  unfold bucketArrive
  dsimp only
  split
  · exact .refl s
  · split
    · exact level _
    · dsimp only
      split
      · exact (level _).trans (budgetTrap_accessesStay _ _ _ _)
      · exact level _

theorem takeGiven_accessesStay {s t : State} {g : Given} (h : takeGiven s g = some t) : AccessesStay s t := by
  unfold takeGiven at h
  split at h
  · cases h; exact accessesStay_of_fields rfl rfl rfl rfl
  · cases h

theorem waitsFor_accessesStay (s : State) (key : Nat) : AccessesStay s (waitsFor s key) := accessesStay_of_fields rfl rfl rfl rfl

theorem regulated_accessesStay (s : State) (die point v ctx charge : Nat) : AccessesStay s (regulated s die point v ctx charge) := by
  have arrive := bucketArrive_accessesStay s die point v s.run.agent ctx charge
  unfold regulated
  dsimp only
  split
  · exact .refl s
  · split
    next h => exact takeGiven_accessesStay h
    next =>
      split
      · exact waitsFor_accessesStay s _
      · split
        · exact arrive.trans (accessesStay_of_fields rfl rfl rfl rfl)
        · exact arrive.trans (waitsFor_accessesStay _ _)

theorem unheld_accessesStay (s : State) (die point v charge : Nat) : AccessesStay s (unheld s die point v charge) := by
  unfold unheld
  split
  · exact .refl s
  · split
    next h => exact takeGiven_accessesStay h
    next => exact (bucketArrive_accessesStay s die point v .nobody 300 charge).trans (accessesStay_of_fields rfl rfl rfl rfl)

/-! ### Slices -/

theorem writeback_accessesStay (s : State) (e : SliceLine) : AccessesStay s (writeback s e) := by
  unfold writeback
  split
  · exact (unheld_accessesStay _ _ _ _ _).trans (chargeVnpu_accessesStay _ _ _)
  · exact .refl s

/-- R228: a hit, a line in a free way, and a victim's line change the slices alone, but for the victim's writeback. -/
theorem sliceTouch_accessesStay (s : State) (v x : Nat) (write : Bool) : AccessesStay s (sliceTouch s v x write).1 := by
  unfold sliceTouch
  dsimp only
  split
  · exact accessesStay_of_fields rfl rfl rfl rfl
  · split
    · exact accessesStay_of_fields rfl rfl rfl rfl
    · split
      · exact (writeback_accessesStay s _).trans (accessesStay_of_fields rfl rfl rfl rfl)
      · exact .refl s

theorem crossDie_accessesStay (s : State) (die v ctx x charge : Nat) : AccessesStay s (crossDie s die v ctx x charge) := by
  unfold crossDie
  split
  · exact .refl s
  · exact regulated_accessesStay _ _ _ _ _ _

theorem sliceServe_accessesStay (s : State) (c v x charge : Nat) (write : Bool) : AccessesStay s (sliceServe s c v x charge write) := by
  have charged : ∀ t i, AccessesStay t (chargeCtx t c i 1) := fun t i => (chargeCtx_onlyCharged t c i 1).accessesStay
  have hit := ((crossDie_accessesStay s (dieOfCtx c) v c x charge).trans (sliceTouch_accessesStay _ v x write)).trans (charged _ 11)
  unfold sliceServe
  dsimp only
  split
  · exact hit.trans ((regulated_accessesStay _ _ _ _ _ _).trans (charged _ 12))
  · exact hit

end Sys2Proof.Machine
end

section
/-!
What an access makes of its bytes (R1, R387, R388).
-/
namespace Sys2Proof.Machine

open Sys2Proof

/-! ### Little-endian numbers in memory -/

@[simp] theorem natLe_length (n x : Nat) : (natLe n x).length = n := by
  induction n generalizing x with
  | zero => rfl
  | succ n ih => simp [natLe, ih]

theorem two_pow_bytes_succ (n : Nat) : 2 ^ (8 * (n + 1)) = 256 * 2 ^ (8 * n) := by
  rw [Nat.mul_succ, Nat.pow_add, Nat.mul_comm]

theorem leNat_natLe (n x : Nat) : leNat (natLe n x) = x % 2 ^ (8 * n) := by
  induction n generalizing x with
  | zero => simp [natLe, leNat, Nat.mod_one]
  | succ n ih => rw [natLe, leNat, ih, two_pow_bytes_succ, Nat.mod_mul, BitVec.toNat_ofNat]

theorem leNat_readBytes_lt (m : Memory) (a n : Nat) : leNat (readBytes m a n) < 2 ^ (8 * n) := by
  induction n generalizing a with
  | zero => simp [readBytes, leNat]
  | succ n ih =>
    have hlow := (readByte m a).isLt
    have hhigh := ih (a + 1)
    rw [readBytes, leNat, two_pow_bytes_succ]
    omega

theorem readLe_lt (m : Memory) (a n : Nat) : readLe m a n < 2 ^ (8 * n) := leNat_readBytes_lt m a n

theorem readLe_writeLe_same {m : Memory} (a n x : Nat) (h : Memory.wf m = true) : readLe (writeLe m a n x) a n = x % 2 ^ (8 * n) := by
  have bytes : readBytes (writeBytes m a (natLe n x)) a n = natLe n x := by simpa using readBytes_writeBytes_same (natLe n x) m a h
  rw [readLe, writeLe, bytes, leNat_natLe]

theorem readByte_writeLe_other {m : Memory} {a n b : Nat} (x : Nat) (h : Memory.wf m = true) (hb : b < a ∨ a + n ≤ b) :
    readByte (writeLe m a n x) b = readByte m b := readByte_writeBytes_other _ _ _ _ h (by simpa using hb)

/-! ### Accesses -/

/-- The number that an access leaves in its n bytes, which held `old`. -/
def valueLeft (k : AccKind) (n old value compare : Nat) : Nat := (newBytes k n old value compare).getD old

/-- An access returns what its bytes held, leaves `valueLeft` in them, and touches no other byte. -/
theorem accessMemory_effect {m : Memory} (k : AccKind) (pa n : Nat) (v compare : Word) (hm : Memory.wf m = true) :
    let r := accessMemory m k pa n v compare
    let old := BitVec.ofNat (8 * n) (readLe m pa n)
    r.2 = BitVec.ofNat 64 (readLe m pa n) ∧
    readLe r.1 pa n = valueLeft k n old.toNat (v.setWidth (8 * n)).toNat (compare.setWidth (8 * n)).toNat % 2 ^ (8 * n) ∧
    ∀ a, a < pa ∨ pa + n ≤ a → readByte r.1 a = readByte m a := by
  have hold : readLe m pa n % 2 ^ (8 * n) = readLe m pa n := Nat.mod_eq_of_lt (readLe_lt m pa n)
  simp only [accessMemory, valueLeft, BitVec.toNat_ofNat, BitVec.toNat_setWidth, hold]
  cases newBytes k n (readLe m pa n) (v.toNat % 2 ^ (8 * n)) (compare.toNat % 2 ^ (8 * n)) with
  | none => exact ⟨rfl, hold.symm, fun _ _ => rfl⟩
  | some w => exact ⟨rfl, readLe_writeLe_same pa n w hm, fun a ha => readByte_writeLe_other w hm ha⟩

/-- A number of w bits with its sign, as `amoNew` reads it. -/
theorem toInt_eq_of_half {w : Nat} (h : 0 < w) (x : BitVec w) :
    (if 2 ^ w / 2 ≤ x.toNat then (x.toNat : Int) - (2 ^ w : Nat) else (x.toNat : Int)) = x.toInt := by
  have heven : 2 ^ w = 2 ^ (w - 1) * 2 := by rw [← Nat.pow_succ, Nat.succ_eq_add_one, Nat.sub_add_cancel h]
  rw [BitVec.toInt_eq_toNat_cond]
  split <;> split <;> omega

section amo
variable {n : Nat} (old b : BitVec (8 * n))

theorem amoNew_add : amoNew .add n old.toNat b.toNat = (old + b).toNat := (BitVec.toNat_add old b).symm
theorem amoNew_and : amoNew .and n old.toNat b.toNat = (old &&& b).toNat := (BitVec.toNat_and old b).symm
theorem amoNew_or : amoNew .or n old.toNat b.toNat = (old ||| b).toNat := (BitVec.toNat_or old b).symm
theorem amoNew_xor : amoNew .xor n old.toNat b.toNat = (old ^^^ b).toNat := (BitVec.toNat_xor old b).symm

theorem amoNew_min (hn : 0 < n) : amoNew .min n old.toNat b.toNat = (if b.slt old = true then b else old).toNat := by
  have hw : 0 < 8 * n := by omega
  simp only [amoNew, toInt_eq_of_half hw, BitVec.slt, decide_eq_true_eq]
  split <;> rfl

theorem amoNew_max (hn : 0 < n) : amoNew .max n old.toNat b.toNat = (if old.slt b = true then b else old).toNat := by
  have hw : 0 < 8 * n := by omega
  simp only [amoNew, toInt_eq_of_half hw, BitVec.slt, decide_eq_true_eq]
  split <;> rfl

theorem valueLeft_cas (compare : BitVec (8 * n)) : valueLeft .cas n old.toNat b.toNat compare.toNat = (if old = compare then b else old).toNat := by
  simp only [valueLeft, newBytes, BitVec.toNat_inj]
  split <;> rfl

end amo

/-! ### FP32 sums (R387) -/

/-- A NaN, or infinities of both signs, give the canonical NaN. -/
theorem fadd32_nan {x y : Nat} (h : decodeF 0 x = .nan ∨ decodeF 0 y = .nan ∨ ∃ a, decodeF 0 x = .inf a ∧ decodeF 0 y = .inf (!a)) : fadd32 x y = nanEnc 0 := by
  have sum : (fAdd 0 (decodeF 0 x) (decodeF 0 y)).1 = .nan := by
    rcases h with hx | hy | ⟨a, hx, hy⟩
    · rw [hx]; rfl
    · rw [hy]; cases decodeF 0 x <;> rfl
    · rw [hx, hy]; cases a <;> rfl
  show (roundVal 0 rneInf (fAdd 0 (decodeF 0 x) (decodeF 0 y)).1).1 = nanEnc 0
  rw [sum]
  rfl

end Sys2Proof.Machine
end

section
/-!
Pending accesses: their service at a slice, at the host and by another module, and their return to a register (R43, R45, R228, R230, R231, R284).
-/
namespace Sys2Proof.Machine

open Sys2Proof

/-- From s to t pending access i of context c has become q; the context's registers and its other accesses stay. -/
def PendBecomes (s t : State) (c i : Nat) (q : Pend) : Prop :=
  pendAt (ctxAt t c) i = some q ∧ (ctxAt t c).regs = (ctxAt s c).regs ∧ ∀ j, j ≠ i → pendAt (ctxAt t c) j = pendAt (ctxAt s c) j

theorem setPend_becomes {s t : State} {c i : Nat} {p : Pend} (q : Pend) (hp : pendAt (ctxAt s c) i = some p)
    (hmem : (ctxAt t c).mem = (ctxAt s c).mem) (hregs : (ctxAt t c).regs = (ctxAt s c).regs) : PendBecomes s (setPend t c i q) c i q := by
  have hi : i < (ctxAt s c).mem.length := (List.getElem?_eq_some_iff.mp hp).1
  refine ⟨?_, by simp [setPend, hregs], fun j hj => ?_⟩
  · simp [setPend, pendAt, hmem, hi]
  · simp [setPend, pendAt, hmem, Ne.symm hj]

/-! ### Service -/

section service
variable {s : State} {c i : Nat} {p : Pend} (hp : pendAt (ctxAt s c) i = some p)
include hp

theorem exec_sliceAccess (hk : isAtomicKind p.kind = false) : exec (.sliceAccess c i) s = .next (servePend s c i) := by
  show execSliceAccess c i s = _
  simp [execSliceAccess, hp, hk]

/-- R231: with no packet beside it an atomic is served alone. -/
theorem exec_atomicExecute (hk : isAtomicKind p.kind = true) (hl : s.run.arg.nums = []) : exec (.atomicExecute c i) s = .next (servePend s c i) := by
  show execAtomicExecute c i s = _
  simp [execAtomicExecute, hp, hk, hl]

variable (hplace : p.place = .atSlice) (hfirst : olderSameLine (ctxAt s c) i p = false)
include hplace hfirst

/-- R228, R230: an access to a line of device memory that can be read, outside race detection and SY pages. -/
theorem servePend_dev (hmt : p.mt = 0) (hrc : p.rc = false) (hsy : p.sy = false) (hline : lostLine s p.pa = false) :
    let r := accessMemory s.dev p.kind (servedAddr s p.pa) p.bytes p.value p.compare
    (servePend s c i).dev = r.1 ∧ (servePend s c i).host = s.host ∧ PendBecomes s (servePend s c i) c i { p with place := .done, result := r.2 } := by
  have stay := sliceServe_accessesStay s c (ctxAt s c).v (lineOf p.pa) (initCharge p.bytes (isAtomicKind p.kind)) (isWriteKind p.kind)
  have h2 : ¬ p.mt = 2 := by omega
  have h1 : ¬ p.mt = 1 := by omega
  simp only [servePend, hp, hplace, hfirst, h2, h1, hrc, hsy, hline, bne_self_eq_false, Bool.or_self, Bool.false_eq_true, if_false, servedAddr, stay.mgmt, stay.dev]
  exact ⟨rfl, stay.host, setPend_becomes _ hp (stay.mem c) (stay.regs c)⟩

/-- R33: an access to a host page. -/
theorem servePend_host (hmt : p.mt = 1) :
    let r := accessMemory s.host p.kind p.pa p.bytes p.value p.compare
    (servePend s c i).host = r.1 ∧ (servePend s c i).dev = s.dev ∧ PendBecomes s (servePend s c i) c i { p with place := .done, result := r.2 } := by
  have h2 : ¬ p.mt = 2 := by omega
  simp only [servePend, hp, hplace, hfirst, h2, bne_self_eq_false, Bool.or_self, Bool.false_eq_true, if_false]
  rw [if_pos hmt]
  exact ⟨rfl, rfl, setPend_becomes _ hp rfl rfl⟩

/-- R43, R45: an access to a remote page leaves for its home. -/
theorem servePend_remote (hmt : p.mt = 2) (hway : unreachable s = false) :
    let t := servePend s c i
    PendBecomes s t c i { p with place := .away } ∧
    t.out.remote = s.out.remote ++ [{ remoteMsg s c (ctxAt s c).v p with port := leavePort s p.home p.pa }] ∧ memoriesStay s t := by
  have hway' : unreachable (setPend s c i { p with place := .away }) = false := hway
  have hv : (ctxAt (setPend s c i { p with place := .away }) c).v = (ctxAt s c).v := by simp [setPend]
  have leaves : servePend s c i = sendRemote (setPend s c i { p with place := .away }) (remoteMsg s c (ctxAt s c).v p) := by
    unfold servePend
    simp only [hp]
    rw [if_neg (by simp [hplace, hfirst]), if_pos hmt, sendPend, if_neg (by simp [hway']), hv]
    rfl
  rw [leaves]
  exact ⟨setPend_becomes _ hp rfl rfl, rfl, rfl, rfl⟩

end service

/-! ### Return -/

theorem exec_memoryReply (c i : Nat) (s : State) : exec (.memoryReply c i) s = .next (landPend s c i) := rfl

theorem writtenCtx_mem (x : Ctx) (d : Nat) (v : Word) : (writtenCtx x d v).mem = x.mem := by
  unfold writtenCtx
  split
  · rfl
  · split <;> rfl

/-- R333: below the send ports a write gives its register the value, but for s0, and leaves the others. -/
theorem writtenCtx_reg (x : Ctx) (d r : Nat) (v : Word) (hd : d < 60) :
    mget (writtenCtx x d v).regs r 0 = if r = d ∧ r ≠ 0 then v else mget x.regs r 0 := by
  by_cases hr : r = d
  · subst hr
    by_cases h0 : r = 0
    · simp [writtenCtx, h0]
    · rw [writtenCtx_reg_same x r v h0 hd, if_pos ⟨rfl, h0⟩]
  · rw [writtenCtx_reg_other x d r v hr, if_neg fun h => hr h.1]

section reply
variable {s : State} {c i : Nat} {p : Pend} (hp : pendAt (ctxAt s c) i = some p) (hplace : p.place = .done)
include hp hplace

/-- R284: a served access that returns nothing is gone. -/
theorem landPend_silent (hk : returnsKind p.kind = false) :
    let t := landPend s c i
    (ctxAt t c).mem = (ctxAt s c).mem.eraseIdx i ∧ (ctxAt t c).regs = (ctxAt s c).regs ∧ memoriesStay s t := by
  have lands : landPend s c i = dropPend s c i := by simp [landPend, hp, hplace, hk]
  dsimp only
  rw [lands, dropPend, ctxAt_modCtx]
  exact ⟨rfl, rfl, rfl, rfl⟩

/-- R284, R376: one that returns is gone too, and its register, which waits for one access less, has the result. -/
theorem landPend_returns (hk : returnsKind p.kind = true) (hdst : p.dst < 60) :
    let t := landPend s c i
    (ctxAt t c).mem = (ctxAt s c).mem.eraseIdx i ∧
    (∀ r, mget (ctxAt t c).regs r 0 = if r = p.dst ∧ r ≠ 0 then p.result else mget (ctxAt s c).regs r 0) ∧ memoriesStay s t := by
  have hroom : portFull s c p.dst = false := by simp [portFull, Nat.not_le.mpr hdst]
  have lands : landPend s c i =
      setCtx s c (regNotBusy (writtenCtx { ctxAt s c with mem := (ctxAt s c).mem.eraseIdx i } p.dst p.result) p.dst) := by
    simp [landPend, hp, hplace, hk, hroom, dropPend, modCtx, writeReg_setCtx]
  dsimp only
  rw [lands, ctxAt_setCtx]
  exact ⟨writtenCtx_mem _ _ _, fun r => writtenCtx_reg _ _ r _ hdst, rfl, rfl⟩

end reply

/-! ### Answers of another module -/

/-- R231: an access behind which none waits is answered alone. -/
theorem mergedAt_alone {s : State} {c : Nat} (i : Nat) (p : Pend) (h : ∀ e ∈ s.ctxs, ∀ q ∈ e.2.mem, q.place ≠ .behind c) : mergedAt s c i p = [(c, i)] := by
  unfold mergedAt
  rw [List.flatMap_eq_nil_iff.mpr, List.nil_append]
  intro e he
  rw [List.map_eq_nil_iff, List.filter_eq_nil_iff]
  intro q hq
  have not_behind : q.1.place ≠ .behind c := h e he q.1 (List.fst_mem_of_mem_zipIdx hq)
  simp [not_behind]

/-- R45: the answer of the home module is the result. -/
theorem exec_remoteResponse_alone {s : State} {c i : Nat} {p : Pend} (hp : pendAt (ctxAt s c) i = some p) (hplace : p.place = .away)
    (hwrite : s.run.arg.write = false) (hc : s.run.arg.n = c) (hi : s.run.arg.m = i) (hreach : s.run.arg.flag = false) (hmay : s.run.arg.flag2 = false)
    (halone : ∀ e ∈ s.ctxs, ∀ q ∈ e.2.mem, q.place ≠ .behind c) :
    exec .remoteResponse s = .next (setPend s c i { p with place := .done, result := s.run.arg.value }) := by
  have haway : isAway p = true := by simp [isAway, hplace]
  have hanswer : replied s.run.arg.value p = { p with place := .done, result := s.run.arg.value } := by simp [replied, hplace]
  show execRemoteResponse s = _
  simp only [execRemoteResponse, hwrite, hc, hi, hp, haway, pendAnswered, mergedAt_alone i p halone, List.foldl_cons, List.foldl_nil, hreach, hmay, hanswer,
    Bool.not_true, Bool.false_eq_true, if_false, if_true]

/-! ### The obligation -/

/-- Settles O18: an access is served where its page lies (`servePend_dev`, `servePend_host`, `servePend_remote`), returns (`landPend_returns`,
`landPend_silent`, `exec_remoteResponse_alone`), and leaves in its bytes what `accessMemory_effect` says of its operation. -/
theorem pendingAccessesAreServedAndReturn : Obligations.PendingAccessesAreServedAndReturn := by
  unfold Obligations.PendingAccessesAreServedAndReturn
  refine ⟨?_, ?_, fun x y h => fadd32_nan h, by decide, by decide⟩
  · intro s c idx p x done dev host served hp
    have serves : ∀ i, exec i s = .next (servePend s c idx) → served i := fun i hi hplace hfirst =>
      ⟨fun hmt hrc hsy hline => ⟨_, hi, servePend_dev hp hplace hfirst hmt hrc hsy hline⟩,
        fun hmt => ⟨_, hi, servePend_host hp hplace hfirst hmt⟩,
        fun hmt hway =>
          have ⟨⟨haway, hregs, _⟩, hsent, hmems⟩ := servePend_remote hp hplace hfirst hmt hway
          ⟨_, hi, haway, hregs, hsent, hmems⟩⟩
    exact ⟨fun hk => serves _ (exec_sliceAccess hp hk), fun hk hl => serves _ (exec_atomicExecute hp hk hl),
      fun hplace hk hdst => ⟨_, exec_memoryReply c idx s, landPend_returns hp hplace hk hdst⟩,
      fun hplace hk => ⟨_, exec_memoryReply c idx s, landPend_silent hp hplace hk⟩,
      fun hplace hwrite hc hi hreach hmay halone =>
        ⟨_, exec_remoteResponse_alone hp hplace hwrite hc hi hreach hmay halone, setPend_becomes _ hp rfl rfl, rfl, rfl⟩⟩
  · intro m pa n v compare hm hn old b acts
    have acts_mod : ∀ k (new : BitVec (8 * n)), valueLeft k n old.toNat b.toNat (compare.setWidth (8 * n)).toNat % 2 ^ (8 * n) = new.toNat → acts k new := by
      intro k new hnew
      have ⟨hresult, hvalue, hother⟩ := accessMemory_effect k pa n v compare hm
      exact ⟨hresult, hvalue.trans hnew, hother⟩
    have acts_eq : ∀ k (new : BitVec (8 * n)), valueLeft k n old.toNat b.toNat (compare.setWidth (8 * n)).toNat = new.toNat → acts k new := fun k new hnew =>
      acts_mod k new (by rw [hnew]; exact Nat.mod_eq_of_lt new.isLt)
    have hpos : 0 < n := by omega
    exact ⟨acts_eq _ _ rfl, acts_eq _ _ rfl, acts_eq _ _ rfl, acts_eq _ _ rfl, acts_eq _ _ rfl, acts_eq _ _ (amoNew_add old b), acts_eq _ _ (amoNew_and old b),
      acts_eq _ _ (amoNew_or old b), acts_eq _ _ (amoNew_xor old b), acts_eq _ _ (amoNew_min old b hpos), acts_eq _ _ (amoNew_max old b hpos), acts_eq _ _ rfl,
      acts_eq _ _ (valueLeft_cas old b _), fun _ => acts_mod _ _ (BitVec.toNat_ofNat _ _).symm⟩

end Sys2Proof.Machine
end

section
/-!
Destroying a queue (R110, R124, R125): a launch that counts as over once the queue's packets are abandoned is left as it is, though it may not have been over before.
-/
namespace Sys2Proof.Machine

open Sys2Proof

/-- A queue that is being destroyed once its packets are abandoned, before its launches are ended. -/
def withQueueAbandoned (s : State) (v q : Nat) : State :=
  abandonQueue (keepStanding (disableRings (modQueue s v q fun x => { x with en := false, busy := true }) v q) v q) v q

/-- DESTROY ends no launch where each of the queue's is over as the packets are abandoned. -/
theorem exec_destroy_of_launches_over {s : State} {v q : Nat} (hbusy : (queueAt s v q).busy = false)
    (hover : ∀ l ∈ launchesOf (withQueueAbandoned s v q) v q, launchOver (withQueueAbandoned s v q) l = true) :
    exec (.destroy v q) s = .next (post (withQueueAbandoned s v q) (.destroyDone v q)) := by
  have skipped : ∀ (ls : List Nat) (t : State), (∀ l ∈ ls, launchOver t l = true) → ls.foldl (fun t l => if launchOver t l then t else endLaunch t l (some (1, 0))) t = t := by
    intro ls t hls
    induction ls with
    | nil => rfl
    | cons l r ih => simp [hls l, ih fun k hk => hls k (List.mem_cons_of_mem l hk)]
  have unfolded : exec (.destroy v q) s = execDestroy v q s := rfl
  rw [unfolded, execDestroy, if_neg (by simp [hbusy])]
  exact congrArg (fun t => Host.Outcome.next (post t (.destroyDone v q))) (skipped _ _ hover)

/-! ### A launch that an owed store keeps from being over -/

/-- The store of one byte by VNPU 1 to module 1 whose acknowledgement launch 1 waits for. -/
def unacknowledgedStore : RemoteMsg := { noMsg with dest := 1, v := 1, kind := .store, bytes := 1, data := [7] }

/-- Launch 1, of queue 0 of VNPU 1: its only team has been placed and has ended. -/
def launchOfEndedTeam : Launch :=
  { launchOf 1 0 0 0 [] noHeader with nteams := 1, next := 1, ended := [(0, { ph := 0, vc := [], killed := true })] }

/-- Launch 1 waits for its store, which the ledger holds as issued by the launch for context 200, where a prologue of the queue runs. -/
def stateWithOwedStore : State :=
  { State.reset with
    run := { State.reset.run with inputs := [], asked := [(.launch 1, unacknowledgedStore)], ledger := [(.launch 1, .write 1 200 2 1 0 [(0, [7])] false [])] }
    ctxs := [(200, { freshCtx with phase := .running, v := 1, launch := 0 })]
    launches := [(1, launchOfEndedTeam)]
    nextLaunch := 2 }

theorem stateWithOwedStore_idle : (queueAt stateWithOwedStore 1 0).busy = false := by decide +kernel

/-- The store has not been acknowledged. -/
theorem stateWithOwedStore_not_over : launchOver stateWithOwedStore 1 = false := by decide +kernel

/-- As the prologue stops, what has been issued for its context becomes nobody's: the launch waits for no store any more. -/
theorem stateWithOwedStore_over_once_abandoned :
    ∀ l ∈ launchesOf (withQueueAbandoned stateWithOwedStore 1 0) 1 0, launchOver (withQueueAbandoned stateWithOwedStore 1 0) l = true := by decide +kernel

theorem stateWithOwedStore_launch_stays :
    launchAt (post (withQueueAbandoned stateWithOwedStore 1 0) (.destroyDone 1 0)) 1 = some launchOfEndedTeam := by decide +kernel

/-- Refutes O11 by its clause on DESTROY: a launch that is not completing need not be given STATUS 1. The clause asks whether the launch is over before the step, the model
once the queue's packets are abandoned; between the two, stopping the queue's prologue hands to nobody a store that the launch waits for, where the ledger holds the store as
issued by the launch itself for the prologue's context. No hypothesis of the statement excludes such a ledger. -/
theorem not_destroyAndGuestReset : ¬ Obligations.DestroyAndGuestReset := by
  unfold Obligations.DestroyAndGuestReset
  intro h
  obtain ⟨destroyed, -⟩ := h stateWithOwedStore 1 0 { ring := 0, unit := 0, ty := 1, seq := 0, data := [] } []
  obtain ⟨t, ht, -, -, -, -, -, ended, -⟩ := destroyed stateWithOwedStore_idle
  obtain ⟨-, z, hz, final⟩ := ended 1 launchOfEndedTeam rfl rfl rfl stateWithOwedStore_not_over rfl (by decide)
  have left := exec_destroy_of_launches_over stateWithOwedStore_idle stateWithOwedStore_over_once_abandoned
  obtain rfl : post (withQueueAbandoned stateWithOwedStore 1 0) (.destroyDone 1 0) = t := by simpa using left.symm.trans ht
  obtain rfl : launchOfEndedTeam = z := by simpa using stateWithOwedStore_launch_stays.symm.trans hz
  exact absurd final (by decide)

end Sys2Proof.Machine
end

section
/-!
Drain mode: which instructions trap in a drain stub, and how its halves end (R141, R142, R145, R352, R404).
-/
namespace Sys2Proof.Machine

open Sys2Proof

theorem isPrologue_of_isTeam {c : Nat} (h : isTeam c = true) : isPrologue c = false := by
  simp only [isTeam, isPrologue, decide_eq_true_eq, decide_eq_false_iff_not] at h ⊢
  omega

/-- What a register of the sequencer that is no port reads as (R333). -/
def regValue (x : Ctx) (r : Reg) : Word := if r.toNat = 0 then 0 else mget x.regs r.toNat 0

/-- Source fields that name no receive port read their registers and take no flits. -/
theorem readSrcs_of_registers (x : Ctx) (srcs : List Reg) (tk : SMap Nat) (h : ∀ r ∈ srcs, r.toNat < 56) :
    readSrcs x (srcs.map (·.toNat)) tk = some (srcs.map (regValue x), tk) := by
  induction srcs with
  | nil => rfl
  | cons r rest ih =>
    have hr : ¬ (56 ≤ r.toNat ∧ r.toNat < 60) := by have := h r List.mem_cons_self; omega
    simp [readSrcs, hr, ih fun q hq => h q (List.mem_cons_of_mem _ hq), regValue]

theorem writtenCtx_pc (x : Ctx) (d : Nat) (v : Word) : (writtenCtx x d v).pc = x.pc := by
  unfold writtenCtx
  split
  · rfl
  · split <;> rfl

theorem writtenCtx_loops (x : Ctx) (d : Nat) (v : Word) : (writtenCtx x d v).loops = x.loops := by
  unfold writtenCtx
  split
  · rfl
  · split <;> rfl

/-- An instruction that the unprivileged level may not execute has the common course all the same (R340). -/
theorem priv_eq_ctl (i : Instr) (srcs : List Reg) (body : List Word → State → Do) (s : State) :
    ∃ srcs' d body', priv i srcs body s = .next (ctl i srcs' d body' s) := by
  unfold priv trapsAs
  split <;> exact ⟨_, _, _, rfl⟩

theorem execSets_eq_ctl (a : Reg) (imm : BitVec 14) (s : State) : ∃ srcs d body, execSets a imm s = .next (ctl (.sets a imm) srcs d body s) := by
  unfold execSets trapsAs
  dsimp only
  split <;> exact ⟨_, _, _, rfl⟩

theorem execCmd_eq_ctl (eng : BitVec 2) (a b : Reg) (op fl : BitVec 6) (s : State) :
    ∃ srcs d body, execCmd eng a b op fl s = .next (ctl (.cmd eng a b op fl) srcs d body s) := by
  unfold execCmd
  dsimp only
  split <;> exact ⟨_, _, _, rfl⟩

/-- Every control instruction has the common course of `ctl`. -/
theorem exec_eq_ctl {i : Instr} {w : BitVec 32} (h : encodeControl i = some w) (s : State) : ∃ srcs d body, exec i s = .next (ctl i srcs d body s) := by
  cases i
  all_goals cases h
  case sets => exact execSets_eq_ctl _ _ s
  case cmd => exact execCmd_eq_ctl _ _ _ _ _ s
  case tlbinv => exact priv_eq_ctl _ _ _ s
  case tlblk => exact priv_eq_ctl _ _ _ s
  case ldovt => exact priv_eq_ctl _ _ _ s
  case halt => exact priv_eq_ctl _ _ _ s
  all_goals exact ⟨_, _, _, rfl⟩

/-- R142: an instruction that would go on at or before its own address traps, from the state before it. -/
theorem retire_backwards {s0 t : State} {c : Nat} {next : Word} (ht : (ctxAt t c).drain ≠ .off)
    (h : (endCheck (ctxAt t c).loops next).2.toNat ≤ (ctxAt t c).pc.toNat) : retire s0 t c next = takeTrap s0 c 0x01 0 := by
  unfold retire
  exact if_pos (by simp [ht, h])

/-! ### The common course in drain mode -/

section drain
variable {s : State} (hteam : isTeam s.run.cur = true)
include hteam

/-- Within the 1,024 instructions, one that a stub may execute, and that names neither a port nor a register that awaits a load, is its body's answer. -/
theorem ctl_in_drain {i : Instr} {srcs : List Reg} {d : Option Reg} (body : List Word → State → Do) (hcount : drainCount (curCtx s).drain < 1024)
    (hban : drainBans i = false) (hregs : ∀ r ∈ srcs ++ d.toList, r.toNat < 56 ∧ mfind (curCtx s).busy r.toNat = none) :
    ctl i srcs d body s = finish s s.run.cur [] (d.map (·.toNat)) (body (srcs.map (regValue (curCtx s))) s) := by
  unfold curCtx at hcount hregs ⊢
  have hp := isPrologue_of_isTeam hteam
  have hsrcs : ∀ r ∈ srcs, r.toNat < 56 := fun r hr => (hregs r (List.mem_append_left _ hr)).1
  have hdst : (d.map (·.toNat)).getD 0 < 56 := by
    cases d with
    | none => simp
    | some r => exact (hregs r (by simp)).1
  have noPort : ∀ p : Nat → Bool, (∀ n < 56, p n = false) → (srcs.map (·.toNat)).any p = false := by
    intro p hlow
    simp only [List.any_map, List.any_eq_false, Function.comp, Bool.not_eq_true]
    exact fun r hr => hlow _ (hsrcs r hr)
  have allowed : (decide (1024 ≤ drainCount (ctxAt s s.run.cur).drain) || drainBans i || ((d.map (·.toNat)).getD 0 ≥ 60) ||
      (srcs.map (·.toNat)).any fun r => decide (56 ≤ r ∧ r < 60)) = false := by
    rw [noPort _ fun n hn => by simp; omega, hban]
    simp
    omega
  have landed : ((srcs.map (·.toNat) ++ (d.map (·.toNat)).toList).any fun r => (mfind (ctxAt s s.run.cur).busy r).isSome) = false := by
    have names : srcs.map (·.toNat) ++ (d.map (·.toNat)).toList = (srcs ++ d.toList).map (·.toNat) := by cases d <;> simp
    rw [names, List.any_map, List.any_eq_false]
    intro r hr
    simp [(hregs r hr).2]
  have hread : sources s.run.cur (ctxAt s s.run.cur) (srcs.map (·.toNat)) = some (srcs.map (regValue (ctxAt s s.run.cur)), []) := by
    simp [sources, hp, readSrcs_of_registers _ _ _ hsrcs]
  unfold ctl
  dsimp only
  rw [if_neg (by simp [hp]), if_neg (by simp [hp]), if_neg (by rw [allowed]; simp), if_neg (by rw [noPort _ fun n hn => by simp; omega]; simp; omega),
    if_neg (by simp; omega), if_neg (by simp [landed]), if_neg (by simp [portFull]; omega), hread]

/-- An instruction of a stub whose body leaves it is that body's state. -/
theorem ctl_away_in_drain {i : Instr} {body : List Word → State → Do} {t : State} (hcount : drainCount (curCtx s).drain < 1024) (hban : drainBans i = false)
    (hbody : body [] s = .away t) : ctl i [] none body s = t := by
  rw [ctl_in_drain hteam body hcount hban (by simp)]
  exact congrArg (finish s s.run.cur [] none) hbody

variable (hdrain : (curCtx s).drain ≠ .off)
include hdrain

/-- R142: the check of drain mode comes before the operands are read. -/
theorem ctl_of_drain_check {i : Instr} {srcs : List Reg} {d : Option Reg} {body : List Word → State → Do}
    (h : 1024 ≤ drainCount (curCtx s).drain ∨ drainBans i = true ∨ (∃ r ∈ srcs, 56 ≤ r.toNat ∧ r.toNat < 60) ∨ ∃ r, d = some r ∧ 60 ≤ r.toNat) :
    ctl i srcs d body s = takeTrap s s.run.cur 0x01 0 := by
  have hp := isPrologue_of_isTeam hteam
  have refused : ((curCtx s).drain != .off && (decide (1024 ≤ drainCount (curCtx s).drain) || drainBans i || ((d.map (·.toNat)).getD 0 ≥ 60) ||
      (srcs.map (·.toNat)).any fun r => decide (56 ≤ r ∧ r < 60))) = true := by
    rcases h with h | h | ⟨r, hr, hport⟩ | ⟨r, rfl, hport⟩
    · simp [hdrain, h]
    · simp [hdrain, h]
    · simp only [List.any_map, bne_iff_ne, ne_eq, hdrain, not_false_eq_true, Bool.and_eq_true, Bool.or_eq_true, List.any_eq_true, true_and]
      exact .inr ⟨r, hr, by simpa using hport⟩
    · simp [hdrain, hport]
  unfold ctl
  dsimp only
  rw [if_neg (by simp [hp]), if_neg (by simp [hp])]
  exact if_pos refused

/-- R142: once the half has retired 1,024 instructions, and for an instruction that a stub may not execute, the answer is the trap. -/
theorem exec_of_drain_check {i : Instr} (hi : ∃ srcs d body, exec i s = .next (ctl i srcs d body s))
    (h : 1024 ≤ drainCount (curCtx s).drain ∨ drainBans i = true) : exec i s = .next (takeTrap s s.run.cur 0x01 0) := by
  obtain ⟨srcs, d, body, hi⟩ := hi
  rw [hi, ctl_of_drain_check hteam hdrain (h.imp_right .inl)]

theorem exec_of_drain_bans {l : List Instr} (hl : ∀ i ∈ l, (encodeControl i).isSome = true ∧ drainBans i = true) :
    ∀ i ∈ l, exec i s = .next (takeTrap s s.run.cur 0x01 0) := by
  intro i hi
  obtain ⟨hword, hban⟩ := hl i hi
  obtain ⟨w, hw⟩ := Option.isSome_iff_exists.mp hword
  exact exec_of_drain_check hteam hdrain (exec_eq_ctl hw s) (.inr hban)

theorem exec_of_port_in_drain {i : Instr} {srcs : List Reg} {d : Option Reg} {body : List Word → State → Do} (hi : exec i s = .next (ctl i srcs d body s))
    (hport : (∃ r ∈ srcs, 56 ≤ r.toNat ∧ r.toNat < 60) ∨ ∃ r, d = some r ∧ 60 ≤ r.toNat) : exec i s = .next (takeTrap s s.run.cur 0x01 0) := by
  rw [hi, ctl_of_drain_check hteam hdrain (.inr (.inr hport))]

/-- R142, R368: a jump through a register whose target, after the end check, does not lie ahead. -/
theorem execJr_backwards_in_drain {d a : Reg} {imm : BitVec 14} (hcount : drainCount (curCtx s).drain < 1024)
    (ha : a.toNat < 56 ∧ mfind (curCtx s).busy a.toNat = none) (hd : d.toNat < 56 ∧ mfind (curCtx s).busy d.toNat = none)
    (halign : (regValue (curCtx s) a + immI imm * 4).toNat % 4 = 0)
    (hback : (endCheck (curCtx s).loops (regValue (curCtx s) a + immI imm * 4)).2.toNat ≤ (curCtx s).pc.toNat) :
    execJr d a imm s = .next (takeTrap s s.run.cur 0x01 0) := by
  have hregs : ∀ r ∈ [a] ++ (some d).toList, r.toNat < 56 ∧ mfind (curCtx s).busy r.toNat = none := by simpa using ⟨ha, hd⟩
  unfold execJr
  rw [ctl_in_drain hteam _ hcount rfl hregs]
  simp only [List.map_cons, val0, List.getD_cons_zero, halign, ne_eq, not_true_eq_false, if_false, finish, modCtx, writeReg_setCtx]
  exact congrArg Host.Outcome.next (retire_backwards (by rw [ctxAt_setCtx, writtenCtx_drain]; exact hdrain)
    (by rw [ctxAt_setCtx, writtenCtx_loops, writtenCtx_pc]; exact hback))

/-- R142, R392: a token that its queue does not take at once. -/
theorem token_full_in_drain {i : Instr} {a : Reg} {t : Word → Token} (hban : drainBans i = false)
    (hcount : drainCount (curCtx s).drain < 1024) (ha : a.toNat < 56 ∧ mfind (curCtx s).busy a.toNat = none) (hfull : queueTakes s s.run.cur 0 = false) :
    token i a (fun v => .ok (t v)) s = .next (takeTrap s s.run.cur 0x01 0) := by
  have hregs : ∀ r ∈ [a] ++ (none : Option Reg).toList, r.toNat < 56 ∧ mfind (curCtx s).busy r.toNat = none := by simpa using ha
  unfold token
  rw [ctl_in_drain hteam _ hcount hban hregs]
  simp only [hteam, hfull, Bool.not_true, Bool.false_eq_true, if_false, finish]
  exact congrArg Host.Outcome.next (if_pos (bne_iff_ne.mpr hdrain))

end drain

theorem drainModeTraps : Claims.DrainModeTraps := by
  intro s n glb d a b eng op fl k sw off imm far mo size
  dsimp only
  intro hteam hhalf
  have hdrain : (curCtx s).drain ≠ .off := by rcases hhalf with h | h <;> simp [h]
  have hcount : drainCount (curCtx s).drain = n := by rcases hhalf with h | h <;> simp [h, drainCount]
  refine ⟨?count, ?waits, ?branches, ?jumps, ?jr, ?tokens, ?add, ?sourceAndDest, ?sources⟩
  case count => exact fun i w hn hw => exec_of_drain_check hteam hdrain (exec_eq_ctl hw s) (.inl (hcount ▸ hn))
  case waits =>
    refine exec_of_drain_bans hteam hdrain ?_
    simp only [List.forall_mem_cons, List.not_mem_nil, false_imp_iff, implies_true, and_true]
    refine ⟨?_, ?_, ?_, ?_, ?_, ?_, ?_, ?_, ?_⟩ <;> exact ⟨rfl, rfl⟩
  case branches =>
    intro hoff
    have hban : decide (off.toInt ≤ 0) = true := decide_eq_true hoff
    refine exec_of_drain_bans hteam hdrain ?_
    simp only [List.forall_mem_cons, List.not_mem_nil, false_imp_iff, implies_true, and_true]
    refine ⟨?_, ?_, ?_, ?_, ?_, ?_⟩ <;> exact ⟨rfl, hban⟩
  case jumps =>
    intro hfar
    have hban : decide (far.toInt ≤ 0) = true := decide_eq_true hfar
    exact ⟨exec_of_drain_check hteam hdrain (exec_eq_ctl rfl s) (.inr hban), exec_of_drain_check hteam hdrain (exec_eq_ctl rfl s) (.inr hban)⟩
  case jr => exact fun hn ha hd hba hbd halign hback => execJr_backwards_in_drain hteam hdrain (hcount ▸ hn) ⟨ha, hba⟩ ⟨hd, hbd⟩ halign hback
  case tokens =>
    intro hn ha hba hfull
    have full : ∀ (i : Instr) (t : Word → Token), drainBans i = false → token i a (fun v => .ok (t v)) s = .next (takeTrap s s.run.cur 0x01 0) :=
      fun _ _ hban => token_full_in_drain hteam hdrain hban (hcount ▸ hn) ⟨ha, hba⟩ hfull
    exact ⟨full (.tmask a) (fun v => { kind := 0, payload := v }) rfl, full (.tout a) (fun v => { kind := 2, payload := boolW (v != 0) }) rfl,
      full (.tdata a) (fun v => { kind := 3, payload := v }) rfl⟩
  case add => exact fun h => exec_of_port_in_drain (srcs := [a, b]) (d := some d) hteam hdrain rfl (by simpa [or_assoc] using h)
  case sourceAndDest =>
    intro h
    have hport : (∃ r ∈ [a], 56 ≤ r.toNat ∧ r.toNat < 60) ∨ ∃ r, some d = some r ∧ 60 ≤ r.toNat := by simpa using h
    simp only [List.forall_mem_cons, List.not_mem_nil, false_imp_iff, implies_true, and_true]
    refine ⟨?_, ?_, ?_, ?_⟩ <;> exact exec_of_port_in_drain hteam hdrain rfl hport
  case sources =>
    intro h
    have hport : (∃ r ∈ [a, b], 56 ≤ r.toNat ∧ r.toNat < 60) ∨ ∃ r, (none : Option Reg) = some r ∧ 60 ≤ r.toNat := by simpa using h
    simp only [List.forall_mem_cons, List.not_mem_nil, false_imp_iff, implies_true, and_true]
    refine ⟨?_, ?_⟩ <;> exact exec_of_port_in_drain hteam hdrain rfl hport

/-! ### The end of a half -/

/-- What the ERET of a save half makes of its context (R404). -/
def saveHalfEnded (x : Ctx) : Ctx := { x with pc := x.pc + 4, drain := .off, phase := .stopped, wait := .none }

/-- What the ERET of a restore half makes of its context: s1 to s63 and the PC are those of `y`, which was saved when the stub began (R145). -/
def restoreHalfEnded (x y : Ctx) : Ctx := { x with regs := y.regs, pc := y.pc, drain := .off, wait := .none, phase := .loading }

section eret
variable {s : State} {n : Nat} (hteam : isTeam s.run.cur = true) (hmem : (curCtx s).mem = []) (hn : n < 1024)
include hteam hmem hn

theorem exec_eret_of_save (h : (curCtx s).drain = .save n) :
    exec .eret s = .next (postArg (chargeOverhead (setCtx s s.run.cur (saveHalfEnded (curCtx s))) 0 1) (.eviction s.run.cur) { noArg with flag := true }) := by
  show execEret s = _
  refine congrArg Host.Outcome.next (ctl_away_in_drain hteam (by simpa [h, drainCount] using hn) rfl ?_)
  simp [isFw_of_isTeam hteam, hmem, h, saveHalfEnded]

theorem exec_eret_of_restore {y : Ctx} (h : (curCtx s).drain = .restore n) (hy : mfind s.stubs s.run.cur = some y) :
    exec .eret s = .next (postArg (chargeOverhead { setCtx s s.run.cur (restoreHalfEnded (curCtx s) y) with stubs := mdel s.stubs s.run.cur } 0 1)
      (.restore 0 s.run.cur) { noArg with flag := true }) := by
  show execEret s = _
  refine congrArg Host.Outcome.next (ctl_away_in_drain hteam (by simpa [h, drainCount] using hn) rfl ?_)
  simp [isFw_of_isTeam hteam, hmem, h, restoreHalfEnded, mget, hy]

end eret

theorem eretInDrainStubs : Claims.EretInDrainStubs := by
  intro s n
  dsimp only
  intro hteam hmem
  refine ⟨fun tk h => ?_, fun hsave hn => ?_, fun y hrestore hn hy => ?_⟩
  · have hoff := h.drain
    exact congrArg Host.Outcome.next (ctl_trap h (by simp [isFw_of_isTeam hteam, hoff]))
  · exact ⟨_, _, exec_eret_of_save hteam hmem hn hsave, ctxAt_setCtx _ _ _, rfl⟩
  · exact ⟨_, _, exec_eret_of_restore hteam hmem hn hrestore hy, ctxAt_setCtx _ _ _, rfl⟩

/-- Settles O46: in drain mode the check of `ctl` comes before an instruction's operands (`ctl_of_drain_check`), the check that it goes forward as it retires
(`retire_backwards`). -/
theorem drainStubs : Obligations.DrainStubs := by
  unfold Obligations.DrainStubs
  exact ⟨eretInDrainStubs, drainModeTraps⟩

end Sys2Proof.Machine
end

section
/-!
What the machine's own reads leave alone (R123, R141, R145): walks, services of slices, requests to other modules, fills and pins change no memory, no scratchpad and no
save area, and nothing of what a program sees of its context.
-/
namespace Sys2Proof.Machine

open Sys2Proof

/-- What an eviction saves of a context, with its mode and its boot mailbox. -/
def programOf (x : Ctx) : Ctx :=
  { freshCtx with
    pc := x.pc, regs := x.regs, loops := x.loops, k := x.k, lanes := x.lanes, gran := x.gran, drain := x.drain, bootMail := x.bootMail }

/-- From s to t every context's program stays, and every save area. -/
structure ProgramsStay (s t : State) : Prop where
  program : ∀ j, programOf (ctxAt t j) = programOf (ctxAt s j)
  saves : t.saves = s.saves

/-- From s to t nothing changes but what reads of memory change: the memories, the scratchpads, the executing banks stay too. -/
structure OnlyRead (s t : State) : Prop extends ProgramsStay s t where
  dev : t.dev = s.dev
  host : t.host = s.host
  nextSave : t.nextSave = s.nextSave
  bank : ∀ k, (coreAt t k).bank = (coreAt s k).bank
  scratch : ∀ k, (coreAt t k).scratch = (coreAt s k).scratch

theorem ProgramsStay.refl (s : State) : ProgramsStay s s := ⟨fun _ => rfl, rfl⟩

theorem ProgramsStay.trans {s t u : State} (h : ProgramsStay s t) (g : ProgramsStay t u) : ProgramsStay s u :=
  ⟨fun j => (g.program j).trans (h.program j), g.saves.trans h.saves⟩

theorem programsStay_of_tables {s t : State} (hctxs : t.ctxs = s.ctxs) (hsaves : t.saves = s.saves) : ProgramsStay s t :=
  ⟨fun j => by simp only [ctxAt, hctxs], hsaves⟩

theorem setCtx_programsStay {s : State} {c : Nat} {x : Ctx} (h : programOf x = programOf (ctxAt s c)) : ProgramsStay s (setCtx s c x) where
  program j := by
    by_cases hj : j = c
    · subst hj; simpa using h
    · rw [ctxAt_setCtx_other _ _ _ _ hj]
  saves := rfl

theorem modCtx_programsStay (s : State) (c : Nat) {f : Ctx → Ctx} (h : ∀ x, programOf (f x) = programOf x) : ProgramsStay s (modCtx s c f) :=
  setCtx_programsStay (h _)

theorem ProgramsStay.foldl {α : Type} {f : State → α → State} (hf : ∀ s a, ProgramsStay s (f s a)) (l : List α) (s : State) : ProgramsStay s (l.foldl f s) := by
  induction l generalizing s with
  | nil => exact .refl s
  | cons a r ih => exact (hf s a).trans (ih _)

theorem OnlyRead.refl (s : State) : OnlyRead s s := ⟨.refl s, rfl, rfl, rfl, fun _ => rfl, fun _ => rfl⟩

theorem OnlyRead.trans {s t u : State} (h : OnlyRead s t) (g : OnlyRead t u) : OnlyRead s u :=
  ⟨h.toProgramsStay.trans g.toProgramsStay, g.dev.trans h.dev, g.host.trans h.host, g.nextSave.trans h.nextSave, fun k => (g.bank k).trans (h.bank k),
    fun k => (g.scratch k).trans (h.scratch k)⟩

theorem OnlyRead.foldl {α : Type} {f : State → α → State} (hf : ∀ s a, OnlyRead s (f s a)) (l : List α) (s : State) : OnlyRead s (l.foldl f s) := by
  induction l generalizing s with
  | nil => exact .refl s
  | cons a r ih => exact (hf s a).trans (ih _)

/-- The tables that a read leaves alone, or changes in parts that are no program's. -/
def readTables (s : State) : Memory × Memory × SMap Saved × Nat × SMap Core × SMap Ctx := (s.dev, s.host, s.saves, s.nextSave, s.cores, s.ctxs)

theorem onlyRead_of_tables {s t : State} (h : readTables t = readTables s) : OnlyRead s t := by
  obtain ⟨hdev, hhost, hsaves, hnext, hcores, hctxs⟩ : t.dev = s.dev ∧ t.host = s.host ∧ t.saves = s.saves ∧ t.nextSave = s.nextSave ∧ t.cores = s.cores ∧
      t.ctxs = s.ctxs := by simpa [readTables] using h
  exact ⟨programsStay_of_tables hctxs hsaves, hdev, hhost, hnext, fun _ => by simp only [coreAt, hcores], fun _ => by simp only [coreAt, hcores]⟩

theorem setCtx_onlyRead {s : State} {c : Nat} {x : Ctx} (h : programOf x = programOf (ctxAt s c)) : OnlyRead s (setCtx s c x) :=
  ⟨setCtx_programsStay h, rfl, rfl, rfl, fun _ => rfl, fun _ => rfl⟩

theorem modCore_onlyRead {s : State} {n : Nat} {f : Core → Core} (hbank : (f (coreAt s n)).bank = (coreAt s n).bank)
    (hscratch : (f (coreAt s n)).scratch = (coreAt s n).scratch) : OnlyRead s (modCore s n f) where
  toProgramsStay := programsStay_of_tables rfl rfl
  dev := rfl
  host := rfl
  nextSave := rfl
  bank k := by
    by_cases h : k = n
    · subst h; simpa using hbank
    · rw [coreAt_modCore_other _ _ _ _ h]
  scratch k := by
    by_cases h : k = n
    · subst h; simpa using hscratch
    · rw [coreAt_modCore_other _ _ _ _ h]

/-- The mode is put back in which a context has read in another one. -/
theorem OnlyRead.with_drain {s t : State} {c : Nat} {d : Drain} (h : OnlyRead (setCtx s c { ctxAt s c with drain := d }) t) :
    OnlyRead s (modCtx t c fun z => { z with drain := (ctxAt s c).drain }) where
  program j := by
    have hj := h.program j
    by_cases e : j = c
    · subst e
      rw [ctxAt_setCtx] at hj
      rw [ctxAt_modCtx]
      exact congrArg (fun z : Ctx => { z with drain := (ctxAt s j).drain }) hj
    · rw [ctxAt_setCtx_other _ _ _ _ e] at hj
      rw [ctxAt_modCtx_other _ _ _ _ e, hj]
  saves := h.saves
  dev := h.dev
  host := h.host
  nextSave := h.nextSave
  bank := h.bank
  scratch := h.scratch

/-! ### Charges and regulation points -/

theorem OnlyCharged.onlyRead {s t : State} {c : Nat} (h : OnlyCharged s t c) : OnlyRead s t where
  program j := by
    by_cases hj : j = c
    · subst hj; exact (congrArg programOf h.own :)
    · rw [h.others j hj]
  saves := (congrArg State.saves h.rest :)
  dev := (congrArg State.dev h.rest :)
  host := (congrArg State.host h.rest :)
  nextSave := (congrArg State.nextSave h.rest :)
  bank k := (congrArg (fun q => (coreAt q k).bank) h.rest :)
  scratch k := (congrArg (fun q => (coreAt q k).scratch) h.rest :)

theorem chargeCtx_onlyRead (s : State) (c i n : Nat) : OnlyRead s (chargeCtx s c i n) := (chargeCtx_onlyCharged s c i n).onlyRead

theorem chargeVnpu_onlyRead (s : State) (v n : Nat) : OnlyRead s (chargeVnpu s v n) := by
  obtain ⟨_, _, hrest, _⟩ := chargeVnpu_frame s v n
  exact onlyRead_of_tables (congrArg readTables hrest :)

theorem budgetTrap_onlyRead (s : State) (v c : Nat) (engine : Bool) : OnlyRead s (budgetTrap s v c engine) := by
  have count : OnlyRead s (trapCount s v) := onlyRead_of_tables (by simp [readTables, trapCount])
  have notice : OnlyRead (trapCount s v) (trapNotice (trapCount s v) v c engine) := by
    unfold trapNotice
    split
    · split
      · exact modCore_onlyRead rfl rfl
      · exact setCtx_onlyRead rfl
    · exact .refl _
  exact (count.trans notice).trans (onlyRead_of_tables rfl)

theorem bucketArrive_onlyRead (s : State) (die point v : Nat) (who : Agent) (ctx charge : Nat) : OnlyRead s (bucketArrive s die point v who ctx charge).1 := by
  have level : ∀ b, OnlyRead s (setBucket s die point v b) := fun _ => onlyRead_of_tables rfl
  unfold bucketArrive
  dsimp only
  split
  · exact .refl s
  · split
    · exact level _
    · dsimp only
      split
      · exact (level _).trans (budgetTrap_onlyRead _ _ _ _)
      · exact level _

theorem takeGiven_onlyRead {s t : State} {g : Given} (h : takeGiven s g = some t) : OnlyRead s t := by
  unfold takeGiven at h
  split at h
  · cases h; exact onlyRead_of_tables rfl
  · cases h

theorem regulated_onlyRead (s : State) (die point v ctx charge : Nat) : OnlyRead s (regulated s die point v ctx charge) := by
  have arrive := bucketArrive_onlyRead s die point v s.run.agent ctx charge
  unfold regulated
  dsimp only
  split
  · exact .refl s
  · split
    next h => exact takeGiven_onlyRead h
    next =>
      split
      · exact onlyRead_of_tables rfl
      · split
        · exact arrive.trans (onlyRead_of_tables rfl)
        · exact arrive.trans (onlyRead_of_tables rfl)

theorem unheld_onlyRead (s : State) (die point v charge : Nat) : OnlyRead s (unheld s die point v charge) := by
  unfold unheld
  split
  · exact .refl s
  · split
    next h => exact takeGiven_onlyRead h
    next => exact (bucketArrive_onlyRead s die point v .nobody 300 charge).trans (onlyRead_of_tables rfl)

theorem stall_onlyRead (s : State) : OnlyRead s (stall s) := onlyRead_of_tables rfl

/-- A request that is noted as issued, where the step from s to t has made it. -/
theorem OnlyRead.issued {s t : State} (h : OnlyRead s t) (g : Given) : OnlyRead s (issued g s t) := by
  unfold Machine.issued
  split
  · exact h
  · exact h.trans (onlyRead_of_tables rfl)

theorem OnlyRead.issuedHeld {s t : State} (h : OnlyRead s t) (g : Given) : OnlyRead s (issuedHeld g s t) := by
  unfold Machine.issuedHeld
  split
  · exact h.issued g
  · exact h

/-! ### Slices -/

theorem writeback_onlyRead (s : State) (e : SliceLine) : OnlyRead s (writeback s e) := by
  unfold writeback
  split
  · exact (unheld_onlyRead _ _ _ _ _).trans (chargeVnpu_onlyRead _ _ _)
  · exact .refl s

theorem sliceTouch_onlyRead (s : State) (v x : Nat) (write : Bool) : OnlyRead s (sliceTouch s v x write).1 := by
  unfold sliceTouch
  dsimp only
  split
  · exact onlyRead_of_tables rfl
  · split
    · exact onlyRead_of_tables rfl
    · split
      · exact (writeback_onlyRead s _).trans (onlyRead_of_tables rfl)
      · exact .refl s

theorem crossDie_onlyRead (s : State) (die v ctx x charge : Nat) : OnlyRead s (crossDie s die v ctx x charge) := by
  unfold crossDie
  split
  · exact .refl s
  · exact regulated_onlyRead _ _ _ _ _ _

theorem sliceServe_onlyRead (s : State) (c v x charge : Nat) (write : Bool) : OnlyRead s (sliceServe s c v x charge write) := by
  have hit := ((crossDie_onlyRead s (dieOfCtx c) v c x charge).trans (sliceTouch_onlyRead _ v x write)).trans (chargeCtx_onlyRead _ c 11 1)
  unfold sliceServe
  dsimp only
  split
  · exact hit.trans ((regulated_onlyRead _ _ _ _ _ _).trans (chargeCtx_onlyRead _ c 12 1))
  · exact hit

theorem serveAlone_onlyRead (s : State) (die v x charge : Nat) (write : Bool) : OnlyRead s (serveAlone s die v x charge write) := by
  have charged : ∀ t : State, OnlyRead t (chargeVnpu t v (weight t 11)) := fun t => chargeVnpu_onlyRead t v _
  have hit := ((crossDie_onlyRead s die v 300 x charge).trans (sliceTouch_onlyRead _ v x write)).trans (charged _)
  unfold serveAlone
  dsimp only
  split
  · exact hit.trans ((regulated_onlyRead _ _ _ _ _ _).trans (chargeVnpu_onlyRead _ _ _))
  · exact hit

theorem serveFor_onlyRead (c v line charge : Nat) (write : Bool) (s : State) : OnlyRead s (serveFor c v line charge write s) := by
  unfold serveFor
  split
  · exact serveAlone_onlyRead _ _ _ _ _ _
  · exact sliceServe_onlyRead _ _ _ _ _ _

theorem serveDevice_onlyRead (s : State) (v x : Nat) : OnlyRead s (serveDevice s v x) := by
  have charged : ∀ t i, OnlyRead t (chargeOverhead t i 1) := fun _ _ => onlyRead_of_tables rfl
  have hit := (sliceTouch_onlyRead s v x false).trans (charged _ 11)
  unfold serveDevice
  dsimp only
  split
  · exact hit.trans (charged _ 12)
  · exact hit

/-! ### Translation (R220) -/

theorem chargeWho_onlyRead (s : State) (c v i n : Nat) : OnlyRead s (chargeWho s c v i n) := by
  unfold chargeWho
  split
  · exact chargeCtx_onlyRead _ _ _ _
  · exact chargeVnpu_onlyRead _ _ _

theorem walkRead_onlyRead (k c v : Nat) (s : State) (a : Nat) : OnlyRead s (walkRead k c v s a) := by
  have hit := ((((regulated_onlyRead s (k / 6) (56 + k % 6) v c 64).issuedHeld (.read v c 0 0 a 64 false [])).trans
    (crossDie_onlyRead _ (k / 6) v c (lineOf a) 64)).trans (sliceTouch_onlyRead _ v (lineOf a) false)).trans (chargeWho_onlyRead _ c v 11 1)
  unfold walkRead
  dsimp only
  split
  · exact hit.trans ((regulated_onlyRead _ _ _ _ _ _).trans (chargeWho_onlyRead _ _ _ _ _))
  · exact hit

theorem walkReads_onlyRead (s : State) (k c v va : Nat) : OnlyRead s (walkReads s k c v va) := .foldl (walkRead_onlyRead k c v) _ _

theorem translateL2_onlyRead (s : State) (k c v : Nat) (va : Word) : OnlyRead s (translateL2 s k c v va).1 := by
  unfold translateL2
  dsimp only
  split
  · exact .refl s
  · split
    · exact onlyRead_of_tables rfl
    · split
      · exact (walkReads_onlyRead s k c v va.toNat).trans (onlyRead_of_tables rfl)
      · exact .refl s

theorem translate_onlyRead (s : State) (core c v : Nat) (va : Word) : OnlyRead s (translate s core c v va).1 := by
  unfold translate
  dsimp only
  split
  · exact .refl s
  · split
    · split <;> exact .refl s
    · split
      · dsimp only
        exact modCore_onlyRead rfl rfl
      · have walk := translateL2_onlyRead s (clusterOf core) c v va
        split
        next h =>
          rw [h] at walk
          dsimp only at walk ⊢
          exact walk.trans (modCore_onlyRead rfl rfl)
        next => exact walk

theorem reach_onlyRead (s : State) (c : Nat) (k : Chk) (va : Word) : OnlyRead s (reach s c k va).1 := by
  unfold reach
  split
  · exact .refl s
  · split
    · exact translateL2_onlyRead _ _ _ _ _
    · exact translate_onlyRead _ _ _ _ _

/-! ### Reads of a line -/

theorem askRemote_onlyRead (s : State) (m : RemoteMsg) : OnlyRead s (askRemote s m).1 := by
  unfold askRemote
  dsimp only
  split
  · exact onlyRead_of_tables rfl
  · split
    · exact .refl s
    · split
      · exact stall_onlyRead s
      · split
        · exact .refl s
        · exact onlyRead_of_tables rfl

theorem remoteGot_onlyRead (s : State) (m : RemoteMsg) : OnlyRead s (remoteGot s m).1 := by
  have asked := askRemote_onlyRead s m
  unfold remoteGot
  split <;> (rename_i h; rw [h] at asked; exact asked)

theorem readAt_onlyRead (s : State) (v mt home pa n : Nat) {serve : State → State} (hserve : ∀ t, OnlyRead t (serve t)) :
    OnlyRead s (readAt s v mt home pa n serve).1 := by
  unfold readAt
  split
  · split
    · exact .refl s
    · exact hserve s
  · split
    · split
      · exact .refl s
      · exact onlyRead_of_tables rfl
    · exact remoteGot_onlyRead _ _

/-- Where reads of the loader leave off: what they have come to, or the state in which they stop. -/
def readTo : EngRes (State × List Byte) → State
  | .ok p => p.1
  | .error e => e.1

theorem alsoStuck_onlyRead (s t : State) : OnlyRead t (alsoStuck s t) := by
  unfold alsoStuck
  split
  · exact stall_onlyRead t
  · exact .refl t

theorem engGot_onlyRead {s : State} {va : Word} {write : Bool} {r : State × Got} (h : OnlyRead s r.1) : OnlyRead s (readTo (engGot s va write r)) := by
  unfold engGot
  split
  · exact h.trans (alsoStuck_onlyRead _ _)
  · exact .refl s
  · exact .refl s

theorem loadIn_onlyRead (charged : Bool) (c n : Nat) (va : Word) (s : State) : OnlyRead s (readTo (loadIn charged c n va s)) := by
  have reached := reach_onlyRead s c { read := true } va
  unfold loadIn
  dsimp only
  split
  · exact .refl s
  · exact .refl s
  · rename_i s1 mt home pa _ _ h
    rw [h] at reached
    have waited : OnlyRead s (if pageMoving s1 mt pa then stall s1 else s1) := by
      split
      · exact reached.trans (stall_onlyRead s1)
      · exact reached
    have paid : ∀ t, OnlyRead s t → OnlyRead s (if charged then issued (.read (ctxAt s c).v c mt home pa n false []) t
        (regulated t (dieOfCtx c) (coreOf c % 48) (ctxAt s c).v c (initCharge n false)) else t) := by
      intro t ht
      split
      · exact ht.trans ((regulated_onlyRead _ _ _ _ _ _).issued _)
      · exact ht
    refine engGot_onlyRead ((paid _ waited).trans (readAt_onlyRead _ _ _ _ _ _ fun t => ?_))
    split
    · exact sliceServe_onlyRead _ _ _ _ _ _
    · exact serveDevice_onlyRead _ _ _

theorem loadBytes_onlyRead (charged : Bool) (c fuel n : Nat) (va : Word) (s : State) : OnlyRead s (readTo (loadBytes charged c fuel n va s)) := by
  induction fuel generalizing n va s with
  | zero => exact .refl s
  | succ fuel ih =>
    unfold loadBytes
    split
    · exact .refl s
    · have piece := loadIn_onlyRead charged c (min n (toLineEnd va)) va s
      dsimp only
      split
      next h => rw [h] at piece; exact piece
      next s1 b h =>
        rw [h] at piece
        have rest := ih (n - min n (toLineEnd va)) (va + BitVec.ofNat 64 (min n (toLineEnd va))) s1
        split
        next h2 => rw [h2] at rest; exact piece.trans rest
        next h2 => rw [h2] at rest; exact piece.trans rest

theorem loadN_onlyRead (charged : Bool) (c n : Nat) (va : Word) (s : State) : OnlyRead s (readTo (loadN charged c n va s)) := loadBytes_onlyRead _ _ _ _ _ _

/-! ### Fills and pins (R383 to R386) -/

theorem reachText_onlyRead (s : State) (c : Nat) (va : Word) : OnlyRead s (reachText s c va).1 := by
  unfold reachText
  split
  · exact .refl s
  · exact reach_onlyRead _ _ _ _

theorem fetchGot_state (va : Word) (r : State × Got) : (fetchGot va r).1 = r.1 := by
  unfold fetchGot
  split <;> rfl

theorem readLine_onlyRead (s : State) (c : Nat) (base : Word) : OnlyRead s (readLine s c base).1 := by
  have reached := reachText_onlyRead s c base
  unfold readLine
  dsimp only
  split
  · exact .refl s
  · split
    · exact .refl s
    · split
      next h => rw [h] at reached; exact reached
      next h => rw [h] at reached; exact reached
      next s1 mt home pa _ _ h =>
        rw [h] at reached
        split
        · exact reached.trans (stall_onlyRead s1)
        · have paid : OnlyRead s1 (if isFw c then s1 else issuedHeld (.read (ctxAt s c).v c mt home (pa / 64 * 64) 64 false []) s1
              (regulated s1 (dieOfCtx c) (initPoint c) (ctxAt s c).v c 64)) := by
            split
            · exact .refl s1
            · exact (regulated_onlyRead _ _ _ _ _ _).issuedHeld _
          rw [fetchGot_state]
          exact (reached.trans paid).trans (readAt_onlyRead _ _ _ _ _ _ (serveFor_onlyRead _ _ _ _ _))

theorem fillCaches_onlyRead (s : State) (core : Nat) (lane : Bool) (f : Core → List CacheLine) : OnlyRead s (modCore s core fun k => setCache k lane (f k)) := by
  cases lane <;> exact modCore_onlyRead rfl rfl

theorem fetchLine_onlyRead (s : State) (c : Nat) (lane : Bool) (va : Word) : OnlyRead s (fetchLine s c lane va).1 := by
  have reached := reachText_onlyRead s c (BitVec.ofNat 64 (va.toNat / 64 * 64))
  have filled := readLine_onlyRead s c (BitVec.ofNat 64 (va.toNat / 64 * 64))
  unfold fetchLine
  dsimp only
  split
  · exact filled
  · split
    · split
      next h => rw [h] at reached; exact reached
      next h => rw [h] at reached; exact reached
      next h => rw [h] at reached; exact reached
    · split
      next h =>
        rw [h] at filled
        dsimp only at filled ⊢
        exact filled.trans (fillCaches_onlyRead _ _ _ _)
      next => exact filled

theorem setSkip_onlyRead (s : State) (c : Nat) : OnlyRead s (setSkip s c) := setCtx_onlyRead rfl
theorem setPinov_onlyRead (s : State) (c : Nat) : OnlyRead s (setPinov s c) := setCtx_onlyRead rfl

theorem residentL0_onlyRead (op : ResOp) (s : State) (c : Nat) (lane : Bool) (line : Nat) : OnlyRead s (residentL0 op s c lane line) := by
  have reached := reachText_onlyRead s c (BitVec.ofNat 64 line)
  have fetched := fetchLine_onlyRead s c lane (BitVec.ofNat 64 line)
  unfold residentL0
  dsimp only
  split
  · split
    next h => rw [h] at reached; exact reached.trans (fillCaches_onlyRead _ _ _ _)
    next h => rw [h] at reached; exact reached.trans (setSkip_onlyRead _ _)
  · split
    next h =>
      rw [h] at fetched
      split
      · split
        · exact fetched.trans (fillCaches_onlyRead _ _ _ _)
        · split
          · exact fetched.trans (setPinov_onlyRead _ _)
          · exact fetched.trans (fillCaches_onlyRead _ _ _ _)
      · exact fetched
    next h => rw [h] at fetched; exact fetched.trans (setSkip_onlyRead _ _)

theorem fillCharge_onlyRead (s : State) (c : Nat) : OnlyRead s (fillCharge s c) := by
  unfold fillCharge
  split
  · exact .refl s
  · exact regulated_onlyRead _ _ _ _ _ _

theorem fillRemote_onlyRead (s : State) (v home pa : Nat) : OnlyRead s (fillRemote s v home pa) := by
  unfold fillRemote
  dsimp only
  split
  · exact .refl s
  · exact onlyRead_of_tables rfl

theorem residentL1_onlyRead (op : ResOp) (s : State) (c : Nat) (va : Word) : OnlyRead s (residentL1 op s c va) := by
  have reached := reach_onlyRead s c { exec := true, plain := false } va
  unfold residentL1
  split
  · exact setSkip_onlyRead s c
  · split
    next s1 _ pa _ _ h =>
      rw [h] at reached
      dsimp only
      split
      · exact reached.trans (onlyRead_of_tables rfl)
      · split
        · exact reached.trans (stall_onlyRead s1)
        · split
          · exact reached.trans (setSkip_onlyRead _ _)
          · have served := (reached.trans (fillCharge_onlyRead s1 c)).trans (sliceServe_onlyRead _ c (ctxAt s1 c).v (lineOf pa) 64 false)
            split
            · split
              · split
                · exact served.trans (setPinov_onlyRead _ _)
                · exact served.trans (onlyRead_of_tables rfl)
              · exact served.trans (setPinov_onlyRead _ _)
            · exact served
    next s1 home pa _ _ h =>
      rw [h] at reached
      have filled := (reached.trans (fillCharge_onlyRead s1 c)).trans (fillRemote_onlyRead _ (ctxAt s1 c).v home pa)
      split
      · exact reached
      · exact filled
      · exact filled.trans (setPinov_onlyRead _ _)
    next h => rw [h] at reached; exact reached.trans (setSkip_onlyRead _ _)

theorem applyPin_onlyRead (c : Nat) (s : State) (e : List Byte) : OnlyRead s (applyPin c s e) := by
  unfold applyPin
  dsimp only
  refine .foldl (fun t line => ?_) _ _
  split
  · exact residentL1_onlyRead _ _ _ _
  · exact residentL0_onlyRead _ _ _ _ _

/-- The pin list of a context is read, and applied as far as it could be read. -/
theorem applyPins_onlyRead {charged : Bool} {s : State} {c : Nat} :
    (∀ t, applyPins charged s c = .ok t → OnlyRead s t) ∧ ∀ e, applyPins charged s c = .error e → OnlyRead s e.1 := by
  have list := loadN_onlyRead charged c (16 * (ctxAt s c).hdr.npin) ((ctxAt s c).image + BitVec.ofNat 64 (ctxAt s c).hdr.pins) s
  unfold applyPins
  dsimp only
  split
  next h => rw [h] at list; exact ⟨fun _ => nofun, fun e he => by cases he; exact list⟩
  next h => rw [h] at list; exact ⟨fun t ht => by cases ht; exact list.trans (.foldl (applyPin_onlyRead c) _ _), fun _ => nofun⟩

end Sys2Proof.Machine
end

section
/-!
Eviction and restore: what a save area holds of a team, and what a team has of its save area (R141, R142, R145, R195, R279).
-/
namespace Sys2Proof.Machine

open Sys2Proof

/-! ### The drain stub that a team has -/

/-- R141 step 2: looking for the stub leaves what reads leave. -/
theorem stubOf_onlyRead {s s1 : State} {c : Nat} {o : Option Nat} (hdrain : (ctxAt s c).drain = .off) (h : stubOf s c = (s1, o))
    (hgoes : s1.run.stuck = false) : OnlyRead s s1 := by
  have table := loadN_onlyRead false c (16 * (ctxAt s c).hdr.ndr) ((ctxAt s c).image + BitVec.ofNat 64 (ctxAt s c).hdr.drtab)
    (setCtx s c { ctxAt s c with drain := .save 0 })
  unfold stubOf at h
  dsimp only at h
  split at h
  · cases h; exact .refl s
  · split at h
    next r b hr =>
      rw [hr] at table
      obtain ⟨rfl, -⟩ := Prod.mk.inj h
      have := table.with_drain
      rwa [hdrain] at this
    next e _ _ =>
      obtain ⟨rfl, -⟩ := Prod.mk.inj h
      cases hs : e.run.stuck
      · simpa [hs] using OnlyRead.refl s
      · simp [hs] at hgoes

/-! ### Leaving a bank -/

@[simp] theorem settleBank_saves (s : State) (core : Nat) : (settleBank s core).saves = s.saves := by
  unfold settleBank
  dsimp only
  split <;> rfl

@[simp] theorem settleBank_nextSave (s : State) (core : Nat) : (settleBank s core).nextSave = s.nextSave := by
  unfold settleBank
  dsimp only
  split <;> rfl

/-- R204: as the core leaves a bank no more is marked there than a fault that waits for its answer. -/
theorem ctxAt_settleBank (s : State) (core c : Nat) :
    ctxAt (settleBank s core) c = ctxAt s c ∨
      ∃ r, ctxAt (settleBank s core) c = { ctxAt s c with fault := leftFault r (ctxAt s c).fault, laneFault := leftFault r (ctxAt s c).laneFault } := by
  unfold settleBank
  dsimp only
  split
  · by_cases h : c = 2 * core + (coreAt s core).bank
    · exact .inr ⟨(ctxAt s c).phase == .running, by subst h; simp⟩
    · exact .inl (by rw [ctxAt_modCore, ctxAt_setCtx_other _ _ _ _ h])
  · exact .inl rfl

@[simp] theorem askDecision_ctxs (s : State) (core : Nat) : (askDecision s core).ctxs = s.ctxs := by
  unfold askDecision
  split <;> rfl

theorem ctxAt_askDecision (s : State) (core j : Nat) : ctxAt (askDecision s core) j = ctxAt s j := by simp only [ctxAt, askDecision_ctxs]

@[simp] theorem askDecision_saves (s : State) (core : Nat) : (askDecision s core).saves = s.saves := by
  unfold askDecision
  split <;> rfl

@[simp] theorem askDecision_nextSave (s : State) (core : Nat) : (askDecision s core).nextSave = s.nextSave := by
  unfold askDecision
  split <;> rfl

@[simp] theorem dropImage_ctxs (s : State) (core : Nat) (image : Word) (v : Nat) : (dropImage s core image v).ctxs = s.ctxs := by
  unfold dropImage
  dsimp only
  split <;> rfl

@[simp] theorem dropImage_saves (s : State) (core : Nat) (image : Word) (v : Nat) : (dropImage s core image v).saves = s.saves := by
  unfold dropImage
  dsimp only
  split <;> rfl

@[simp] theorem dropImage_nextSave (s : State) (core : Nat) (image : Word) (v : Nat) : (dropImage s core image v).nextSave = s.nextSave := by
  unfold dropImage
  dsimp only
  split <;> rfl

theorem handOver_saveTables (s : State) (c : Nat) : (handOver s c).saves = s.saves ∧ (handOver s c).nextSave = s.nextSave := by
  unfold handOver
  refine List.foldlRecOn (motive := fun t : State => t.saves = s.saves ∧ t.nextSave = s.nextSave) _ _ ⟨rfl, rfl⟩ fun t ht p _ => ?_
  dsimp only
  split
  · exact ht
  · split <;> exact ht

@[simp] theorem freeBank_saves (s : State) (c : Nat) : (freeBank s c).saves = s.saves :=
  (dropImage_saves _ _ _ _).trans (handOver_saveTables s c).1

@[simp] theorem freeBank_nextSave (s : State) (c : Nat) : (freeBank s c).nextSave = s.nextSave :=
  (dropImage_nextSave _ _ _ _).trans (handOver_saveTables s c).2

/-- R121: of a freed bank's context the boot mailbox alone is left. -/
theorem ctxAt_freeBank (s : State) (c : Nat) : ctxAt (freeBank s c) c = { freshCtx with bootMail := (ctxAt s c).bootMail } := by
  unfold freeBank
  dsimp only
  unfold ctxAt
  rw [dropImage_ctxs]
  exact ctxAt_setCtx _ c _

/-- R141 step 6: the bank that a team has left is free, and a save area of the next number holds what step 1 took. -/
theorem leaveBank_leaves (s : State) (c : Nat) (stub : Bool) :
    ctxAt (leaveBank s c stub) c = { freshCtx with bootMail := (ctxAt s c).bootMail } ∧ (leaveBank s c stub).nextSave = s.nextSave + 1 ∧
      ∃ v, mfind (leaveBank s c stub).saves s.nextSave = some v ∧ v.ctx = keptCtx s c stub ∧ v.bytes = allotmentBytes s c ∧ v.stub = stub := by
  unfold leaveBank
  dsimp only
  rw [askDecision_saves, settleBank_saves, freeBank_saves]
  refine ⟨?_, by simp, _, mfind_mput_same _ _ _, rfl, rfl, rfl⟩
  rw [ctxAt_askDecision]
  have kept : ∀ t : State, t.ctxs = s.ctxs → ctxAt (settleBank (freeBank t c) (coreOf c)) c = { freshCtx with bootMail := (ctxAt s c).bootMail } := by
    intro t ht
    have hmail : (ctxAt t c).bootMail = (ctxAt s c).bootMail := by simp only [ctxAt, ht]
    rcases ctxAt_settleBank (freeBank t c) (coreOf c) c with h | ⟨_, h⟩
    · rw [h, ctxAt_freeBank, hmail]
    · rw [h, ctxAt_freeBank, hmail]
      rfl
  exact kept _ (by split <;> rfl)

/-! ### Restore -/

/-- R279: from s to t the save areas of evicted teams stay, but for the accumulator sets in them. -/
def SavesKept (s t : State) : Prop :=
  msorted 0 s.saves = true → msorted 0 t.saves = true ∧
    ∀ n sv, mfind s.saves n = some sv → ∃ sv', mfind t.saves n = some sv' ∧ sv'.ctx = sv.ctx ∧ sv'.stub = sv.stub

theorem SavesKept.trans {s t u : State} (h : SavesKept s t) (g : SavesKept t u) : SavesKept s u := by
  intro hs
  obtain ⟨ht, hfound⟩ := h hs
  obtain ⟨hu, gfound⟩ := g ht
  refine ⟨hu, fun n sv hn => ?_⟩
  obtain ⟨sv', hn', hctx, hstub⟩ := hfound n sv hn
  obtain ⟨sv'', hn'', gctx, gstub⟩ := gfound n sv' hn'
  exact ⟨sv'', hn'', gctx.trans hctx, gstub.trans hstub⟩

theorem savesKept_of_saves {s t : State} (h : t.saves = s.saves) : SavesKept s t :=
  fun hs => ⟨h ▸ hs, fun _ sv hn => ⟨sv, h ▸ hn, rfl, rfl⟩⟩

theorem SavesKept.foldl {α : Type} {f : State → α → State} (hf : ∀ s a, SavesKept s (f s a)) (l : List α) (s : State) : SavesKept s (l.foldl f s) := by
  induction l generalizing s with
  | nil => exact savesKept_of_saves rfl
  | cons a r ih => exact (hf s a).trans (ih _)

theorem msorted_above {α : Type} {m : SMap α} {lo : Nat} {e : Nat × α} (hm : msorted lo m = true) (he : e ∈ m) : lo ≤ e.1 := by
  induction m generalizing lo with
  | nil => simp at he
  | cons f r ih =>
    simp only [msorted, Bool.and_eq_true, decide_eq_true_eq] at hm
    rcases List.mem_cons.mp he with rfl | he
    · exact hm.1
    · have := ih hm.2 he
      omega

/-- A sorted table reads each of its entries. -/
theorem mfind_of_mem {α : Type} {m : SMap α} {lo : Nat} {e : Nat × α} (hm : msorted lo m = true) (he : e ∈ m) : mfind m e.1 = some e.2 := by
  induction m generalizing lo with
  | nil => simp at he
  | cons f r ih =>
    simp only [msorted, Bool.and_eq_true, decide_eq_true_eq] at hm
    rcases List.mem_cons.mp he with rfl | he
    · simp [mfind]
    · have := msorted_above hm.2 he
      have hne : ¬ f.1 = e.1 := by omega
      have hnlt : ¬ e.1 < f.1 := by omega
      simp [mfind, hne, hnlt, ih hm.2 he]

/-- One save area changes, in neither its context nor its stub's mark. -/
theorem savesKept_of_mput {s t : State} {n : Nat} {sv w : Saved} (ht : t.saves = mput s.saves n w) (hmem : (n, sv) ∈ s.saves) (hctx : w.ctx = sv.ctx)
    (hstub : w.stub = sv.stub) : SavesKept s t := by
  intro hs
  refine ⟨ht ▸ msorted_mput _ _ _ _ (Nat.zero_le n) hs, fun k old hk => ?_⟩
  rw [ht]
  by_cases e : k = n
  · subst e
    rw [mfind_of_mem hs hmem] at hk
    cases hk
    exact ⟨w, mfind_mput_same _ _ _, hctx, hstub⟩
  · exact ⟨old, by rw [mfind_mput_other _ _ _ _ e, hk], rfl, rfl⟩

theorem modSet_savesKept (s : State) (core p : Nat) (f : AccSet → AccSet) : SavesKept s (modSet s core p f) := savesKept_of_saves rfl

theorem spillSet_savesKept (s : State) (core p : Nat) : SavesKept s (spillSet s core p) := by
  unfold spillSet
  dsimp only
  split
  · refine SavesKept.trans ?_ (modSet_savesKept _ _ _ _)
    split
    next h =>
      split at h
      · cases h
      · exact savesKept_of_mput rfl (List.mem_of_find?_eq_some h) rfl rfl
    next => exact savesKept_of_saves rfl
  · exact savesKept_of_saves rfl

theorem spillElsewhere_savesKept (s : State) (core : Nat) (keep : List Nat) (x : Ctx) : SavesKept s (spillElsewhere s core keep x) := by
  unfold spillElsewhere
  refine .foldl (fun t e => .foldl (fun u a => ?_) _ _) _ _
  split
  · split
    · exact spillSet_savesKept _ _ _
    · exact savesKept_of_saves rfl
  · exact savesKept_of_saves rfl

theorem reloadSets_savesKept (s : State) (n c : Nat) (accs : List Nat) : SavesKept s (reloadSets s n c accs) := by
  unfold reloadSets
  split
  · exact savesKept_of_saves rfl
  · refine .foldl (fun t e => ?_) _ _
    dsimp only
    refine iteInduction (fun _ => modSet_savesKept _ _ _ _) fun _ => ?_
    split
    next a _ =>
      have cleared : SavesKept t (if (setAt t (coreOf c) e.1).owner.isSome then spillSet t (coreOf c) e.1 else t) := by
        split
        · exact spillSet_savesKept _ _ _
        · exact savesKept_of_saves rfl
      exact cleared.trans (savesKept_of_saves rfl)
    next => exact savesKept_of_saves rfl

/-! ### A team that enters its bank -/

theorem settleBank_programsStay (s : State) (core : Nat) : ProgramsStay s (settleBank s core) where
  program j := by
    rcases ctxAt_settleBank s core j with h | ⟨_, h⟩
    · rw [h]
    · rw [h]
      rfl
  saves := settleBank_saves s core

theorem addTeam_programsStay (s : State) (c : Nat) : ProgramsStay s (addTeam s c) := programsStay_of_tables rfl rfl

theorem resumeTeam_programsStay (s : State) (c : Nat) : ProgramsStay s (resumeTeam s c) := by
  unfold resumeTeam
  dsimp only
  split
  · exact ((setCtx_programsStay (by rfl)).trans (addTeam_programsStay _ _)).trans (settleBank_programsStay _ _)
  · exact .refl s

theorem resumeWithMates_programsStay (s : State) (c : Nat) : ProgramsStay s (resumeWithMates s c) := by
  unfold resumeWithMates
  dsimp only
  split
  · exact .foldl resumeTeam_programsStay _ _
  · exact resumeTeam_programsStay s c

theorem stopTeam_programsStay (s : State) (c : Nat) : ProgramsStay s (stopTeam s c) := by
  unfold stopTeam
  dsimp only
  split
  · exact setCtx_programsStay rfl
  · exact .refl s

theorem stopMates_programsStay (s : State) (l : Nat) : ProgramsStay s (stopMates s l) :=
  .foldl (fun t d => (stopTeam_programsStay t d).trans (settleBank_programsStay _ _)) _ _

/-- R139, R140: whether a team that enters runs or stops, its program and its mates' stay. -/
theorem enterTeam_programsStay (s : State) (c : Nat) : ProgramsStay s (enterTeam s c) := by
  have placed : ProgramsStay s (addTeam (setCtx s c { ctxAt s c with phase := .stopped }) c) :=
    (setCtx_programsStay (by rfl)).trans (addTeam_programsStay _ _)
  have resumed := placed.trans (resumeWithMates_programsStay _ c)
  unfold enterTeam
  dsimp only
  refine ProgramsStay.trans ?_ (modCtx_programsStay _ c fun _ => rfl)
  split
  · exact resumed.trans (stopMates_programsStay _ _)
  · exact resumed

/-! ### What the restored context comes to -/

theorem modCore_programsStay (s : State) (n : Nat) (f : Core → Core) : ProgramsStay s (modCore s n f) := programsStay_of_tables rfl rfl

theorem chargeOverhead_programsStay (s : State) (i n : Nat) : ProgramsStay s (chargeOverhead s i n) := programsStay_of_tables rfl rfl

theorem putScratch_saves (l : List Byte) (s : State) (c a : Nat) : (putScratch s c a l).saves = s.saves := by
  induction l generalizing s a with
  | nil => rfl
  | cons _ r ih => exact ih _ _

theorem putAll_programsStay (s : State) (c : Nat) (m : Memory) : ProgramsStay s (execRestore.putAll s c m) :=
  .foldl (fun _ _ => programsStay_of_tables (putScratch_ctxs _ _ _ _) (putScratch_saves _ _ _ _)) _ _

/-- R145, R161: the pins of a restored team are the device's own work. -/
theorem repin_programsStay (s : State) (c : Nat) : ProgramsStay s (execRestore.repin s c) := by
  unfold execRestore.repin
  dsimp only
  split
  next h => exact (applyPins_onlyRead.1 _ h).with_drain.toProgramsStay
  next h =>
    split
    · exact (applyPins_onlyRead.2 _ h).with_drain.toProgramsStay
    · exact .refl s

/-! ### The obligation -/

/-- The context of a team whose stub starts at `off` (R141): its loop stack is empty, and nothing waits. -/
def stubCtx (x : Ctx) (off : Nat) : Ctx :=
  { x with phase := .running, drain := .save 0, pc := ctlBase x + BitVec.ofNat 64 off, loops := [], wait := .none, leftWait := .none, swpLatch := none }

section eviction
variable {s s1 : State} {c : Nat} (hflag : s.run.arg.flag = false) (hphase : (ctxAt s c).phase = .stopped) (hevict : (ctxAt s c).evict = true)
  (hdrain : (ctxAt s c).drain = .off) (hready : evictReady s c = true) (hgoes : s1.run.stuck = false)
include hflag hphase hevict hdrain hready hgoes

theorem exec_eviction_of_stub {off : Nat} (hstub : stubOf s c = (s1, some off)) :
    exec (.eviction c) s = .next (toStub { setCtx s1 c (stubCtx (ctxAt s c) off) with stubs := mput s1.stubs c (savedCtx (ctxAt s c)) } c) := by
  show execEviction c s = _
  simp [execEviction, hflag, hphase, hevict, hdrain, hready, hstub, hgoes, stubCtx]

theorem exec_eviction_without_stub (hstub : stubOf s c = (s1, none)) : exec (.eviction c) s = .next (leaveBank s1 c false) := by
  show execEviction c s = _
  simp [execEviction, hflag, hphase, hevict, hdrain, hready, hstub, hgoes]

end eviction

/-- A program's save without a stub is what it was when its team stopped. -/
theorem keptCtx_program {s s1 : State} {c : Nat} (h : OnlyRead s s1) :
    let y := keptCtx s1 c false
    y.pc = (ctxAt s c).pc ∧ y.regs = (ctxAt s c).regs ∧ y.loops = (ctxAt s c).loops ∧ y.k = (ctxAt s c).k ∧ y.lanes.regs = (ctxAt s c).lanes.regs ∧
      y.lanes.masks = (ctxAt s c).lanes.masks :=
  have hc := h.program c
  ⟨(congrArg Ctx.pc hc :), (congrArg Ctx.regs hc :), (congrArg Ctx.loops hc :), (congrArg Ctx.k hc :), (congrArg (·.lanes.regs) hc :), (congrArg (·.lanes.masks) hc :)⟩

theorem OnlyRead.allotmentBytes {s t : State} (h : OnlyRead s t) (c : Nat) : allotmentBytes t c = allotmentBytes s c := by
  have hgran : (ctxAt t c).gran = (ctxAt s c).gran := (congrArg Ctx.gran (h.program c) :)
  unfold Machine.allotmentBytes
  dsimp only
  rw [hgran, h.scratch]

/-- R145: what a team that comes back without a stub has from its save area; its granules and its mailbox are those of its new bank. -/
theorem restoredCtx_program (s : State) {sv : Saved} (y : Ctx) (h : sv.stub = false) :
    programOf (restoredCtx s sv y) = programOf { sv.ctx with gran := y.gran, bootMail := y.bootMail, drain := .off } := by
  simp [restoredCtx, h, programOf]

/-- R145, R279: the restore spills and reloads accumulator sets, copies the allotment back and pins again; the team's program comes from its save area, which is gone. -/
theorem exec_restore_without_stub {s : State} {n c : Nat} {sv : Saved} (hflag : s.run.arg.flag = false) (hn : mfind s.saves n = some sv)
    (hsorted : msorted 0 s.saves = true) (hphase : (ctxAt s c).phase = .loading) (hplacing : sv.placing = true) (hlaunch : (ctxAt s c).launch = sv.ctx.launch)
    (hteam : (ctxAt s c).team = sv.ctx.team) (hstub : sv.stub = false) :
    ∃ t, exec (.restore n c) s = .next t ∧ mfind t.saves n = none ∧
      programOf (ctxAt t c) = programOf { sv.ctx with gran := (ctxAt s c).gran, bootMail := (ctxAt s c).bootMail, drain := .off } := by
  obtain ⟨hsorted2, found⟩ := ((spillElsewhere_savesKept s (coreOf c) (ctxAt s c).accs sv.ctx).trans (reloadSets_savesKept _ n c (ctxAt s c).accs)) hsorted
  obtain ⟨sv', hn', hctx, hstub'⟩ := found n sv hn
  rw [hstub] at hstub'
  rw [← hctx]
  show ∃ t, execRestore n c s = .next t ∧ _
  unfold execRestore
  dsimp only
  simp only [hflag, hn, hphase, hplacing, hlaunch, hteam, hstub, hn', hstub', Bool.false_eq_true, if_false, ne_eq, not_true_eq_false, Bool.not_true, or_self, false_and]
  generalize reloadSets _ n c _ = s2 at *
  generalize hs3 : dropImage _ _ _ _ = s3
  have hgone : mfind s3.saves n = none := by
    rw [← hs3, dropImage_saves]
    exact mfind_mdel_same _ 0 n hsorted2
  have restored : ∀ t, ProgramsStay (setCtx s3 c (restoredCtx s3 sv' (ctxAt s c))) t → mfind t.saves n = none ∧
      programOf (ctxAt t c) = programOf { sv'.ctx with gran := (ctxAt s c).gran, bootMail := (ctxAt s c).bootMail, drain := .off } := by
    intro t stay
    rw [stay.saves, stay.program, ctxAt_setCtx]
    exact ⟨hgone, restoredCtx_program s3 (ctxAt s c) hstub'⟩
  refine ⟨_, rfl, restored _ ?_⟩
  have copied := ((modCore_programsStay _ _ _).trans (putAll_programsStay (execRestore.zeroGranules (setCtx s3 c (restoredCtx s3 sv' (ctxAt s c))) c) c sv'.bytes)).trans
    (chargeOverhead_programsStay _ 10 (64 * (ctxAt s c).gran.length))
  exact (((copied.trans (modCore_programsStay _ _ _)).trans (modCore_programsStay _ _ _)).trans (repin_programsStay _ c)).trans (enterTeam_programsStay _ c)

/-- Settles O14: what looking for the stub and the machine's own reads leave alone (`stubOf_onlyRead`, `repin_programsStay`), what an emptied bank and its save area hold
(`leaveBank_leaves`), and that the sets spilled for a restore leave the save area its team (`spillElsewhere_savesKept`, `reloadSets_savesKept`). -/
theorem evictionSavesAndRestoreGivesBack : Obligations.EvictionSavesAndRestoreGivesBack := by
  unfold Obligations.EvictionSavesAndRestoreGivesBack
  intro s s1 c n off sv
  dsimp only
  intro hflag
  refine ⟨fun hphase hevict hdrain hready hstub hgoes => ?stub, fun hphase hevict hdrain hready hstub hgoes => ?noStub,
    fun hn hsorted hphase hplacing hlaunch hteam hstub => ?restore⟩
  case stub =>
    have reads := stubOf_onlyRead hdrain hstub hgoes
    refine ⟨_, exec_eviction_of_stub hflag hphase hevict hdrain hready hgoes hstub, ?_, mfind_mput_same _ _ _, ?_, ?_, reads.dev, reads.host⟩
    · exact ctxAt_setCtx s1 c _
    · simp [toStub]
    · rw [toStub, coreAt_modCore]
      exact reads.bank (coreOf c)
  case noStub =>
    have reads := stubOf_onlyRead hdrain hstub hgoes
    obtain ⟨hfree, hnext, v, hv, hctx, hbytes, hvstub⟩ := leaveBank_leaves s1 c false
    obtain ⟨hpc, hregs, hloops, hk, hlaneRegs, hmasks⟩ := keptCtx_program (c := c) reads
    have hmail : (ctxAt s1 c).bootMail = (ctxAt s c).bootMail := (congrArg Ctx.bootMail (reads.program c) :)
    rw [hmail] at hfree
    rw [reads.nextSave] at hnext hv
    rw [← hctx] at hpc hregs hloops hk hlaneRegs hmasks
    exact ⟨_, exec_eviction_without_stub hflag hphase hevict hdrain hready hgoes hstub, hfree, hnext, v, hv, hpc, hregs, hloops, hk, hlaneRegs, hmasks,
      hbytes.trans (reads.allotmentBytes c), hvstub⟩
  case restore =>
    obtain ⟨t, ht, hgone, hprogram⟩ := exec_restore_without_stub hflag hn hsorted hphase hplacing hlaunch hteam hstub
    exact ⟨t, ht, (congrArg Ctx.regs hprogram :), (congrArg Ctx.pc hprogram :), (congrArg Ctx.loops hprogram :), (congrArg Ctx.k hprogram :),
      (congrArg (·.lanes.masks) hprogram :), (congrArg Ctx.drain hprogram :), hgone⟩

end Sys2Proof.Machine
end
